-- ==== Sys2Proof/Word.lean ====
section
/-! DEFINITION. The word types of the machine (R5, R49). -/

namespace Sys2Proof

/-- A byte of memory. -/
abbrev Byte := BitVec 8

/-- A 64-bit register value or address. -/
abbrev Word := BitVec 64

/-- The name of an asynchronous operation of a thread: as many as it ever starts, so that no two outstanding ones share it.
The generation a token shows is its low 16 bits (R335, R338). -/
abbrev OpId := BitVec 64

end Sys2Proof
end

