-- ==== Sys2Proof/Syntax.lean ====
section
/-! DEFINITION. The instruction set as data: one constructor of `Instr` for every row of the opcode table.

A row with an encoding carries its raw bit fields (R50), named as the table names them; a row that is an EVENT of the
device (no encoding) carries what identifies the unit, the message or the request it is about. -/

namespace Sys2Proof

/-- A node of the roll-call tree (R35): the kind of the node and its index within the module. -/
inductive RollNode
  | core (n : BitVec 15)
  | group (n : BitVec 11)
  | quadrant (n : BitVec 8)
  | die (n : BitVec 6)
  | stack (n : BitVec 3)
  | launch
  deriving DecidableEq, Repr

/-- One scalar register image: 64 value bits and 8 tail bits (R105). -/
structure SReg where
  val : BitVec 64
  tail : BitVec 8
  deriving DecidableEq, Repr

/-- One vector register image: eight 32-bit slots and their tails, 8 bits a slot (R105). -/
structure VReg where
  val : BitVec 256
  tail : BitVec 64
  deriving DecidableEq, Repr

/-- An operand slot of a guest or result packet (R307). -/
inductive Slot
  | scalar (r : SReg)
  | wide (r : VReg)
  deriving DecidableEq, Repr

/-- A guest packet (R306). `lrec` is the launch record of the sender's launch, which its HWID implies; `aside` is what the B-core
learns of a masked operation beside the packet (log entry 11). -/
structure GuestPkt where
  hwid : BitVec 17
  insn : BitVec 32
  rqv : Bool
  rq : BitVec 2
  keep : Bool
  prio : BitVec 2
  trapcap : Bool
  shadow : Bool
  enables : BitVec 5
  rm : BitVec 3
  asid : BitVec 16
  seq : BitVec 16
  lrec : BitVec 16
  slots : List Slot
  aside : List Slot
  deriving DecidableEq, Repr

/-- A result packet (R308). -/
structure ResultPkt where
  hwid : BitVec 17
  seq : BitVec 16
  cause : BitVec 7
  flags : BitVec 5
  tval : BitVec 64
  value : Option Slot
  deriving DecidableEq, Repr

/-- What every coherence message names (R293): the line, the requester's die and pool (0 to 15 the classes, 16 to 23
the B-core pools of the die), its request type and ship sequence. -/
structure CohMsg where
  line : BitVec 52
  die : BitVec 6
  pool : BitVec 5
  rq : BitVec 2
  seq : BitVec 16
  deriving DecidableEq, Repr

/-- A probe the host sends for a line of host memory (R409). -/
inductive SnoopKind
  | invalidate
  | recall
  | share
  deriving DecidableEq, Repr

/-- A rule of the boundary filter (R412): a module a partition may send to, a host range a partition may reach, a message
kind the firmware mailbox may send. -/
inductive FilterRule
  | dest (part : BitVec 4) (module : BitVec 12)
  | host (part : BitVec 4) (base : BitVec 52) (len : BitVec 52)
  | mail (kind : BitVec 8)
  deriving DecidableEq, Repr

/-- A signature (R416): the hash of the public key it is made with, and whether it verifies under that key. The outside world
decides these. -/
structure Signature where
  key : BitVec 384
  ok : Bool
  deriving DecidableEq, Repr

/-- The two signatures of a signed object (R416): RSASSA-PSS and SLH-DSA. -/
structure Signed where
  rsa : Signature
  slh : Signature
  deriving DecidableEq, Repr

/-- How the steps of a start run (R413): which of them passed, the firmware image and the
signed configuration that step 6 verifies, and the digests of the firmware image and of Dyica's firmware that step 7 measures.
The outside world decides these. -/
structure StartRun where
  fuses : Bool
  training : Bool
  bist : Bool
  hbm : Bool
  bell : Bool
  image : Signed
  config : Signed
  inTime : Bool
  imageDigest : BitVec 384
  dyicaDigest : BitVec 384
  filter : List FilterRule
  deriving DecidableEq, Repr

/-- What the header flits of a fabric transfer say of its eight data flits (R410): a poison bit and a sector check each. -/
structure FlitMarks where
  poison : BitVec 8
  checks : BitVec 128
  deriving DecidableEq, Repr

/-- A register as the host reaches it (R407): BAR0 or BAR2, and the offset in it. -/
structure BarReg where
  bar0 : Bool
  off : BitVec 32
  deriving DecidableEq, Repr

/-- What a cap is set on (R422): the power of the module or of a stack, in W, or the arithmetic clock, in steps of 100 MHz. -/
inductive CapTarget
  | module
  | clock
  | stack (n : BitVec 3)
  deriving DecidableEq, Repr

/-- Where an SRAM or HBM error lies (R420): the unit's code, the physical address, the die and pool that held it; `poolOut`
is a pool that a machine check takes out of service (R300). -/
inductive ErrorSite
  | cleanCopy (unit : BitVec 16) (line : BitVec 52) (die : BitVec 6) (pool : BitVec 5)
  | onlyCopy (unit : BitVec 16) (line : BitVec 52) (die : BitVec 6) (pool : BitVec 5)
  | hbm (unit : BitVec 16) (sector : BitVec 52)
  | icache (unit : BitVec 16) (die : BitVec 6) (pool : BitVec 5) (block : BitVec 52)
  | poolOut (unit : BitVec 16) (die : BitVec 6) (pool : BitVec 5)
  deriving DecidableEq, Repr

/-- Every row of the opcode table: the 98 events of the device, then the 277 encoded instructions and hints. -/
inductive Instr
  | realignTimeout (hwid : BitVec 17)   -- REALIGN_TIMEOUT (R41)
  | doorbellWrite (q : BitVec 8)   -- DOORBELL_WRITE (R407)
  | launchPacket (q : BitVec 8)   -- LAUNCH_PACKET (R28)
  | phaseMark (q : BitVec 8)   -- PHASE_MARK (R373)
  | successorRelease (asid : BitVec 16) (handle : BitVec 64) (doomed : Bool)   -- SUCCESSOR_RELEASE (R31)
  | rollcallStatusWord (lrec : BitVec 16) (node : RollNode) (word : BitVec 64)   -- ROLLCALL_STATUS_WORD (R35)
  | hostCancel (cid : BitVec 12)   -- HOST_CANCEL (R46)
  | sliceExpiry (lrec : BitVec 16) (gang : BitVec 24)   -- SLICE_EXPIRY (R43)
  | taskStop (hwid : BitVec 17)   -- TASK_STOP (R43)
  | graceExpiry (lrec : BitVec 16) (gang : BitVec 24)   -- GRACE_EXPIRY (R45)
  | taskExitReport (hwid : BitVec 17)   -- TASK_EXIT_REPORT (R142)
  | layerSleep (die : BitVec 6)   -- LAYER_SLEEP (R22)
  | layerWake (die : BitVec 6)   -- LAYER_WAKE (R235)
  | bindRecordWrite (die : BitVec 6) (slot : BitVec 11) (w0 : BitVec 64) (w1 : BitVec 64) (w2 : BitVec 64) (w3 : BitVec 64)   -- BIND_RECORD_WRITE (R358)
  | openLent (die : BitVec 6) (lent : BitVec 6) (lrec : BitVec 16)   -- OPEN (R354)
  | closeLent (die : BitVec 6) (lent : BitVec 6)   -- CLOSE (R354)
  | claim (die : BitVec 6) (lent : BitVec 6)   -- CLAIM (R355)
  | unclaim (die : BitVec 6) (lent : BitVec 6) (gang : BitVec 24)   -- UNCLAIM (R355)
  | leaseCmd (die : BitVec 6) (entry : BitVec 8) (w0 : BitVec 64) (w1 : BitVec 64) (w2 : BitVec 64)   -- LEASE (R362)
  | releaseCmd (die : BitVec 6) (entry : BitVec 8)   -- RELEASE (R362)
  | preemptCmd (die : BitVec 6) (lent : BitVec 6) (gang : BitVec 24)   -- PREEMPT (R360)
  | bellpart (die : BitVec 6) (slot : BitVec 8) (part : BitVec 4)   -- BELLPART (R360)
  | leaseWalkDone (die : BitVec 6) (entry : BitVec 8)   -- LEASE_WALK_DONE (R362)
  | hostRangeMapped (die : BitVec 6) (entry : BitVec 8)   -- HOST_RANGE_MAPPED (R362)
  | hostLeaseRefuse (die : BitVec 6) (entry : BitVec 8)   -- HOST_LEASE_REFUSE (R362)
  | guestPacket (b : BitVec 9) (p : GuestPkt)   -- GUEST_PACKET (R310)
  | guestIssue (b : BitVec 9)   -- GUEST_ISSUE (R310)
  | guestAgeing (b : BitVec 9)   -- GUEST_AGEING (R310)
  | resultPacket (r : ResultPkt)   -- RESULT_PACKET (R309)
  | copyComplete (hwid : BitVec 17) (gen : OpId)   -- COPY_COMPLETE (R319)
  | copyEventRecord (hwid : BitVec 17) (gen : OpId)   -- COPY_EVENT_RECORD (R319)
  | matrixCommandStart (b : BitVec 9)   -- MATRIX_COMMAND_START (R320)
  | mcqAgeing (b : BitVec 9)   -- MCQ_AGEING (R320)
  | mcqOvertake (b : BitVec 9)   -- MCQ_OVERTAKE (R321)
  | mcqMigrate (b : BitVec 9) (target : BitVec 9)   -- MCQ_MIGRATE (R322)
  | mmsSplitHalf (b : BitVec 9)   -- MMS_SPLIT_HALF (R206)
  | mmsComplete (b : BitVec 9)   -- MMS_COMPLETE (R207)
  | channelReserve (lrec : BitVec 16) (ch : BitVec 2)   -- CHANNEL_RESERVE (R324)
  | channelSlotFilled (lrec : BitVec 16) (ch : BitVec 2) (res : BitVec 32)   -- CHANNEL_SLOT_FILLED (R324)
  | wdqRequest (hwid : BitVec 17) (gen : OpId)   -- WDQ_REQUEST (R329)
  | confluenceContribution (hwid : BitVec 17) (gen : OpId)   -- CONFLUENCE_CONTRIBUTION (R330)
  | bellSlot (stack : BitVec 3)   -- BELL_SLOT (R327)
  | bellFrameBoundary (stack : BitVec 3)   -- BELL_FRAME_BOUNDARY (R367)
  | gets (m : CohMsg)   -- GETS (R294)
  | geto (m : CohMsg) (full : Bool)   -- GETO (R294)
  | geti (m : CohMsg)   -- GETI (R294)
  | getu (m : CohMsg)   -- GETU (R294)
  | wrm (m : CohMsg) (mask : BitVec 64) (bytes : BitVec 512)   -- WRM (R296)
  | amoh (m : CohMsg) (aop : BitVec 4) (wide : Bool) (off : BitVec 6) (v : BitVec 64) (cmp : BitVec 64)   -- AMOH (R294)
  | puto (m : CohMsg) (data : Option (BitVec 512))   -- PUTO (R294)
  | putb (m : CohMsg) (mask : BitVec 64) (bytes : BitVec 512)   -- PUTB (R226)
  | lostMsg (m : CohMsg)   -- LOST (R301)
  | invMsg (m : CohMsg)   -- INV (R297)
  | recallMsg (m : CohMsg)   -- RECALL (R297)
  | downMsg (m : CohMsg)   -- DOWN (R297)
  | ackMsg (m : CohMsg) (toHome : Bool) (none : Bool)   -- ACK (R294)
  | dataMsg (m : CohMsg) (toHome : Bool) (none : Bool) (bytes : BitVec 512)   -- DATA (R294)
  | poisonMsg (m : CohMsg)   -- POISON (R301)
  | appendArrival (hwid : BitVec 17) (gen : OpId)   -- APPEND_ARRIVAL (R228)
  | appendWriteDone (page : BitVec 36) (off : BitVec 17)   -- APPEND_WRITE_DONE (R228)
  | sealArrival (hwid : BitVec 17) (gen : OpId)   -- SEAL_ARRIVAL (R230)
  | pageMigration (asid : BitVec 16) (va : BitVec 48) (frame : BitVec 52) (home : BitVec 6)   -- PAGE_MIGRATION (R216)
  | redirect (page : BitVec 36)   -- REDIRECT (R216)
  | hostFree (asid : BitVec 16) (va : BitVec 48)   -- HOST_FREE (R232)
  | shootdownMessage (page : BitVec 36) (stack : BitVec 3)   -- SHOOTDOWN_MESSAGE (R303)
  | shootdownAck (page : BitVec 36) (die : BitVec 6)   -- SHOOTDOWN_ACK (R303)
  | hostInvalidate (asid : BitVec 16) (va : BitVec 48) (len : BitVec 48)   -- HOST_INVALIDATE (R365)
  | hostMemAccess (pa : BitVec 52) (write : Bool) (size : BitVec 7) (bytes : BitVec 512)   -- HOST_MEM_ACCESS (R408)
  | hostSnoop (line : BitVec 52) (kind : SnoopKind)   -- HOST_SNOOP (R409)
  | fabricWrite (srcModule : BitVec 12) (va : BitVec 48) (size : BitVec 9) (bytes : BitVec 2048) (marks : FlitMarks)   -- FABRIC_WRITE (R411)
  | fabricAck (hwid : BitVec 17) (gen : OpId) (refused : Bool)   -- FABRIC_ACK (R411)
  | coldStart (r : StartRun)   -- COLD_START (R413)
  | warmStart (r : StartRun)   -- WARM_START (R413)
  | bootTimeout   -- BOOT_TIMEOUT (R415)
  | recoveryImageLoad (rsa : Signature) (slh : Signature)   -- RECOVERY_IMAGE_LOAD (R415)
  | getVersion   -- GET_VERSION (R417)
  | getCapabilities   -- GET_CAPABILITIES (R417)
  | negotiateAlgorithms (rsapss3072 : Bool) (sha384 : Bool)   -- NEGOTIATE_ALGORITHMS (R417)
  | getDigests   -- GET_DIGESTS (R417)
  | getCertificate (off : BitVec 16) (len : BitVec 16)   -- GET_CERTIFICATE (R417)
  | spdmChallenge (nonce : BitVec 256)   -- CHALLENGE (R417)
  | getMeasurements (index : BitVec 8)   -- GET_MEASUREMENTS (R417)
  | powerCapSet (who : CapTarget) (watts : BitVec 16)   -- POWER_CAP_SET (R422)
  | thermalThrottle (die : BitVec 6) (celsius : BitVec 10)   -- THERMAL_THROTTLE (R423)
  | thermalShutdown (die : BitVec 6) (celsius : BitVec 10)   -- THERMAL_SHUTDOWN (R423)
  | uncorrectableError (e : ErrorSite)   -- UNCORRECTABLE_ERROR (R420)
  | firmwareMailboxSend (die : BitVec 6) (kind : BitVec 8) (msg : BitVec 512)   -- FIRMWARE_MAILBOX_SEND (R360)
  | queueTableWrite (q : BitVec 8) (word : BitVec 1) (v : BitVec 64)   -- QUEUE_TABLE_WRITE (R351)
  | counterEntryWrite (cid : BitVec 12) (word : BitVec 2) (v : BitVec 64)   -- COUNTER_ENTRY_WRITE (R372)
  | belltabWrite (stack : BitVec 3) (slot : BitVec 8) (v : BitVec 16)   -- BELLTAB_WRITE (R352)
  | confluenceTableWrite (index : BitVec 8) (v : BitVec 16)   -- CONFLUENCE_TABLE_WRITE (R368)
  | perfSelectWrite (die : BitVec 6) (off : BitVec 16) (v : BitVec 64)   -- PERF_SELECT_WRITE (R387)
  | hostRegisterWrite (reg : BarReg) (size : BitVec 4) (v : BitVec 64)   -- HOST_REGISTER_WRITE (R350)
  | hostevRecordAccept (hwid : BitVec 17) (gen : OpId)   -- HOSTEV_RECORD_ACCEPT (R398)
  | softErrorCorrected (e : ErrorSite)   -- SOFT_ERROR_CORRECTED (R420)
  | flitRetry (port : BitVec 7)   -- FLIT_RETRY (R410)
  | linkUncorrectableError (link : BitVec 8)   -- LINK_UNCORRECTABLE_ERROR (R413)
  | powerCapEnforcement (stack : BitVec 3)   -- POWER_CAP_ENFORCEMENT (R422)
  | add (d : BitVec 6) (a : BitVec 6) (b : BitVec 6)   -- ADD (R126)
  | sub (d : BitVec 6) (a : BitVec 6) (b : BitVec 6)   -- SUB (R126)
  | and (d : BitVec 6) (a : BitVec 6) (b : BitVec 6)   -- AND (R126)
  | or (d : BitVec 6) (a : BitVec 6) (b : BitVec 6)   -- OR (R126)
  | xor (d : BitVec 6) (a : BitVec 6) (b : BitVec 6)   -- XOR (R126)
  | andn (d : BitVec 6) (a : BitVec 6) (b : BitVec 6)   -- ANDN (R126)
  | orn (d : BitVec 6) (a : BitVec 6) (b : BitVec 6)   -- ORN (R126)
  | xnor (d : BitVec 6) (a : BitVec 6) (b : BitVec 6)   -- XNOR (R126)
  | shl (d : BitVec 6) (a : BitVec 6) (b : BitVec 6)   -- SHL (R126)
  | shr (d : BitVec 6) (a : BitVec 6) (b : BitVec 6)   -- SHR (R126)
  | sra (d : BitVec 6) (a : BitVec 6) (b : BitVec 6)   -- SRA (R126)
  | rol (d : BitVec 6) (a : BitVec 6) (b : BitVec 6)   -- ROL (R126)
  | ror (d : BitVec 6) (a : BitVec 6) (b : BitVec 6)   -- ROR (R126)
  | min (d : BitVec 6) (a : BitVec 6) (b : BitVec 6)   -- MIN (R126)
  | max (d : BitVec 6) (a : BitVec 6) (b : BitVec 6)   -- MAX (R126)
  | minu (d : BitVec 6) (a : BitVec 6) (b : BitVec 6)   -- MINU (R126)
  | maxu (d : BitVec 6) (a : BitVec 6) (b : BitVec 6)   -- MAXU (R126)
  | slt (d : BitVec 6) (a : BitVec 6) (b : BitVec 6)   -- SLT (R126)
  | sltu (d : BitVec 6) (a : BitVec 6) (b : BitVec 6)   -- SLTU (R126)
  | seq (d : BitVec 6) (a : BitVec 6) (b : BitVec 6)   -- SEQ (R126)
  | sne (d : BitVec 6) (a : BitVec 6) (b : BitVec 6)   -- SNE (R126)
  | mul (d : BitVec 6) (a : BitVec 6) (b : BitVec 6)   -- MUL (R126)
  | mulh (d : BitVec 6) (a : BitVec 6) (b : BitVec 6)   -- MULH (R126)
  | mulhu (d : BitVec 6) (a : BitVec 6) (b : BitVec 6)   -- MULHU (R126)
  | div (d : BitVec 6) (a : BitVec 6) (b : BitVec 6)   -- DIV (R127)
  | divu (d : BitVec 6) (a : BitVec 6) (b : BitVec 6)   -- DIVU (R127)
  | rem (d : BitVec 6) (a : BitVec 6) (b : BitVec 6)   -- REM (R127)
  | remu (d : BitVec 6) (a : BitVec 6) (b : BitVec 6)   -- REMU (R127)
  | clz (d : BitVec 6) (a : BitVec 6)   -- CLZ (R126)
  | ctz (d : BitVec 6) (a : BitVec 6)   -- CTZ (R126)
  | popc (d : BitVec 6) (a : BitVec 6)   -- POPC (R126)
  | brev (d : BitVec 6) (a : BitVec 6)   -- BREV (R126)
  | bswap (d : BitVec 6) (a : BitVec 6)   -- BSWAP (R126)
  | sext (d : BitVec 6) (a : BitVec 6) (w : BitVec 6)   -- SEXT (R128)
  | zext (d : BitVec 6) (a : BitVec 6) (w : BitVec 6)   -- ZEXT (R128)
  | addw (d : BitVec 6) (a : BitVec 6) (b : BitVec 6)   -- ADDW (R126)
  | subw (d : BitVec 6) (a : BitVec 6) (b : BitVec 6)   -- SUBW (R126)
  | mulw (d : BitVec 6) (a : BitVec 6) (b : BitVec 6)   -- MULW (R126)
  | shlw (d : BitVec 6) (a : BitVec 6) (b : BitVec 6)   -- SHLW (R126)
  | shrw (d : BitVec 6) (a : BitVec 6) (b : BitVec 6)   -- SHRW (R126)
  | sraw (d : BitVec 6) (a : BitVec 6) (b : BitVec 6)   -- SRAW (R126)
  | mov (d : BitVec 6) (a : BitVec 6)   -- MOV (R126)
  | addi (d : BitVec 6) (a : BitVec 6) (i : BitVec 14)   -- ADDI (R129)
  | andi (d : BitVec 6) (a : BitVec 6) (i : BitVec 14)   -- ANDI (R129)
  | ori (d : BitVec 6) (a : BitVec 6) (i : BitVec 14)   -- ORI (R129)
  | xori (d : BitVec 6) (a : BitVec 6) (i : BitVec 14)   -- XORI (R129)
  | shli (d : BitVec 6) (a : BitVec 6) (s : BitVec 6)   -- SHLI (R130)
  | shri (d : BitVec 6) (a : BitVec 6) (s : BitVec 6)   -- SHRI (R130)
  | srai (d : BitVec 6) (a : BitVec 6) (s : BitVec 6)   -- SRAI (R130)
  | rori (d : BitVec 6) (a : BitVec 6) (s : BitVec 6)   -- RORI (R130)
  | slti (d : BitVec 6) (a : BitVec 6) (i : BitVec 14)   -- SLTI (R129)
  | sltiu (d : BitVec 6) (a : BitVec 6) (i : BitVec 14)   -- SLTIU (R129)
  | lhi (d : BitVec 6) (i : BitVec 20)   -- LHI (R131)
  | pchi (d : BitVec 6) (i : BitVec 20)   -- PCHI (R131)
  | beq (a : BitVec 6) (b : BitVec 6) (o : BitVec 11)   -- BEQ (R132)
  | bne (a : BitVec 6) (b : BitVec 6) (o : BitVec 11)   -- BNE (R132)
  | blt (a : BitVec 6) (b : BitVec 6) (o : BitVec 11)   -- BLT (R132)
  | bge (a : BitVec 6) (b : BitVec 6) (o : BitVec 11)   -- BGE (R132)
  | bltu (a : BitVec 6) (b : BitVec 6) (o : BitVec 11)   -- BLTU (R132)
  | bgeu (a : BitVec 6) (b : BitVec 6) (o : BitVec 11)   -- BGEU (R132)
  | jal (d : BitVec 6) (o : BitVec 20)   -- JAL (R133)
  | jalr (d : BitVec 6) (a : BitVec 6) (i : BitVec 14)   -- JALR (R133)
  | loop (l : BitVec 6) (a : BitVec 6) (i : BitVec 14)   -- LOOP (R134)
  | yield (a : BitVec 6)   -- YIELD (R141)
  | exitTask   -- EXIT (R142)
  | forkr (d : BitVec 6) (a : BitVec 6) (b : BitVec 6)   -- FORKR (R381)
  | trap (a : BitVec 6)   -- TRAP (R397)
  | eret   -- ERET (R396)
  | syscFree (d : BitVec 6) (a : BitVec 6)   -- SYSC_FREE (R398)
  | syscHostev (d : BitVec 6) (a : BitVec 6)   -- SYSC_HOSTEV (R398)
  | brk (c : BitVec 6)   -- BRK (R397)
  | lbrk   -- LBRK (R136)
  | vrel (f : BitVec 1) (a : BitVec 6) (b : BitVec 6)   -- VREL (R143)
  | fencei   -- FENCEI (R144)
  | ldb (d : BitVec 6) (a : BitVec 6) (q : BitVec 2) (o : BitVec 2) (i : BitVec 10)   -- LDB (R243)
  | ldh (d : BitVec 6) (a : BitVec 6) (q : BitVec 2) (o : BitVec 2) (i : BitVec 10)   -- LDH (R243)
  | ldw (d : BitVec 6) (a : BitVec 6) (q : BitVec 2) (o : BitVec 2) (i : BitVec 10)   -- LDW (R243)
  | ldd (d : BitVec 6) (a : BitVec 6) (q : BitVec 2) (o : BitVec 2) (i : BitVec 10)   -- LDD (R243)
  | ldbu (d : BitVec 6) (a : BitVec 6) (q : BitVec 2) (o : BitVec 2) (i : BitVec 10)   -- LDBU (R243)
  | ldhu (d : BitVec 6) (a : BitVec 6) (q : BitVec 2) (o : BitVec 2) (i : BitVec 10)   -- LDHU (R243)
  | ldwu (d : BitVec 6) (a : BitVec 6) (q : BitVec 2) (o : BitVec 2) (i : BitVec 10)   -- LDWU (R243)
  | stb (b : BitVec 6) (a : BitVec 6) (q : BitVec 2) (o : BitVec 2) (i : BitVec 10)   -- STB (R243)
  | sth (b : BitVec 6) (a : BitVec 6) (q : BitVec 2) (o : BitVec 2) (i : BitVec 10)   -- STH (R243)
  | stw (b : BitVec 6) (a : BitVec 6) (q : BitVec 2) (o : BitVec 2) (i : BitVec 10)   -- STW (R243)
  | std (b : BitVec 6) (a : BitVec 6) (q : BitVec 2) (o : BitVec 2) (i : BitVec 10)   -- STD (R243)
  | fld (d : BitVec 6) (a : BitVec 6) (f : BitVec 4) (q : BitVec 2) (i : BitVec 8)   -- FLD (R244)
  | fst (b : BitVec 6) (a : BitVec 6) (f : BitVec 4) (m : BitVec 3) (i : BitVec 7)   -- FST (R244)
  | ldt (d : BitVec 6) (a : BitVec 6) (i : BitVec 14)   -- LDT (R245)
  | stt (d : BitVec 6) (a : BitVec 6) (i : BitVec 14)   -- STT (R245)
  | vld (d : BitVec 6) (a : BitVec 6) (k : BitVec 2) (p : BitVec 1) (q : BitVec 2) (i : BitVec 9)   -- VLD (R246)
  | vst (d : BitVec 6) (a : BitVec 6) (k : BitVec 2) (q : BitVec 2) (i : BitVec 9)   -- VST (R246)
  | vlds (d : BitVec 6) (a : BitVec 6) (b : BitVec 6) (k : BitVec 2) (p : BitVec 1) (q : BitVec 2)   -- VLDS (R246)
  | vgather (d : BitVec 6) (a : BitVec 6) (b : BitVec 6) (k : BitVec 2) (p : BitVec 1) (q : BitVec 2)   -- VGATHER (R246)
  | vldt (d : BitVec 6) (a : BitVec 6) (q : BitVec 2)   -- VLDT (R245)
  | vsts (d : BitVec 6) (a : BitVec 6) (b : BitVec 6) (k : BitVec 2) (q : BitVec 2)   -- VSTS (R246)
  | vscatter (d : BitVec 6) (a : BitVec 6) (b : BitVec 6) (k : BitVec 2) (q : BitVec 2)   -- VSCATTER (R246)
  | vstt (d : BitVec 6) (a : BitVec 6) (q : BitVec 2)   -- VSTT (R245)
  | amoadd (d : BitVec 6) (a : BitVec 6) (b : BitVec 6) (w : BitVec 1) (s : BitVec 3)   -- AMOADD (R249)
  | amoand (d : BitVec 6) (a : BitVec 6) (b : BitVec 6) (w : BitVec 1) (s : BitVec 3)   -- AMOAND (R249)
  | amoor (d : BitVec 6) (a : BitVec 6) (b : BitVec 6) (w : BitVec 1) (s : BitVec 3)   -- AMOOR (R249)
  | amoxor (d : BitVec 6) (a : BitVec 6) (b : BitVec 6) (w : BitVec 1) (s : BitVec 3)   -- AMOXOR (R249)
  | amomin (d : BitVec 6) (a : BitVec 6) (b : BitVec 6) (w : BitVec 1) (s : BitVec 3)   -- AMOMIN (R249)
  | amomax (d : BitVec 6) (a : BitVec 6) (b : BitVec 6) (w : BitVec 1) (s : BitVec 3)   -- AMOMAX (R249)
  | amominu (d : BitVec 6) (a : BitVec 6) (b : BitVec 6) (w : BitVec 1) (s : BitVec 3)   -- AMOMINU (R249)
  | amomaxu (d : BitVec 6) (a : BitVec 6) (b : BitVec 6) (w : BitVec 1) (s : BitVec 3)   -- AMOMAXU (R249)
  | amoswap (d : BitVec 6) (a : BitVec 6) (b : BitVec 6) (w : BitVec 1) (s : BitVec 3)   -- AMOSWAP (R249)
  | amocas (d : BitVec 6) (a : BitVec 6) (b : BitVec 6) (w : BitVec 1) (s : BitVec 3)   -- AMOCAS (R249)
  | cas2 (d : BitVec 6) (a : BitVec 6) (b : BitVec 6) (s : BitVec 3)   -- CAS2 (R251)
  | swap2 (d : BitVec 6) (a : BitVec 6) (b : BitVec 6) (s : BitVec 3)   -- SWAP2 (R251)
  | faddaF (d : BitVec 6) (a : BitVec 6) (b : BitVec 6) (s : BitVec 3)   -- FADDA_F (R252)
  | faddaD (d : BitVec 6) (a : BitVec 6) (b : BitVec 6) (s : BitVec 3)   -- FADDA_D (R252)
  | vamoadd (d : BitVec 6) (a : BitVec 6) (b : BitVec 6) (s : BitVec 3)   -- VAMOADD (R251)
  | appendW (d : BitVec 6) (a : BitVec 6) (b : BitVec 6)   -- APPEND_W (R253)
  | appendD (d : BitVec 6) (a : BitVec 6) (b : BitVec 6)   -- APPEND_D (R253)
  | appendv (d : BitVec 6) (a : BitVec 6) (b : BitVec 6)   -- APPENDV (R253)
  | sealPage (d : BitVec 6) (a : BitVec 6)   -- SEAL (R255)
  | tailq (d : BitVec 6) (a : BitVec 6)   -- TAILQ (R256)
  | wbr (d : BitVec 6) (a : BitVec 6) (b : BitVec 6) (s : BitVec 3)   -- WBR (R257)
  | invr (d : BitVec 6) (a : BitVec 6) (b : BitVec 6) (s : BitVec 3)   -- INVR (R257)
  | wbinvr (d : BitVec 6) (a : BitVec 6) (b : BitVec 6) (s : BitVec 3)   -- WBINVR (R257)
  | pref (a : BitVec 6) (b : BitVec 6)   -- PREF (R260)
  | stashmap (d : BitVec 6) (a : BitVec 6) (b : BitVec 6)   -- STASHMAP (R258)
  | stashflush (d : BitVec 6) (a : BitVec 6) (b : BitVec 6) (s : BitVec 3)   -- STASHFLUSH (R259)
  | linez (d : BitVec 6) (a : BitVec 6) (b : BitVec 6)   -- LINEZ (R260)
  | fence (s : BitVec 3)   -- FENCE (R261)
  | fencex (p : BitVec 3) (q : BitVec 3) (s : BitVec 3)   -- FENCEX (R261)
  | acq (d : BitVec 6) (a : BitVec 6) (s : BitVec 3)   -- ACQ (R262)
  | rel (a : BitVec 6) (b : BitVec 6) (s : BitVec 3)   -- REL (R263)
  | bindRegion (a : BitVec 6) (b : BitVec 6)   -- BIND (R264)
  | unbindRegion (a : BitVec 6) (b : BitVec 6) (s : BitVec 3)   -- UNBIND (R264)
  | bst (a : BitVec 6) (b : BitVec 6)   -- BST (R265)
  | bamoAdd (d : BitVec 6) (a : BitVec 6) (b : BitVec 6)   -- BAMO_ADD (R265)
  | bamoMax (d : BitVec 6) (a : BitVec 6) (b : BitVec 6)   -- BAMO_MAX (R265)
  | bamoOr (d : BitVec 6) (a : BitVec 6) (b : BitVec 6)   -- BAMO_OR (R265)
  | bamoSwap (d : BitVec 6) (a : BitVec 6) (b : BitVec 6)   -- BAMO_SWAP (R265)
  | vadd (d : BitVec 6) (a : BitVec 6) (b : BitVec 6) (k : BitVec 2) (p : BitVec 1) (h : BitVec 1) (g : BitVec 1)   -- VADD (R150)
  | vsub (d : BitVec 6) (a : BitVec 6) (b : BitVec 6) (k : BitVec 2) (p : BitVec 1) (h : BitVec 1) (g : BitVec 1)   -- VSUB (R150)
  | vmul (d : BitVec 6) (a : BitVec 6) (b : BitVec 6) (k : BitVec 2) (p : BitVec 1) (h : BitVec 1) (g : BitVec 1)   -- VMUL (R150)
  | vmulh (d : BitVec 6) (a : BitVec 6) (b : BitVec 6) (k : BitVec 2) (p : BitVec 1) (h : BitVec 1) (g : BitVec 1)   -- VMULH (R150)
  | vmin (d : BitVec 6) (a : BitVec 6) (b : BitVec 6) (k : BitVec 2) (p : BitVec 1) (h : BitVec 1) (g : BitVec 1)   -- VMIN (R150)
  | vmax (d : BitVec 6) (a : BitVec 6) (b : BitVec 6) (k : BitVec 2) (p : BitVec 1) (h : BitVec 1) (g : BitVec 1)   -- VMAX (R150)
  | vminu (d : BitVec 6) (a : BitVec 6) (b : BitVec 6) (k : BitVec 2) (p : BitVec 1) (h : BitVec 1) (g : BitVec 1)   -- VMINU (R150)
  | vmaxu (d : BitVec 6) (a : BitVec 6) (b : BitVec 6) (k : BitVec 2) (p : BitVec 1) (h : BitVec 1) (g : BitVec 1)   -- VMAXU (R150)
  | vand (d : BitVec 6) (a : BitVec 6) (b : BitVec 6) (k : BitVec 2) (p : BitVec 1) (h : BitVec 1) (g : BitVec 1)   -- VAND (R152)
  | vor (d : BitVec 6) (a : BitVec 6) (b : BitVec 6) (k : BitVec 2) (p : BitVec 1) (h : BitVec 1) (g : BitVec 1)   -- VOR (R152)
  | vxor (d : BitVec 6) (a : BitVec 6) (b : BitVec 6) (k : BitVec 2) (p : BitVec 1) (h : BitVec 1) (g : BitVec 1)   -- VXOR (R152)
  | vandn (d : BitVec 6) (a : BitVec 6) (b : BitVec 6) (k : BitVec 2) (p : BitVec 1) (h : BitVec 1) (g : BitVec 1)   -- VANDN (R152)
  | vshl (d : BitVec 6) (a : BitVec 6) (b : BitVec 6) (k : BitVec 2) (p : BitVec 1) (h : BitVec 1) (g : BitVec 1)   -- VSHL (R152)
  | vshr (d : BitVec 6) (a : BitVec 6) (b : BitVec 6) (k : BitVec 2) (p : BitVec 1) (h : BitVec 1) (g : BitVec 1)   -- VSHR (R152)
  | vsra (d : BitVec 6) (a : BitVec 6) (b : BitVec 6) (k : BitVec 2) (p : BitVec 1) (h : BitVec 1) (g : BitVec 1)   -- VSRA (R152)
  | vsel (d : BitVec 6) (a : BitVec 6) (b : BitVec 6) (k : BitVec 2) (h : BitVec 1) (g : BitVec 1)   -- VSEL (R153)
  | vceq (d : BitVec 6) (a : BitVec 6) (b : BitVec 6) (k : BitVec 2) (p : BitVec 1) (h : BitVec 1) (g : BitVec 1)   -- VCEQ (R154)
  | vcne (d : BitVec 6) (a : BitVec 6) (b : BitVec 6) (k : BitVec 2) (p : BitVec 1) (h : BitVec 1) (g : BitVec 1)   -- VCNE (R154)
  | vclt (d : BitVec 6) (a : BitVec 6) (b : BitVec 6) (k : BitVec 2) (p : BitVec 1) (h : BitVec 1) (g : BitVec 1)   -- VCLT (R154)
  | vcle (d : BitVec 6) (a : BitVec 6) (b : BitVec 6) (k : BitVec 2) (p : BitVec 1) (h : BitVec 1) (g : BitVec 1)   -- VCLE (R154)
  | vcltu (d : BitVec 6) (a : BitVec 6) (b : BitVec 6) (k : BitVec 2) (p : BitVec 1) (h : BitVec 1) (g : BitVec 1)   -- VCLTU (R154)
  | vcleu (d : BitVec 6) (a : BitVec 6) (b : BitVec 6) (k : BitVec 2) (p : BitVec 1) (h : BitVec 1) (g : BitVec 1)   -- VCLEU (R154)
  | vsplat (d : BitVec 6) (a : BitVec 6) (k : BitVec 2) (p : BitVec 1)   -- VSPLAT (R155)
  | vext (d : BitVec 6) (a : BitVec 6) (b : BitVec 6) (h : BitVec 1)   -- VEXT (R155)
  | vperm (d : BitVec 6) (a : BitVec 6) (b : BitVec 6) (k : BitVec 2) (p : BitVec 1) (h : BitVec 1) (g : BitVec 1)   -- VPERM (R157)
  | vrot (d : BitVec 6) (a : BitVec 6) (b : BitVec 6) (k : BitVec 2) (p : BitVec 1) (h : BitVec 1) (g : BitVec 1)   -- VROT (R158)
  | vshuf (d : BitVec 6) (a : BitVec 6) (b : BitVec 6) (k : BitVec 2) (p : BitVec 1) (h : BitVec 1) (g : BitVec 1)   -- VSHUF (R160)
  | vred (d : BitVec 6) (a : BitVec 6) (c : BitVec 6) (k : BitVec 2) (h : BitVec 1)   -- VRED (R161)
  | vscan (d : BitVec 6) (a : BitVec 6) (c : BitVec 6) (k : BitVec 2) (p : BitVec 1) (h : BitVec 1)   -- VSCAN (R162)
  | vcomp (d : BitVec 6) (a : BitVec 6) (k : BitVec 2) (p : BitVec 1) (h : BitVec 1)   -- VCOMP (R163)
  | vexpd (d : BitVec 6) (a : BitVec 6) (k : BitVec 2) (p : BitVec 1) (h : BitVec 1)   -- VEXPD (R163)
  | vins (d : BitVec 6) (a : BitVec 6) (b : BitVec 6) (k : BitVec 2)   -- VINS (R155)
  | vfadd (d : BitVec 6) (a : BitVec 6) (b : BitVec 6) (k : BitVec 2) (p : BitVec 1) (t : BitVec 2)   -- VFADD (R178)
  | vfsub (d : BitVec 6) (a : BitVec 6) (b : BitVec 6) (k : BitVec 2) (p : BitVec 1) (t : BitVec 2)   -- VFSUB (R178)
  | vfmul (d : BitVec 6) (a : BitVec 6) (b : BitVec 6) (k : BitVec 2) (p : BitVec 1) (t : BitVec 2)   -- VFMUL (R178)
  | vfdiv (d : BitVec 6) (a : BitVec 6) (b : BitVec 6) (k : BitVec 2) (p : BitVec 1) (t : BitVec 2)   -- VFDIV (R178)
  | vfmin (d : BitVec 6) (a : BitVec 6) (b : BitVec 6) (k : BitVec 2) (p : BitVec 1) (t : BitVec 2)   -- VFMIN (R178)
  | vfmax (d : BitVec 6) (a : BitVec 6) (b : BitVec 6) (k : BitVec 2) (p : BitVec 1) (t : BitVec 2)   -- VFMAX (R178)
  | vfscpy (d : BitVec 6) (a : BitVec 6) (b : BitVec 6) (k : BitVec 2) (p : BitVec 1) (t : BitVec 2)   -- VFSCPY (R178)
  | vfscpyn (d : BitVec 6) (a : BitVec 6) (b : BitVec 6) (k : BitVec 2) (p : BitVec 1) (t : BitVec 2)   -- VFSCPYN (R178)
  | vfma (d : BitVec 6) (a : BitVec 6) (b : BitVec 6) (k : BitVec 2) (p : BitVec 1) (t : BitVec 2)   -- VFMA (R178)
  | vfms (d : BitVec 6) (a : BitVec 6) (b : BitVec 6) (k : BitVec 2) (p : BitVec 1) (t : BitVec 2)   -- VFMS (R178)
  | vfnma (d : BitVec 6) (a : BitVec 6) (b : BitVec 6) (k : BitVec 2) (p : BitVec 1) (t : BitVec 2)   -- VFNMA (R178)
  | vfnms (d : BitVec 6) (a : BitVec 6) (b : BitVec 6) (k : BitVec 2) (p : BitVec 1) (t : BitVec 2)   -- VFNMS (R178)
  | vfsqrt (d : BitVec 6) (a : BitVec 6) (k : BitVec 2) (p : BitVec 1) (t : BitVec 2)   -- VFSQRT (R178)
  | vfrnd (d : BitVec 6) (a : BitVec 6) (k : BitVec 2) (p : BitVec 1) (t : BitVec 2)   -- VFRND (R178)
  | vfclass (d : BitVec 6) (a : BitVec 6) (k : BitVec 2) (p : BitVec 1) (t : BitVec 2)   -- VFCLASS (R178)
  | vftailr (d : BitVec 6) (a : BitVec 6) (k : BitVec 2) (p : BitVec 1) (t : BitVec 2)   -- VFTAILR (R179)
  | vftailw (d : BitVec 6) (a : BitVec 6) (k : BitVec 2) (p : BitVec 1) (t : BitVec 2)   -- VFTAILW (R179)
  | vfeq (d : BitVec 6) (a : BitVec 6) (b : BitVec 6) (k : BitVec 2) (p : BitVec 1) (t : BitVec 2)   -- VFEQ (R178)
  | vflt (d : BitVec 6) (a : BitVec 6) (b : BitVec 6) (k : BitVec 2) (p : BitVec 1) (t : BitVec 2)   -- VFLT (R178)
  | vfle (d : BitVec 6) (a : BitVec 6) (b : BitVec 6) (k : BitVec 2) (p : BitVec 1) (t : BitVec 2)   -- VFLE (R178)
  | vfunord (d : BitVec 6) (a : BitVec 6) (b : BitVec 6) (k : BitVec 2) (p : BitVec 1) (t : BitVec 2)   -- VFUN (R178)
  | vfeqx (d : BitVec 6) (a : BitVec 6) (b : BitVec 6) (k : BitVec 2) (p : BitVec 1) (t : BitVec 2)   -- VFEQX (R178)
  | vfltx (d : BitVec 6) (a : BitVec 6) (b : BitVec 6) (k : BitVec 2) (p : BitVec 1) (t : BitVec 2)   -- VFLTX (R178)
  | vflex (d : BitVec 6) (a : BitVec 6) (b : BitVec 6) (k : BitVec 2) (p : BitVec 1) (t : BitVec 2)   -- VFLEX (R178)
  | vfne (d : BitVec 6) (a : BitVec 6) (b : BitVec 6) (k : BitVec 2) (p : BitVec 1) (t : BitVec 2)   -- VFNE (R178)
  | vfcvt (d : BitVec 6) (a : BitVec 6) (k : BitVec 2) (p : BitVec 1) (s : BitVec 4) (t : BitVec 4) (m : BitVec 3)   -- VFCVT (R180)
  | vfexp2 (d : BitVec 6) (a : BitVec 6) (k : BitVec 2) (p : BitVec 1) (t : BitVec 2)   -- VFEXP2 (R174)
  | vflog2 (d : BitVec 6) (a : BitVec 6) (k : BitVec 2) (p : BitVec 1) (t : BitVec 2)   -- VFLOG2 (R174)
  | vfsinpi (d : BitVec 6) (a : BitVec 6) (k : BitVec 2) (p : BitVec 1) (t : BitVec 2)   -- VFSINPI (R174)
  | vfcospi (d : BitVec 6) (a : BitVec 6) (k : BitVec 2) (p : BitVec 1) (t : BitVec 2)   -- VFCOSPI (R174)
  | vfrsqrt (d : BitVec 6) (a : BitVec 6) (k : BitVec 2) (p : BitVec 1) (t : BitVec 2)   -- VFRSQRT (R174)
  | vftanh (d : BitVec 6) (a : BitVec 6) (k : BitVec 2) (p : BitVec 1) (t : BitVec 2)   -- VFTANH (R174)
  | fadd (d : BitVec 6) (a : BitVec 6) (b : BitVec 6) (t : BitVec 2)   -- FADD (R168)
  | fsub (d : BitVec 6) (a : BitVec 6) (b : BitVec 6) (t : BitVec 2)   -- FSUB (R168)
  | fmul (d : BitVec 6) (a : BitVec 6) (b : BitVec 6) (t : BitVec 2)   -- FMUL (R168)
  | fdiv (d : BitVec 6) (a : BitVec 6) (b : BitVec 6) (t : BitVec 2)   -- FDIV (R168)
  | fsqrt (d : BitVec 6) (a : BitVec 6) (t : BitVec 2)   -- FSQRT (R168)
  | fmin (d : BitVec 6) (a : BitVec 6) (b : BitVec 6) (t : BitVec 2)   -- FMIN (R169)
  | fmax (d : BitVec 6) (a : BitVec 6) (b : BitVec 6) (t : BitVec 2)   -- FMAX (R169)
  | fscpy (d : BitVec 6) (a : BitVec 6) (b : BitVec 6) (t : BitVec 2)   -- FSCPY (R169)
  | fscpyn (d : BitVec 6) (a : BitVec 6) (b : BitVec 6) (t : BitVec 2)   -- FSCPYN (R169)
  | fsxor (d : BitVec 6) (a : BitVec 6) (b : BitVec 6) (t : BitVec 2)   -- FSXOR (R169)
  | fma (d : BitVec 6) (a : BitVec 6) (b : BitVec 6) (t : BitVec 2)   -- FMA (R168)
  | fms (d : BitVec 6) (a : BitVec 6) (b : BitVec 6) (t : BitVec 2)   -- FMS (R168)
  | fnma (d : BitVec 6) (a : BitVec 6) (b : BitVec 6) (t : BitVec 2)   -- FNMA (R168)
  | fnms (d : BitVec 6) (a : BitVec 6) (b : BitVec 6) (t : BitVec 2)   -- FNMS (R168)
  | feq (d : BitVec 6) (a : BitVec 6) (b : BitVec 6) (t : BitVec 2)   -- FEQ (R170)
  | flt (d : BitVec 6) (a : BitVec 6) (b : BitVec 6) (t : BitVec 2)   -- FLT (R170)
  | fle (d : BitVec 6) (a : BitVec 6) (b : BitVec 6) (t : BitVec 2)   -- FLE (R170)
  | funord (d : BitVec 6) (a : BitVec 6) (b : BitVec 6) (t : BitVec 2)   -- FUN (R170)
  | feqx (d : BitVec 6) (a : BitVec 6) (b : BitVec 6) (t : BitVec 2)   -- FEQX (R170)
  | fltx (d : BitVec 6) (a : BitVec 6) (b : BitVec 6) (t : BitVec 2)   -- FLTX (R170)
  | flex (d : BitVec 6) (a : BitVec 6) (b : BitVec 6) (t : BitVec 2)   -- FLEX (R170)
  | fclass (d : BitVec 6) (a : BitVec 6) (t : BitVec 2)   -- FCLASS (R171)
  | frnd (d : BitVec 6) (a : BitVec 6) (t : BitVec 2)   -- FRND (R172)
  | fmvx (d : BitVec 6) (a : BitVec 6) (t : BitVec 2)   -- FMVX (R173)
  | fmvf (d : BitVec 6) (a : BitVec 6) (t : BitVec 2)   -- FMVF (R173)
  | ftailr (d : BitVec 6) (a : BitVec 6)   -- FTAILR (R173)
  | ftailw (d : BitVec 6) (a : BitVec 6)   -- FTAILW (R173)
  | fexp2 (d : BitVec 6) (a : BitVec 6) (t : BitVec 2)   -- FEXP2 (R174)
  | flog2 (d : BitVec 6) (a : BitVec 6) (t : BitVec 2)   -- FLOG2 (R174)
  | fsinpi (d : BitVec 6) (a : BitVec 6) (t : BitVec 2)   -- FSINPI (R174)
  | fcospi (d : BitVec 6) (a : BitVec 6) (t : BitVec 2)   -- FCOSPI (R174)
  | frsqrt (d : BitVec 6) (a : BitVec 6) (t : BitVec 2)   -- FRSQRT (R174)
  | ftanh (d : BitVec 6) (a : BitVec 6) (t : BitVec 2)   -- FTANH (R174)
  | fcvt (d : BitVec 6) (a : BitVec 6) (s : BitVec 4) (t : BitVec 4) (m : BitVec 3)   -- FCVT (R175)
  | tcfg (d : BitVec 6) (a : BitVec 6)   -- TCFG (R193)
  | tzero (d : BitVec 6)   -- TZERO (R193)
  | tld (d : BitVec 6) (a : BitVec 6) (b : BitVec 6)   -- TLD (R194)
  | tst (d : BitVec 6) (a : BitVec 6) (b : BitVec 6)   -- TST (R194)
  | tldbp (d : BitVec 6) (a : BitVec 6) (b : BitVec 6)   -- TLDBP (R195)
  | tldmx (d : BitVec 6) (a : BitVec 6) (b : BitVec 6)   -- TLDMX (R196)
  | mma (d : BitVec 6) (a : BitVec 6) (b : BitVec 6)   -- MMA (R201)
  | tcvt (d : BitVec 6) (a : BitVec 6) (m : BitVec 3)   -- TCVT (R199)
  | tmov (d : BitVec 6) (a : BitVec 6)   -- TMOV (R193)
  | tget (d : BitVec 6) (a : BitVec 6) (b : BitVec 6)   -- TGET (R198)
  | tset (d : BitVec 6) (a : BitVec 6) (b : BitVec 6)   -- TSET (R198)
  | geom (d : BitVec 6) (a : BitVec 6) (b : BitVec 6)   -- GEOM (R203)
  | mms (d : BitVec 6) (a : BitVec 6)   -- MMS (R205)
  | fwait (d : BitVec 6) (a : BitVec 6)   -- FWAIT (R339)
  | ftest (d : BitVec 6) (a : BitVec 6) (f : BitVec 1)   -- FTEST (R337)
  | fcancel (d : BitVec 6) (a : BitVec 6) (f : BitVec 1)   -- FCANCEL (R340)
  | fhandle (d : BitVec 6) (a : BitVec 6) (f : BitVec 1)   -- FHANDLE (R338)
  | cpy (d : BitVec 6) (a : BitVec 6)   -- CPY (R342)
  | cpy2d (d : BitVec 6) (a : BitVec 6)   -- CPY2D (R342)
  | cpym (d : BitVec 6) (a : BitVec 6)   -- CPYM (R343)
  | cpyr (d : BitVec 6) (a : BitVec 6)   -- CPYR (R344)
  | evwait (d : BitVec 6) (a : BitVec 6) (b : BitVec 6)   -- EVWAIT (R345)
  | evpop (d : BitVec 6) (a : BitVec 6)   -- EVPOP (R345)
  | evpost (a : BitVec 6) (b : BitVec 6)   -- EVPOST (R345)
  | chsend (d : BitVec 6) (a : BitVec 6) (b : BitVec 6)   -- CHSEND (R346)
  | chrecv (d : BitVec 6) (a : BitVec 6) (b : BitVec 6)   -- CHRECV (R346)
  | chwait (d : BitVec 6) (b : BitVec 6)   -- CHWAIT (R346)
  | chadv (d : BitVec 6) (b : BitVec 6)   -- CHADV (R346)
  | wdq (d : BitVec 6) (a : BitVec 6)   -- WDQ (R347)
  | submit (d : BitVec 6) (a : BitVec 6) (b : BitVec 6)   -- SUBMIT (R348)
  | bari (a : BitVec 6) (b : BitVec 6)   -- BARI (R379)
  | barr (d : BitVec 6) (a : BitVec 6)   -- BARR (R379)
  | bard (d : BitVec 6) (a : BitVec 6)   -- BARD (R379)
  | joinc (d : BitVec 6)   -- JOINC (R382)
  | ccnt (d : BitVec 6) (a : BitVec 6) (b : BitVec 6)   -- CCNT (R383)
  | cancelCounter (d : BitVec 6) (a : BitVec 6)   -- CANCEL (R384)
  | movc (d : BitVec 6) (i : BitVec 14)   -- MOVC (R139)
  | movtc (a : BitVec 6) (i : BitVec 14)   -- MOVTC (R140)
  | nopHint (x : BitVec 22)   -- NOP (R62)
  | himm (i : BitVec 22)   -- HIMM (R63)
  | hmod (e : BitVec 2) (k : BitVec 1) (s : BitVec 3) (h : BitVec 1) (g : BitVec 1) (q : BitVec 2) (v : BitVec 1) (t : BitVec 1) (w : BitVec 1)   -- HMOD (R64)
  | rep (n : BitVec 6) (x : BitVec 3) (y : BitVec 3) (z : BitVec 3)   -- REP (R65)
  | realign (t : BitVec 16)   -- REALIGN (R41)
  | hsched (p : BitVec 2)   -- HSCHED (R66)
  deriving DecidableEq, Repr

end Sys2Proof
end

