-- ==== Sys2Proof/WellFormed.lean ====
section
/-! DEFINITION. The conditions of R69 on the fields of an instruction word, beyond its reserved bits: register fields in
their file, codes in their range, scopes, policies, pairs. Each failure has a name. -/

namespace Sys2Proof

/-- Why a word is ILLEGAL (R69). -/
inductive DecodeError
  | reservedMajor
  | reservedFunction
  | reservedBits
  | vectorField
  | tileField
  | fileField
  | policy
  | scope
  | widthCode
  | loop
  | relRange
  | path
  | pair
  | reduceCode
  | hmodValid
  | rounding
  | format
  | conversion
  deriving DecidableEq, Repr

/-- A vector register field holds 0 to 47 (R51). -/
def vecOk (r : BitVec 6) : Bool := decide (r.toNat < 48)

/-- A tile field holds 0 to 15 (R51). -/
def tileOk (r : BitVec 6) : Bool := decide (r.toNat < 16)

/-- pol is 0 when mk is 0 (R53). -/
def polOk (k : BitVec 2) (p : BitVec 1) : Bool := k != 0 || p == 0

/-- Scope code 7 is reserved (R55). -/
def scopeOk (s : BitVec 3) : Bool := s != 7

/-- The parameters of a floating-point format code (R78): precision, emin, emax, and the largest finite value as a
significand in units of its last place. -/
def fpParams : BitVec 4 → Option (Nat × Int × Int × Nat)
  | 0 => some (53, -1022, 1023, 9007199254740991)
  | 1 => some (24, -126, 127, 16777215)
  | 2 => some (11, -14, 15, 2047)
  | 3 => some (8, -126, 127, 255)
  | 4 => some (4, -6, 8, 14)
  | 5 => some (3, -14, 15, 7)
  | 6 => some (3, -2, 4, 7)
  | 7 => some (4, 0, 2, 15)
  | 8 => some (2, 0, 2, 3)
  | _ => none

/-- Every finite value of format `f` is a value of format `g` (R89): the conversion does not narrow. -/
def widens (f g : BitVec 4) : Bool :=
  match fpParams f, fpParams g with
  | some (p, lo, hi, _), some (p', lo', hi', _) =>
    decide (p ≤ p') && decide (hi ≤ hi') && decide (lo' - p' ≤ lo - p)
  | _, _ => false

/-- The pair is one FCVT accepts: not integer to integer (R175). -/
def pairOk (s t : BitVec 4) : Bool := decide (s.toNat ≤ 8) || decide (t.toNat ≤ 8)

/-- The rounding code is accepted: never 5, and KEEP only for a narrowing pair (R57, R175). -/
def rmOk (s t : BitVec 4) (m : BitVec 3) : Bool :=
  m != 5 && (m != 7 || (decide (s.toNat ≤ 8) && decide (t.toNat ≤ 8) && !widens s t))

/-- The first check of R69 that fails, if any. -/
def firstBad : List (DecodeError × Bool) → Option DecodeError
  | [] => none
  | (e, ok) :: r => if ok then firstBad r else some e

/-- The condition of R69 an instruction's fields break, or none. Events have no word and break none. -/
def Instr.check : Instr → Option DecodeError
  | .add _ _ _ => none
  | .sub _ _ _ => none
  | .and _ _ _ => none
  | .or _ _ _ => none
  | .xor _ _ _ => none
  | .andn _ _ _ => none
  | .orn _ _ _ => none
  | .xnor _ _ _ => none
  | .shl _ _ _ => none
  | .shr _ _ _ => none
  | .sra _ _ _ => none
  | .rol _ _ _ => none
  | .ror _ _ _ => none
  | .min _ _ _ => none
  | .max _ _ _ => none
  | .minu _ _ _ => none
  | .maxu _ _ _ => none
  | .slt _ _ _ => none
  | .sltu _ _ _ => none
  | .seq _ _ _ => none
  | .sne _ _ _ => none
  | .mul _ _ _ => none
  | .mulh _ _ _ => none
  | .mulhu _ _ _ => none
  | .div _ _ _ => none
  | .divu _ _ _ => none
  | .rem _ _ _ => none
  | .remu _ _ _ => none
  | .clz _ _ => none
  | .ctz _ _ => none
  | .popc _ _ => none
  | .brev _ _ => none
  | .bswap _ _ => none
  | .sext _ _ w => firstBad [(.widthCode, decide (w.toNat ≤ 2))]
  | .zext _ _ w => firstBad [(.widthCode, decide (w.toNat ≤ 2))]
  | .addw _ _ _ => none
  | .subw _ _ _ => none
  | .mulw _ _ _ => none
  | .shlw _ _ _ => none
  | .shrw _ _ _ => none
  | .sraw _ _ _ => none
  | .mov _ _ => none
  | .addi _ _ _ => none
  | .andi _ _ _ => none
  | .ori _ _ _ => none
  | .xori _ _ _ => none
  | .shli _ _ _ => none
  | .shri _ _ _ => none
  | .srai _ _ _ => none
  | .rori _ _ _ => none
  | .slti _ _ _ => none
  | .sltiu _ _ _ => none
  | .lhi _ _ => none
  | .pchi _ _ => none
  | .beq _ _ _ => none
  | .bne _ _ _ => none
  | .blt _ _ _ => none
  | .bge _ _ _ => none
  | .bltu _ _ _ => none
  | .bgeu _ _ _ => none
  | .jal _ _ => none
  | .jalr _ _ _ => none
  | .loop l _ i => firstBad [(.loop, decide (l.toNat ≤ 3)), (.loop, i != 0)]
  | .yield _ => none
  | .exitTask => none
  | .forkr d _ _ => firstBad [(.pair, d != 63)]
  | .trap _ => none
  | .eret => none
  | .syscFree _ _ => none
  | .syscHostev _ _ => none
  | .brk _ => none
  | .lbrk => none
  | .vrel f a b => firstBad [(.relRange, decide (a.toNat ≤ b.toNat)), (.relRange, (f == 0 || decide (b.toNat ≤ 47)))]
  | .fencei => none
  | .ldb _ _ _ _ _ => none
  | .ldh _ _ _ _ _ => none
  | .ldw _ _ _ _ _ => none
  | .ldd _ _ _ _ _ => none
  | .ldbu _ _ _ _ _ => none
  | .ldhu _ _ _ _ _ => none
  | .ldwu _ _ _ _ _ => none
  | .stb _ _ _ _ _ => none
  | .sth _ _ _ _ _ => none
  | .stw _ _ _ _ _ => none
  | .std _ _ _ _ _ => none
  | .fld _ _ f _ _ => firstBad [(.format, decide (f.toNat ≤ 5))]
  | .fst _ _ f m _ => firstBad [(.format, decide (f.toNat ≤ 5)), (.rounding, m != 5 && m != 7)]
  | .ldt _ _ _ => none
  | .stt _ _ _ => none
  | .vld d _ k p _ _ => firstBad [(.vectorField, vecOk d), (.policy, polOk k p)]
  | .vst d _ _ _ _ => firstBad [(.vectorField, vecOk d)]
  | .vlds d _ b k p _ => firstBad [(.vectorField, vecOk d), (.vectorField, vecOk b), (.policy, polOk k p)]
  | .vgather d _ b k p _ => firstBad [(.vectorField, vecOk d), (.vectorField, vecOk b), (.policy, polOk k p)]
  | .vldt d _ _ => firstBad [(.vectorField, vecOk d)]
  | .vsts d _ b _ _ => firstBad [(.vectorField, vecOk d), (.vectorField, vecOk b)]
  | .vscatter d _ b _ _ => firstBad [(.vectorField, vecOk d), (.vectorField, vecOk b)]
  | .vstt d _ _ => firstBad [(.vectorField, vecOk d)]
  | .amoadd _ _ _ _ s => firstBad [(.scope, scopeOk s)]
  | .amoand _ _ _ _ s => firstBad [(.scope, scopeOk s)]
  | .amoor _ _ _ _ s => firstBad [(.scope, scopeOk s)]
  | .amoxor _ _ _ _ s => firstBad [(.scope, scopeOk s)]
  | .amomin _ _ _ _ s => firstBad [(.scope, scopeOk s)]
  | .amomax _ _ _ _ s => firstBad [(.scope, scopeOk s)]
  | .amominu _ _ _ _ s => firstBad [(.scope, scopeOk s)]
  | .amomaxu _ _ _ _ s => firstBad [(.scope, scopeOk s)]
  | .amoswap _ _ _ _ s => firstBad [(.scope, scopeOk s)]
  | .amocas _ _ _ _ s => firstBad [(.scope, scopeOk s)]
  | .cas2 d _ b s => firstBad [(.scope, scopeOk s), (.pair, d != 63), (.pair, b != 63)]
  | .swap2 d _ b s => firstBad [(.scope, scopeOk s), (.pair, d != 63), (.pair, b != 63)]
  | .faddaF _ _ _ s => firstBad [(.scope, scopeOk s)]
  | .faddaD _ _ _ s => firstBad [(.scope, scopeOk s)]
  | .vamoadd d _ b s => firstBad [(.vectorField, vecOk d), (.vectorField, vecOk b), (.scope, scopeOk s)]
  | .appendW _ _ _ => none
  | .appendD _ _ _ => none
  | .appendv _ _ b => firstBad [(.vectorField, vecOk b)]
  | .sealPage _ _ => none
  | .tailq _ _ => none
  | .wbr _ _ _ s => firstBad [(.scope, scopeOk s)]
  | .invr _ _ _ s => firstBad [(.scope, scopeOk s)]
  | .wbinvr _ _ _ s => firstBad [(.scope, scopeOk s)]
  | .pref _ _ => none
  | .stashmap _ _ _ => none
  | .stashflush _ _ _ s => firstBad [(.scope, scopeOk s)]
  | .linez _ _ _ => none
  | .fence s => firstBad [(.scope, scopeOk s)]
  | .fencex p q s => firstBad [(.scope, scopeOk s), (.path, p != q), (.path, p != 7), (.path, q != 7)]
  | .acq _ _ s => firstBad [(.scope, scopeOk s)]
  | .rel _ _ s => firstBad [(.scope, scopeOk s)]
  | .bindRegion _ _ => none
  | .unbindRegion _ _ s => firstBad [(.scope, s == 0)]
  | .bst _ _ => none
  | .bamoAdd _ _ _ => none
  | .bamoMax _ _ _ => none
  | .bamoOr _ _ _ => none
  | .bamoSwap _ _ _ => none
  | .vadd d a b k p _ _ => firstBad [(.vectorField, vecOk d), (.vectorField, vecOk a), (.vectorField, vecOk b), (.policy, polOk k p)]
  | .vsub d a b k p _ _ => firstBad [(.vectorField, vecOk d), (.vectorField, vecOk a), (.vectorField, vecOk b), (.policy, polOk k p)]
  | .vmul d a b k p _ _ => firstBad [(.vectorField, vecOk d), (.vectorField, vecOk a), (.vectorField, vecOk b), (.policy, polOk k p)]
  | .vmulh d a b k p _ _ => firstBad [(.vectorField, vecOk d), (.vectorField, vecOk a), (.vectorField, vecOk b), (.policy, polOk k p)]
  | .vmin d a b k p _ _ => firstBad [(.vectorField, vecOk d), (.vectorField, vecOk a), (.vectorField, vecOk b), (.policy, polOk k p)]
  | .vmax d a b k p _ _ => firstBad [(.vectorField, vecOk d), (.vectorField, vecOk a), (.vectorField, vecOk b), (.policy, polOk k p)]
  | .vminu d a b k p _ _ => firstBad [(.vectorField, vecOk d), (.vectorField, vecOk a), (.vectorField, vecOk b), (.policy, polOk k p)]
  | .vmaxu d a b k p _ _ => firstBad [(.vectorField, vecOk d), (.vectorField, vecOk a), (.vectorField, vecOk b), (.policy, polOk k p)]
  | .vand d a b k p _ _ => firstBad [(.vectorField, vecOk d), (.vectorField, vecOk a), (.vectorField, vecOk b), (.policy, polOk k p)]
  | .vor d a b k p _ _ => firstBad [(.vectorField, vecOk d), (.vectorField, vecOk a), (.vectorField, vecOk b), (.policy, polOk k p)]
  | .vxor d a b k p _ _ => firstBad [(.vectorField, vecOk d), (.vectorField, vecOk a), (.vectorField, vecOk b), (.policy, polOk k p)]
  | .vandn d a b k p _ _ => firstBad [(.vectorField, vecOk d), (.vectorField, vecOk a), (.vectorField, vecOk b), (.policy, polOk k p)]
  | .vshl d a b k p _ _ => firstBad [(.vectorField, vecOk d), (.vectorField, vecOk a), (.vectorField, vecOk b), (.policy, polOk k p)]
  | .vshr d a b k p _ _ => firstBad [(.vectorField, vecOk d), (.vectorField, vecOk a), (.vectorField, vecOk b), (.policy, polOk k p)]
  | .vsra d a b k p _ _ => firstBad [(.vectorField, vecOk d), (.vectorField, vecOk a), (.vectorField, vecOk b), (.policy, polOk k p)]
  | .vsel d a b _ _ _ => firstBad [(.vectorField, vecOk d), (.vectorField, vecOk a), (.vectorField, vecOk b)]
  | .vceq d a b k p _ _ => firstBad [(.vectorField, vecOk d), (.vectorField, vecOk a), (.vectorField, vecOk b), (.policy, polOk k p)]
  | .vcne d a b k p _ _ => firstBad [(.vectorField, vecOk d), (.vectorField, vecOk a), (.vectorField, vecOk b), (.policy, polOk k p)]
  | .vclt d a b k p _ _ => firstBad [(.vectorField, vecOk d), (.vectorField, vecOk a), (.vectorField, vecOk b), (.policy, polOk k p)]
  | .vcle d a b k p _ _ => firstBad [(.vectorField, vecOk d), (.vectorField, vecOk a), (.vectorField, vecOk b), (.policy, polOk k p)]
  | .vcltu d a b k p _ _ => firstBad [(.vectorField, vecOk d), (.vectorField, vecOk a), (.vectorField, vecOk b), (.policy, polOk k p)]
  | .vcleu d a b k p _ _ => firstBad [(.vectorField, vecOk d), (.vectorField, vecOk a), (.vectorField, vecOk b), (.policy, polOk k p)]
  | .vsplat d _ k p => firstBad [(.vectorField, vecOk d), (.policy, polOk k p)]
  | .vext _ a _ _ => firstBad [(.vectorField, vecOk a)]
  | .vperm d a b k p _ _ => firstBad [(.vectorField, vecOk d), (.vectorField, vecOk a), (.vectorField, vecOk b), (.policy, polOk k p)]
  | .vrot d a b k p _ _ => firstBad [(.vectorField, vecOk d), (.vectorField, vecOk a), (.vectorField, vecOk b), (.policy, polOk k p)]
  | .vshuf d a b k p _ _ => firstBad [(.vectorField, vecOk d), (.vectorField, vecOk a), (.vectorField, vecOk b), (.policy, polOk k p), (.pair, a != 47)]
  | .vred d a c _ _ => firstBad [(.vectorField, vecOk d), (.vectorField, vecOk a), (.reduceCode, decide (c.toNat < 8))]
  | .vscan d a c k p _ => firstBad [(.vectorField, vecOk d), (.vectorField, vecOk a), (.policy, polOk k p), (.reduceCode, decide (c.toNat < 8))]
  | .vcomp d a k p _ => firstBad [(.vectorField, vecOk d), (.vectorField, vecOk a), (.policy, polOk k p)]
  | .vexpd d a k p _ => firstBad [(.vectorField, vecOk d), (.vectorField, vecOk a), (.policy, polOk k p)]
  | .vins d _ _ _ => firstBad [(.vectorField, vecOk d)]
  | .vfadd d a b k p _ => firstBad [(.vectorField, vecOk d), (.vectorField, vecOk a), (.vectorField, vecOk b), (.policy, polOk k p)]
  | .vfsub d a b k p _ => firstBad [(.vectorField, vecOk d), (.vectorField, vecOk a), (.vectorField, vecOk b), (.policy, polOk k p)]
  | .vfmul d a b k p _ => firstBad [(.vectorField, vecOk d), (.vectorField, vecOk a), (.vectorField, vecOk b), (.policy, polOk k p)]
  | .vfdiv d a b k p _ => firstBad [(.vectorField, vecOk d), (.vectorField, vecOk a), (.vectorField, vecOk b), (.policy, polOk k p)]
  | .vfmin d a b k p _ => firstBad [(.vectorField, vecOk d), (.vectorField, vecOk a), (.vectorField, vecOk b), (.policy, polOk k p)]
  | .vfmax d a b k p _ => firstBad [(.vectorField, vecOk d), (.vectorField, vecOk a), (.vectorField, vecOk b), (.policy, polOk k p)]
  | .vfscpy d a b k p _ => firstBad [(.vectorField, vecOk d), (.vectorField, vecOk a), (.vectorField, vecOk b), (.policy, polOk k p)]
  | .vfscpyn d a b k p _ => firstBad [(.vectorField, vecOk d), (.vectorField, vecOk a), (.vectorField, vecOk b), (.policy, polOk k p)]
  | .vfma d a b k p _ => firstBad [(.vectorField, vecOk d), (.vectorField, vecOk a), (.vectorField, vecOk b), (.policy, polOk k p)]
  | .vfms d a b k p _ => firstBad [(.vectorField, vecOk d), (.vectorField, vecOk a), (.vectorField, vecOk b), (.policy, polOk k p)]
  | .vfnma d a b k p _ => firstBad [(.vectorField, vecOk d), (.vectorField, vecOk a), (.vectorField, vecOk b), (.policy, polOk k p)]
  | .vfnms d a b k p _ => firstBad [(.vectorField, vecOk d), (.vectorField, vecOk a), (.vectorField, vecOk b), (.policy, polOk k p)]
  | .vfsqrt d a k p _ => firstBad [(.vectorField, vecOk d), (.vectorField, vecOk a), (.policy, polOk k p)]
  | .vfrnd d a k p _ => firstBad [(.vectorField, vecOk d), (.vectorField, vecOk a), (.policy, polOk k p)]
  | .vfclass d a k p _ => firstBad [(.vectorField, vecOk d), (.vectorField, vecOk a), (.policy, polOk k p)]
  | .vftailr d a k p _ => firstBad [(.vectorField, vecOk d), (.vectorField, vecOk a), (.policy, polOk k p)]
  | .vftailw d a k p _ => firstBad [(.vectorField, vecOk d), (.vectorField, vecOk a), (.policy, polOk k p)]
  | .vfeq d a b k p _ => firstBad [(.vectorField, vecOk d), (.vectorField, vecOk a), (.vectorField, vecOk b), (.policy, polOk k p)]
  | .vflt d a b k p _ => firstBad [(.vectorField, vecOk d), (.vectorField, vecOk a), (.vectorField, vecOk b), (.policy, polOk k p)]
  | .vfle d a b k p _ => firstBad [(.vectorField, vecOk d), (.vectorField, vecOk a), (.vectorField, vecOk b), (.policy, polOk k p)]
  | .vfunord d a b k p _ => firstBad [(.vectorField, vecOk d), (.vectorField, vecOk a), (.vectorField, vecOk b), (.policy, polOk k p)]
  | .vfeqx d a b k p _ => firstBad [(.vectorField, vecOk d), (.vectorField, vecOk a), (.vectorField, vecOk b), (.policy, polOk k p)]
  | .vfltx d a b k p _ => firstBad [(.vectorField, vecOk d), (.vectorField, vecOk a), (.vectorField, vecOk b), (.policy, polOk k p)]
  | .vflex d a b k p _ => firstBad [(.vectorField, vecOk d), (.vectorField, vecOk a), (.vectorField, vecOk b), (.policy, polOk k p)]
  | .vfne d a b k p _ => firstBad [(.vectorField, vecOk d), (.vectorField, vecOk a), (.vectorField, vecOk b), (.policy, polOk k p)]
  | .vfcvt d a k p s t m => firstBad [(.vectorField, vecOk d), (.vectorField, vecOk a), (.policy, polOk k p), (.conversion, pairOk s t), (.rounding, rmOk s t m)]
  | .vfexp2 d a k p _ => firstBad [(.vectorField, vecOk d), (.vectorField, vecOk a), (.policy, polOk k p)]
  | .vflog2 d a k p _ => firstBad [(.vectorField, vecOk d), (.vectorField, vecOk a), (.policy, polOk k p)]
  | .vfsinpi d a k p _ => firstBad [(.vectorField, vecOk d), (.vectorField, vecOk a), (.policy, polOk k p)]
  | .vfcospi d a k p _ => firstBad [(.vectorField, vecOk d), (.vectorField, vecOk a), (.policy, polOk k p)]
  | .vfrsqrt d a k p _ => firstBad [(.vectorField, vecOk d), (.vectorField, vecOk a), (.policy, polOk k p)]
  | .vftanh d a k p _ => firstBad [(.vectorField, vecOk d), (.vectorField, vecOk a), (.policy, polOk k p)]
  | .fadd _ _ _ _ => none
  | .fsub _ _ _ _ => none
  | .fmul _ _ _ _ => none
  | .fdiv _ _ _ _ => none
  | .fsqrt _ _ _ => none
  | .fmin _ _ _ _ => none
  | .fmax _ _ _ _ => none
  | .fscpy _ _ _ _ => none
  | .fscpyn _ _ _ _ => none
  | .fsxor _ _ _ _ => none
  | .fma _ _ _ _ => none
  | .fms _ _ _ _ => none
  | .fnma _ _ _ _ => none
  | .fnms _ _ _ _ => none
  | .feq _ _ _ _ => none
  | .flt _ _ _ _ => none
  | .fle _ _ _ _ => none
  | .funord _ _ _ _ => none
  | .feqx _ _ _ _ => none
  | .fltx _ _ _ _ => none
  | .flex _ _ _ _ => none
  | .fclass _ _ _ => none
  | .frnd _ _ _ => none
  | .fmvx _ _ _ => none
  | .fmvf _ _ _ => none
  | .ftailr _ _ => none
  | .ftailw _ _ => none
  | .fexp2 _ _ _ => none
  | .flog2 _ _ _ => none
  | .fsinpi _ _ _ => none
  | .fcospi _ _ _ => none
  | .frsqrt _ _ _ => none
  | .ftanh _ _ _ => none
  | .fcvt _ _ s t m => firstBad [(.conversion, pairOk s t), (.rounding, rmOk s t m)]
  | .tcfg d _ => firstBad [(.tileField, tileOk d)]
  | .tzero d => firstBad [(.tileField, tileOk d)]
  | .tld d _ _ => firstBad [(.tileField, tileOk d)]
  | .tst d _ _ => firstBad [(.tileField, tileOk d)]
  | .tldbp d _ _ => firstBad [(.tileField, tileOk d)]
  | .tldmx d _ _ => firstBad [(.tileField, tileOk d)]
  | .mma d a b => firstBad [(.tileField, tileOk d), (.tileField, tileOk a), (.tileField, tileOk b)]
  | .tcvt d a m => firstBad [(.tileField, tileOk d), (.tileField, tileOk a), (.rounding, m != 5 && m != 7)]
  | .tmov d a => firstBad [(.tileField, tileOk d), (.tileField, tileOk a)]
  | .tget d a _ => firstBad [(.vectorField, vecOk d), (.tileField, tileOk a)]
  | .tset d a _ => firstBad [(.tileField, tileOk d), (.vectorField, vecOk a)]
  | .geom d _ _ => firstBad [(.pair, decide (d.toNat ≤ 60))]
  | .mms _ _ => none
  | .fwait _ _ => none
  | .ftest _ a f => firstBad [(.fileField, (f == 0 || decide (a.toNat < 48)))]
  | .fcancel _ a f => firstBad [(.fileField, (f == 0 || decide (a.toNat < 48)))]
  | .fhandle _ a f => firstBad [(.fileField, (f == 0 || decide (a.toNat < 48)))]
  | .cpy _ a => firstBad [(.vectorField, vecOk a)]
  | .cpy2d _ a => firstBad [(.vectorField, vecOk a)]
  | .cpym _ a => firstBad [(.vectorField, vecOk a)]
  | .cpyr _ a => firstBad [(.vectorField, vecOk a)]
  | .evwait _ _ _ => none
  | .evpop d _ => firstBad [(.vectorField, vecOk d)]
  | .evpost _ _ => none
  | .chsend _ _ _ => none
  | .chrecv _ _ _ => none
  | .chwait _ _ => none
  | .chadv _ _ => none
  | .wdq _ _ => none
  | .submit _ _ _ => none
  | .bari _ _ => none
  | .barr _ _ => none
  | .bard _ _ => none
  | .joinc _ => none
  | .ccnt _ _ _ => none
  | .cancelCounter _ _ => none
  | .movc _ _ => none
  | .movtc _ _ => none
  | .nopHint _ => none
  | .himm _ => none
  | .hmod _ _ s _ _ q v _ w => firstBad [(.hmodValid, (v == 1 || q == 0)), (.hmodValid, (w == 1 || s == 0)), (.scope, scopeOk s)]
  | .rep _ _ _ _ => none
  | .realign _ => none
  | .hsched _ => none
  | .realignTimeout _ => none
  | .doorbellWrite _ => none
  | .launchPacket _ => none
  | .phaseMark _ => none
  | .successorRelease _ _ _ => none
  | .rollcallStatusWord _ _ _ => none
  | .hostCancel _ => none
  | .sliceExpiry _ _ => none
  | .taskStop _ => none
  | .graceExpiry _ _ => none
  | .taskExitReport _ => none
  | .layerSleep _ => none
  | .layerWake _ => none
  | .bindRecordWrite _ _ _ _ _ _ => none
  | .openLent _ _ _ => none
  | .closeLent _ _ => none
  | .claim _ _ => none
  | .unclaim _ _ _ => none
  | .leaseCmd _ _ _ _ _ => none
  | .releaseCmd _ _ => none
  | .preemptCmd _ _ _ => none
  | .bellpart _ _ _ => none
  | .leaseWalkDone _ _ => none
  | .hostRangeMapped _ _ => none
  | .hostLeaseRefuse _ _ => none
  | .guestPacket _ _ => none
  | .guestIssue _ => none
  | .guestAgeing _ => none
  | .resultPacket _ => none
  | .copyComplete _ _ => none
  | .copyEventRecord _ _ => none
  | .matrixCommandStart _ => none
  | .mcqAgeing _ => none
  | .mcqOvertake _ => none
  | .mcqMigrate _ _ => none
  | .mmsSplitHalf _ => none
  | .mmsComplete _ => none
  | .channelReserve _ _ => none
  | .channelSlotFilled _ _ _ => none
  | .wdqRequest _ _ => none
  | .confluenceContribution _ _ => none
  | .bellSlot _ => none
  | .bellFrameBoundary _ => none
  | .gets _ => none
  | .geto _ _ => none
  | .geti _ => none
  | .getu _ => none
  | .wrm _ _ _ => none
  | .amoh _ _ _ _ _ _ => none
  | .puto _ _ => none
  | .putb _ _ _ => none
  | .lostMsg _ => none
  | .invMsg _ => none
  | .recallMsg _ => none
  | .downMsg _ => none
  | .ackMsg _ _ _ => none
  | .dataMsg _ _ _ _ => none
  | .poisonMsg _ => none
  | .appendArrival _ _ => none
  | .appendWriteDone _ _ => none
  | .sealArrival _ _ => none
  | .pageMigration _ _ _ _ => none
  | .redirect _ => none
  | .hostFree _ _ => none
  | .shootdownMessage _ _ => none
  | .shootdownAck _ _ => none
  | .hostInvalidate _ _ _ => none
  | .hostMemAccess _ _ _ _ => none
  | .hostSnoop _ _ => none
  | .fabricWrite _ _ _ _ _ => none
  | .fabricAck _ _ _ => none
  | .coldStart _ => none
  | .warmStart _ => none
  | .bootTimeout => none
  | .recoveryImageLoad _ _ => none
  | .getVersion => none
  | .getCapabilities => none
  | .negotiateAlgorithms _ _ => none
  | .getDigests => none
  | .getCertificate _ _ => none
  | .spdmChallenge _ => none
  | .getMeasurements _ => none
  | .powerCapSet _ _ => none
  | .thermalThrottle _ _ => none
  | .thermalShutdown _ _ => none
  | .uncorrectableError _ => none
  | .firmwareMailboxSend _ _ _ => none
  | .queueTableWrite _ _ _ => none
  | .counterEntryWrite _ _ _ => none
  | .belltabWrite _ _ _ => none
  | .confluenceTableWrite _ _ => none
  | .perfSelectWrite _ _ _ => none
  | .hostRegisterWrite _ _ _ => none
  | .hostevRecordAccept _ _ => none
  | .softErrorCorrected _ => none
  | .flitRetry _ => none
  | .linkUncorrectableError _ => none
  | .powerCapEnforcement _ => none

/-- A well-formed instruction breaks no check of R69. -/
def Instr.wellFormed (i : Instr) : Bool := i.check == none

end Sys2Proof
end

