-- ==== Sys2Proof/Decode.lean ====
section
/-! DEFINITION. Decoding of one 32-bit word (R49 to R69), total and refusing by name, and the encoder written from the
same formats.

The definitions that build an `Instr` are marked noncomputable for one reason: Lean's run-time gives an inductive type
at most 245 constructors with fields, and the opcode table has more rows. The kernel evaluates them as any other. -/

namespace Sys2Proof

/-- The `len`-bit field of the word `n` whose lowest bit is bit `lo` (R5). -/
def fld (n lo len : Nat) : BitVec len := BitVec.ofNat len (n / 2 ^ lo)

/-- Major opcode 0x01 (R58, R60). -/
noncomputable def decodeMajor01 (n : Nat) : Except DecodeError Instr :=
  match n / 2 ^ 0 % 2 ^ 8 with
  | 0 => .ok (.add (fld n 20 6) (fld n 14 6) (fld n 8 6))
  | 1 => .ok (.sub (fld n 20 6) (fld n 14 6) (fld n 8 6))
  | 2 => .ok (.and (fld n 20 6) (fld n 14 6) (fld n 8 6))
  | 3 => .ok (.or (fld n 20 6) (fld n 14 6) (fld n 8 6))
  | 4 => .ok (.xor (fld n 20 6) (fld n 14 6) (fld n 8 6))
  | 5 => .ok (.andn (fld n 20 6) (fld n 14 6) (fld n 8 6))
  | 6 => .ok (.orn (fld n 20 6) (fld n 14 6) (fld n 8 6))
  | 7 => .ok (.xnor (fld n 20 6) (fld n 14 6) (fld n 8 6))
  | 8 => .ok (.shl (fld n 20 6) (fld n 14 6) (fld n 8 6))
  | 9 => .ok (.shr (fld n 20 6) (fld n 14 6) (fld n 8 6))
  | 10 => .ok (.sra (fld n 20 6) (fld n 14 6) (fld n 8 6))
  | 11 => .ok (.rol (fld n 20 6) (fld n 14 6) (fld n 8 6))
  | 12 => .ok (.ror (fld n 20 6) (fld n 14 6) (fld n 8 6))
  | 13 => .ok (.min (fld n 20 6) (fld n 14 6) (fld n 8 6))
  | 14 => .ok (.max (fld n 20 6) (fld n 14 6) (fld n 8 6))
  | 15 => .ok (.minu (fld n 20 6) (fld n 14 6) (fld n 8 6))
  | 16 => .ok (.maxu (fld n 20 6) (fld n 14 6) (fld n 8 6))
  | 17 => .ok (.slt (fld n 20 6) (fld n 14 6) (fld n 8 6))
  | 18 => .ok (.sltu (fld n 20 6) (fld n 14 6) (fld n 8 6))
  | 19 => .ok (.seq (fld n 20 6) (fld n 14 6) (fld n 8 6))
  | 20 => .ok (.sne (fld n 20 6) (fld n 14 6) (fld n 8 6))
  | 21 => .ok (.mul (fld n 20 6) (fld n 14 6) (fld n 8 6))
  | 22 => .ok (.mulh (fld n 20 6) (fld n 14 6) (fld n 8 6))
  | 23 => .ok (.mulhu (fld n 20 6) (fld n 14 6) (fld n 8 6))
  | 24 => .ok (.div (fld n 20 6) (fld n 14 6) (fld n 8 6))
  | 25 => .ok (.divu (fld n 20 6) (fld n 14 6) (fld n 8 6))
  | 26 => .ok (.rem (fld n 20 6) (fld n 14 6) (fld n 8 6))
  | 27 => .ok (.remu (fld n 20 6) (fld n 14 6) (fld n 8 6))
  | 28 => .ok (.clz (fld n 20 6) (fld n 14 6))
  | 29 => .ok (.ctz (fld n 20 6) (fld n 14 6))
  | 30 => .ok (.popc (fld n 20 6) (fld n 14 6))
  | 31 => .ok (.brev (fld n 20 6) (fld n 14 6))
  | 32 => .ok (.bswap (fld n 20 6) (fld n 14 6))
  | 33 => .ok (.sext (fld n 20 6) (fld n 14 6) (fld n 8 6))
  | 34 => .ok (.zext (fld n 20 6) (fld n 14 6) (fld n 8 6))
  | 35 => .ok (.addw (fld n 20 6) (fld n 14 6) (fld n 8 6))
  | 36 => .ok (.subw (fld n 20 6) (fld n 14 6) (fld n 8 6))
  | 37 => .ok (.mulw (fld n 20 6) (fld n 14 6) (fld n 8 6))
  | 38 => .ok (.shlw (fld n 20 6) (fld n 14 6) (fld n 8 6))
  | 39 => .ok (.shrw (fld n 20 6) (fld n 14 6) (fld n 8 6))
  | 40 => .ok (.sraw (fld n 20 6) (fld n 14 6) (fld n 8 6))
  | 41 => .ok (.mov (fld n 20 6) (fld n 14 6))
  | _ => .error .reservedFunction

/-- Major opcode 0x02 (R58, R60). -/
noncomputable def decodeMajor02 (n : Nat) : Except DecodeError Instr :=
  .ok (.addi (fld n 20 6) (fld n 14 6) (fld n 0 14))

/-- Major opcode 0x03 (R58, R60). -/
noncomputable def decodeMajor03 (n : Nat) : Except DecodeError Instr :=
  .ok (.andi (fld n 20 6) (fld n 14 6) (fld n 0 14))

/-- Major opcode 0x04 (R58, R60). -/
noncomputable def decodeMajor04 (n : Nat) : Except DecodeError Instr :=
  .ok (.ori (fld n 20 6) (fld n 14 6) (fld n 0 14))

/-- Major opcode 0x05 (R58, R60). -/
noncomputable def decodeMajor05 (n : Nat) : Except DecodeError Instr :=
  .ok (.xori (fld n 20 6) (fld n 14 6) (fld n 0 14))

/-- Major opcode 0x06 (R58, R60). -/
noncomputable def decodeMajor06 (n : Nat) : Except DecodeError Instr :=
  match n / 2 ^ 12 % 2 ^ 2 with
  | 0 => .ok (.shli (fld n 20 6) (fld n 14 6) (fld n 0 6))
  | 1 => .ok (.shri (fld n 20 6) (fld n 14 6) (fld n 0 6))
  | 2 => .ok (.srai (fld n 20 6) (fld n 14 6) (fld n 0 6))
  | 3 => .ok (.rori (fld n 20 6) (fld n 14 6) (fld n 0 6))
  | _ => .error .reservedFunction

/-- Major opcode 0x07 (R58, R60). -/
noncomputable def decodeMajor07 (n : Nat) : Except DecodeError Instr :=
  .ok (.slti (fld n 20 6) (fld n 14 6) (fld n 0 14))

/-- Major opcode 0x08 (R58, R60). -/
noncomputable def decodeMajor08 (n : Nat) : Except DecodeError Instr :=
  .ok (.sltiu (fld n 20 6) (fld n 14 6) (fld n 0 14))

/-- Major opcode 0x09 (R58, R60). -/
noncomputable def decodeMajor09 (n : Nat) : Except DecodeError Instr :=
  .ok (.lhi (fld n 20 6) (fld n 0 20))

/-- Major opcode 0x0A (R58, R60). -/
noncomputable def decodeMajor0A (n : Nat) : Except DecodeError Instr :=
  .ok (.pchi (fld n 20 6) (fld n 0 20))

/-- Major opcode 0x0B (R58, R60). -/
noncomputable def decodeMajor0B (n : Nat) : Except DecodeError Instr :=
  match n / 2 ^ 11 % 2 ^ 3 with
  | 0 => .ok (.beq (fld n 20 6) (fld n 14 6) (fld n 0 11))
  | 1 => .ok (.bne (fld n 20 6) (fld n 14 6) (fld n 0 11))
  | 2 => .ok (.blt (fld n 20 6) (fld n 14 6) (fld n 0 11))
  | 3 => .ok (.bge (fld n 20 6) (fld n 14 6) (fld n 0 11))
  | 4 => .ok (.bltu (fld n 20 6) (fld n 14 6) (fld n 0 11))
  | 5 => .ok (.bgeu (fld n 20 6) (fld n 14 6) (fld n 0 11))
  | _ => .error .reservedFunction

/-- Major opcode 0x0C (R58, R60). -/
noncomputable def decodeMajor0C (n : Nat) : Except DecodeError Instr :=
  .ok (.jal (fld n 20 6) (fld n 0 20))

/-- Major opcode 0x0D (R58, R60). -/
noncomputable def decodeMajor0D (n : Nat) : Except DecodeError Instr :=
  .ok (.jalr (fld n 20 6) (fld n 14 6) (fld n 0 14))

/-- Major opcode 0x0E (R58, R60). -/
noncomputable def decodeMajor0E (n : Nat) : Except DecodeError Instr :=
  .ok (.loop (fld n 20 6) (fld n 14 6) (fld n 0 14))

/-- Major opcode 0x0F (R58, R60). -/
noncomputable def decodeMajor0F (n : Nat) : Except DecodeError Instr :=
  match n / 2 ^ 0 % 2 ^ 8 with
  | 0 => .ok (.yield (fld n 14 6))
  | 1 => .ok .exitTask
  | 2 => .ok (.forkr (fld n 20 6) (fld n 14 6) (fld n 8 6))
  | 3 => .ok (.trap (fld n 14 6))
  | 4 => .ok .eret
  | 5 =>
    match n / 2 ^ 8 % 2 ^ 6 with
    | 0 => .ok (.syscFree (fld n 20 6) (fld n 14 6))
    | 1 => .ok (.syscHostev (fld n 20 6) (fld n 14 6))
    | _ => .error .reservedFunction
  | 6 => .ok (.brk (fld n 8 6))
  | 7 => .ok .lbrk
  | 8 => .ok (.vrel (fld n 20 1) (fld n 14 6) (fld n 8 6))
  | 9 => .ok .fencei
  | _ => .error .reservedFunction

/-- Major opcode 0x10 (R58, R60). -/
noncomputable def decodeMajor10 (n : Nat) : Except DecodeError Instr :=
  .ok (.ldb (fld n 20 6) (fld n 14 6) (fld n 12 2) (fld n 10 2) (fld n 0 10))

/-- Major opcode 0x11 (R58, R60). -/
noncomputable def decodeMajor11 (n : Nat) : Except DecodeError Instr :=
  .ok (.ldh (fld n 20 6) (fld n 14 6) (fld n 12 2) (fld n 10 2) (fld n 0 10))

/-- Major opcode 0x12 (R58, R60). -/
noncomputable def decodeMajor12 (n : Nat) : Except DecodeError Instr :=
  .ok (.ldw (fld n 20 6) (fld n 14 6) (fld n 12 2) (fld n 10 2) (fld n 0 10))

/-- Major opcode 0x13 (R58, R60). -/
noncomputable def decodeMajor13 (n : Nat) : Except DecodeError Instr :=
  .ok (.ldd (fld n 20 6) (fld n 14 6) (fld n 12 2) (fld n 10 2) (fld n 0 10))

/-- Major opcode 0x14 (R58, R60). -/
noncomputable def decodeMajor14 (n : Nat) : Except DecodeError Instr :=
  .ok (.ldbu (fld n 20 6) (fld n 14 6) (fld n 12 2) (fld n 10 2) (fld n 0 10))

/-- Major opcode 0x15 (R58, R60). -/
noncomputable def decodeMajor15 (n : Nat) : Except DecodeError Instr :=
  .ok (.ldhu (fld n 20 6) (fld n 14 6) (fld n 12 2) (fld n 10 2) (fld n 0 10))

/-- Major opcode 0x16 (R58, R60). -/
noncomputable def decodeMajor16 (n : Nat) : Except DecodeError Instr :=
  .ok (.ldwu (fld n 20 6) (fld n 14 6) (fld n 12 2) (fld n 10 2) (fld n 0 10))

/-- Major opcode 0x17 (R58, R60). -/
noncomputable def decodeMajor17 (n : Nat) : Except DecodeError Instr :=
  .ok (.stb (fld n 20 6) (fld n 14 6) (fld n 12 2) (fld n 10 2) (fld n 0 10))

/-- Major opcode 0x18 (R58, R60). -/
noncomputable def decodeMajor18 (n : Nat) : Except DecodeError Instr :=
  .ok (.sth (fld n 20 6) (fld n 14 6) (fld n 12 2) (fld n 10 2) (fld n 0 10))

/-- Major opcode 0x19 (R58, R60). -/
noncomputable def decodeMajor19 (n : Nat) : Except DecodeError Instr :=
  .ok (.stw (fld n 20 6) (fld n 14 6) (fld n 12 2) (fld n 10 2) (fld n 0 10))

/-- Major opcode 0x1A (R58, R60). -/
noncomputable def decodeMajor1A (n : Nat) : Except DecodeError Instr :=
  .ok (.std (fld n 20 6) (fld n 14 6) (fld n 12 2) (fld n 10 2) (fld n 0 10))

/-- Major opcode 0x1B (R58, R60). -/
noncomputable def decodeMajor1B (n : Nat) : Except DecodeError Instr :=
  .ok (.fld (fld n 20 6) (fld n 14 6) (fld n 10 4) (fld n 8 2) (fld n 0 8))

/-- Major opcode 0x1C (R58, R60). -/
noncomputable def decodeMajor1C (n : Nat) : Except DecodeError Instr :=
  .ok (.fst (fld n 20 6) (fld n 14 6) (fld n 10 4) (fld n 7 3) (fld n 0 7))

/-- Major opcode 0x1D (R58, R60). -/
noncomputable def decodeMajor1D (n : Nat) : Except DecodeError Instr :=
  .ok (.ldt (fld n 20 6) (fld n 14 6) (fld n 0 14))

/-- Major opcode 0x1E (R58, R60). -/
noncomputable def decodeMajor1E (n : Nat) : Except DecodeError Instr :=
  .ok (.stt (fld n 20 6) (fld n 14 6) (fld n 0 14))

/-- Major opcode 0x1F (R58, R60). -/
noncomputable def decodeMajor1F (n : Nat) : Except DecodeError Instr :=
  .ok (.vld (fld n 20 6) (fld n 14 6) (fld n 12 2) (fld n 11 1) (fld n 9 2) (fld n 0 9))

/-- Major opcode 0x20 (R58, R60). -/
noncomputable def decodeMajor20 (n : Nat) : Except DecodeError Instr :=
  .ok (.vst (fld n 20 6) (fld n 14 6) (fld n 12 2) (fld n 9 2) (fld n 0 9))

/-- Major opcode 0x21 (R58, R60). -/
noncomputable def decodeMajor21 (n : Nat) : Except DecodeError Instr :=
  match n / 2 ^ 0 % 2 ^ 3 with
  | 0 => .ok (.vlds (fld n 20 6) (fld n 14 6) (fld n 8 6) (fld n 6 2) (fld n 5 1) (fld n 3 2))
  | 1 => .ok (.vgather (fld n 20 6) (fld n 14 6) (fld n 8 6) (fld n 6 2) (fld n 5 1) (fld n 3 2))
  | 2 => .ok (.vldt (fld n 20 6) (fld n 14 6) (fld n 3 2))
  | _ => .error .reservedFunction

/-- Major opcode 0x22 (R58, R60). -/
noncomputable def decodeMajor22 (n : Nat) : Except DecodeError Instr :=
  match n / 2 ^ 0 % 2 ^ 3 with
  | 0 => .ok (.vsts (fld n 20 6) (fld n 14 6) (fld n 8 6) (fld n 6 2) (fld n 3 2))
  | 1 => .ok (.vscatter (fld n 20 6) (fld n 14 6) (fld n 8 6) (fld n 6 2) (fld n 3 2))
  | 2 => .ok (.vstt (fld n 20 6) (fld n 14 6) (fld n 3 2))
  | _ => .error .reservedFunction

/-- Major opcode 0x23 (R58, R60). -/
noncomputable def decodeMajor23 (n : Nat) : Except DecodeError Instr :=
  match n / 2 ^ 0 % 2 ^ 4 with
  | 0 => .ok (.amoadd (fld n 20 6) (fld n 14 6) (fld n 8 6) (fld n 7 1) (fld n 4 3))
  | 1 => .ok (.amoand (fld n 20 6) (fld n 14 6) (fld n 8 6) (fld n 7 1) (fld n 4 3))
  | 2 => .ok (.amoor (fld n 20 6) (fld n 14 6) (fld n 8 6) (fld n 7 1) (fld n 4 3))
  | 3 => .ok (.amoxor (fld n 20 6) (fld n 14 6) (fld n 8 6) (fld n 7 1) (fld n 4 3))
  | 4 => .ok (.amomin (fld n 20 6) (fld n 14 6) (fld n 8 6) (fld n 7 1) (fld n 4 3))
  | 5 => .ok (.amomax (fld n 20 6) (fld n 14 6) (fld n 8 6) (fld n 7 1) (fld n 4 3))
  | 6 => .ok (.amominu (fld n 20 6) (fld n 14 6) (fld n 8 6) (fld n 7 1) (fld n 4 3))
  | 7 => .ok (.amomaxu (fld n 20 6) (fld n 14 6) (fld n 8 6) (fld n 7 1) (fld n 4 3))
  | 8 => .ok (.amoswap (fld n 20 6) (fld n 14 6) (fld n 8 6) (fld n 7 1) (fld n 4 3))
  | 9 => .ok (.amocas (fld n 20 6) (fld n 14 6) (fld n 8 6) (fld n 7 1) (fld n 4 3))
  | _ => .error .reservedFunction

/-- Major opcode 0x24 (R58, R60). -/
noncomputable def decodeMajor24 (n : Nat) : Except DecodeError Instr :=
  match n / 2 ^ 0 % 2 ^ 4 with
  | 0 => .ok (.cas2 (fld n 20 6) (fld n 14 6) (fld n 8 6) (fld n 4 3))
  | 1 => .ok (.swap2 (fld n 20 6) (fld n 14 6) (fld n 8 6) (fld n 4 3))
  | 2 => .ok (.faddaF (fld n 20 6) (fld n 14 6) (fld n 8 6) (fld n 4 3))
  | 3 => .ok (.faddaD (fld n 20 6) (fld n 14 6) (fld n 8 6) (fld n 4 3))
  | 4 => .ok (.vamoadd (fld n 20 6) (fld n 14 6) (fld n 8 6) (fld n 4 3))
  | _ => .error .reservedFunction

/-- Major opcode 0x25 (R58, R60). -/
noncomputable def decodeMajor25 (n : Nat) : Except DecodeError Instr :=
  match n / 2 ^ 0 % 2 ^ 8 with
  | 0 => .ok (.appendW (fld n 20 6) (fld n 14 6) (fld n 8 6))
  | 1 => .ok (.appendD (fld n 20 6) (fld n 14 6) (fld n 8 6))
  | 2 => .ok (.appendv (fld n 20 6) (fld n 14 6) (fld n 8 6))
  | 3 => .ok (.sealPage (fld n 20 6) (fld n 14 6))
  | 4 => .ok (.tailq (fld n 20 6) (fld n 14 6))
  | _ => .error .reservedFunction

/-- Major opcode 0x26 (R58, R60). -/
noncomputable def decodeMajor26 (n : Nat) : Except DecodeError Instr :=
  match n / 2 ^ 0 % 2 ^ 5 with
  | 0 => .ok (.wbr (fld n 20 6) (fld n 14 6) (fld n 8 6) (fld n 5 3))
  | 1 => .ok (.invr (fld n 20 6) (fld n 14 6) (fld n 8 6) (fld n 5 3))
  | 2 => .ok (.wbinvr (fld n 20 6) (fld n 14 6) (fld n 8 6) (fld n 5 3))
  | 3 => .ok (.pref (fld n 14 6) (fld n 8 6))
  | 4 => .ok (.stashmap (fld n 20 6) (fld n 14 6) (fld n 8 6))
  | 5 => .ok (.stashflush (fld n 20 6) (fld n 14 6) (fld n 8 6) (fld n 5 3))
  | 6 => .ok (.linez (fld n 20 6) (fld n 14 6) (fld n 8 6))
  | _ => .error .reservedFunction

/-- Major opcode 0x27 (R58, R60). -/
noncomputable def decodeMajor27 (n : Nat) : Except DecodeError Instr :=
  match n / 2 ^ 0 % 2 ^ 5 with
  | 0 => .ok (.fence (fld n 5 3))
  | 1 => .ok (.fencex (fld n 14 3) (fld n 8 3) (fld n 5 3))
  | 2 => .ok (.acq (fld n 20 6) (fld n 14 6) (fld n 5 3))
  | 3 => .ok (.rel (fld n 14 6) (fld n 8 6) (fld n 5 3))
  | 4 => .ok (.bindRegion (fld n 14 6) (fld n 8 6))
  | 5 => .ok (.unbindRegion (fld n 14 6) (fld n 8 6) (fld n 5 3))
  | 6 => .ok (.bst (fld n 14 6) (fld n 8 6))
  | 7 => .ok (.bamoAdd (fld n 20 6) (fld n 14 6) (fld n 8 6))
  | 8 => .ok (.bamoMax (fld n 20 6) (fld n 14 6) (fld n 8 6))
  | 9 => .ok (.bamoOr (fld n 20 6) (fld n 14 6) (fld n 8 6))
  | 10 => .ok (.bamoSwap (fld n 20 6) (fld n 14 6) (fld n 8 6))
  | _ => .error .reservedFunction

/-- Major opcode 0x28 (R58, R60). -/
noncomputable def decodeMajor28 (n : Nat) : Except DecodeError Instr :=
  match n / 2 ^ 0 % 2 ^ 3 with
  | 0 => .ok (.vadd (fld n 20 6) (fld n 14 6) (fld n 8 6) (fld n 6 2) (fld n 5 1) (fld n 4 1) (fld n 3 1))
  | 1 => .ok (.vsub (fld n 20 6) (fld n 14 6) (fld n 8 6) (fld n 6 2) (fld n 5 1) (fld n 4 1) (fld n 3 1))
  | 2 => .ok (.vmul (fld n 20 6) (fld n 14 6) (fld n 8 6) (fld n 6 2) (fld n 5 1) (fld n 4 1) (fld n 3 1))
  | 3 => .ok (.vmulh (fld n 20 6) (fld n 14 6) (fld n 8 6) (fld n 6 2) (fld n 5 1) (fld n 4 1) (fld n 3 1))
  | 4 => .ok (.vmin (fld n 20 6) (fld n 14 6) (fld n 8 6) (fld n 6 2) (fld n 5 1) (fld n 4 1) (fld n 3 1))
  | 5 => .ok (.vmax (fld n 20 6) (fld n 14 6) (fld n 8 6) (fld n 6 2) (fld n 5 1) (fld n 4 1) (fld n 3 1))
  | 6 => .ok (.vminu (fld n 20 6) (fld n 14 6) (fld n 8 6) (fld n 6 2) (fld n 5 1) (fld n 4 1) (fld n 3 1))
  | 7 => .ok (.vmaxu (fld n 20 6) (fld n 14 6) (fld n 8 6) (fld n 6 2) (fld n 5 1) (fld n 4 1) (fld n 3 1))
  | _ => .error .reservedFunction

/-- Major opcode 0x29 (R58, R60). -/
noncomputable def decodeMajor29 (n : Nat) : Except DecodeError Instr :=
  match n / 2 ^ 0 % 2 ^ 3 with
  | 0 => .ok (.vand (fld n 20 6) (fld n 14 6) (fld n 8 6) (fld n 6 2) (fld n 5 1) (fld n 4 1) (fld n 3 1))
  | 1 => .ok (.vor (fld n 20 6) (fld n 14 6) (fld n 8 6) (fld n 6 2) (fld n 5 1) (fld n 4 1) (fld n 3 1))
  | 2 => .ok (.vxor (fld n 20 6) (fld n 14 6) (fld n 8 6) (fld n 6 2) (fld n 5 1) (fld n 4 1) (fld n 3 1))
  | 3 => .ok (.vandn (fld n 20 6) (fld n 14 6) (fld n 8 6) (fld n 6 2) (fld n 5 1) (fld n 4 1) (fld n 3 1))
  | 4 => .ok (.vshl (fld n 20 6) (fld n 14 6) (fld n 8 6) (fld n 6 2) (fld n 5 1) (fld n 4 1) (fld n 3 1))
  | 5 => .ok (.vshr (fld n 20 6) (fld n 14 6) (fld n 8 6) (fld n 6 2) (fld n 5 1) (fld n 4 1) (fld n 3 1))
  | 6 => .ok (.vsra (fld n 20 6) (fld n 14 6) (fld n 8 6) (fld n 6 2) (fld n 5 1) (fld n 4 1) (fld n 3 1))
  | 7 => .ok (.vsel (fld n 20 6) (fld n 14 6) (fld n 8 6) (fld n 6 2) (fld n 4 1) (fld n 3 1))
  | _ => .error .reservedFunction

/-- Major opcode 0x2A (R58, R60). -/
noncomputable def decodeMajor2A (n : Nat) : Except DecodeError Instr :=
  match n / 2 ^ 0 % 2 ^ 3 with
  | 0 => .ok (.vceq (fld n 20 6) (fld n 14 6) (fld n 8 6) (fld n 6 2) (fld n 5 1) (fld n 4 1) (fld n 3 1))
  | 1 => .ok (.vcne (fld n 20 6) (fld n 14 6) (fld n 8 6) (fld n 6 2) (fld n 5 1) (fld n 4 1) (fld n 3 1))
  | 2 => .ok (.vclt (fld n 20 6) (fld n 14 6) (fld n 8 6) (fld n 6 2) (fld n 5 1) (fld n 4 1) (fld n 3 1))
  | 3 => .ok (.vcle (fld n 20 6) (fld n 14 6) (fld n 8 6) (fld n 6 2) (fld n 5 1) (fld n 4 1) (fld n 3 1))
  | 4 => .ok (.vcltu (fld n 20 6) (fld n 14 6) (fld n 8 6) (fld n 6 2) (fld n 5 1) (fld n 4 1) (fld n 3 1))
  | 5 => .ok (.vcleu (fld n 20 6) (fld n 14 6) (fld n 8 6) (fld n 6 2) (fld n 5 1) (fld n 4 1) (fld n 3 1))
  | 6 => .ok (.vsplat (fld n 20 6) (fld n 14 6) (fld n 6 2) (fld n 5 1))
  | 7 => .ok (.vext (fld n 20 6) (fld n 14 6) (fld n 8 6) (fld n 4 1))
  | _ => .error .reservedFunction

/-- Major opcode 0x2B (R58, R60). -/
noncomputable def decodeMajor2B (n : Nat) : Except DecodeError Instr :=
  match n / 2 ^ 0 % 2 ^ 3 with
  | 0 => .ok (.vperm (fld n 20 6) (fld n 14 6) (fld n 8 6) (fld n 6 2) (fld n 5 1) (fld n 4 1) (fld n 3 1))
  | 1 => .ok (.vrot (fld n 20 6) (fld n 14 6) (fld n 8 6) (fld n 6 2) (fld n 5 1) (fld n 4 1) (fld n 3 1))
  | 2 => .ok (.vshuf (fld n 20 6) (fld n 14 6) (fld n 8 6) (fld n 6 2) (fld n 5 1) (fld n 4 1) (fld n 3 1))
  | 3 => .ok (.vred (fld n 20 6) (fld n 14 6) (fld n 8 6) (fld n 6 2) (fld n 4 1))
  | 4 => .ok (.vscan (fld n 20 6) (fld n 14 6) (fld n 8 6) (fld n 6 2) (fld n 5 1) (fld n 4 1))
  | 5 => .ok (.vcomp (fld n 20 6) (fld n 14 6) (fld n 6 2) (fld n 5 1) (fld n 4 1))
  | 6 => .ok (.vexpd (fld n 20 6) (fld n 14 6) (fld n 6 2) (fld n 5 1) (fld n 4 1))
  | 7 => .ok (.vins (fld n 20 6) (fld n 14 6) (fld n 8 6) (fld n 6 2))
  | _ => .error .reservedFunction

/-- Major opcode 0x2C (R58, R60). -/
noncomputable def decodeMajor2C (n : Nat) : Except DecodeError Instr :=
  match n / 2 ^ 0 % 2 ^ 3 with
  | 0 => .ok (.vfadd (fld n 20 6) (fld n 14 6) (fld n 8 6) (fld n 6 2) (fld n 5 1) (fld n 3 2))
  | 1 => .ok (.vfsub (fld n 20 6) (fld n 14 6) (fld n 8 6) (fld n 6 2) (fld n 5 1) (fld n 3 2))
  | 2 => .ok (.vfmul (fld n 20 6) (fld n 14 6) (fld n 8 6) (fld n 6 2) (fld n 5 1) (fld n 3 2))
  | 3 => .ok (.vfdiv (fld n 20 6) (fld n 14 6) (fld n 8 6) (fld n 6 2) (fld n 5 1) (fld n 3 2))
  | 4 => .ok (.vfmin (fld n 20 6) (fld n 14 6) (fld n 8 6) (fld n 6 2) (fld n 5 1) (fld n 3 2))
  | 5 => .ok (.vfmax (fld n 20 6) (fld n 14 6) (fld n 8 6) (fld n 6 2) (fld n 5 1) (fld n 3 2))
  | 6 => .ok (.vfscpy (fld n 20 6) (fld n 14 6) (fld n 8 6) (fld n 6 2) (fld n 5 1) (fld n 3 2))
  | 7 => .ok (.vfscpyn (fld n 20 6) (fld n 14 6) (fld n 8 6) (fld n 6 2) (fld n 5 1) (fld n 3 2))
  | _ => .error .reservedFunction

/-- Major opcode 0x2D (R58, R60). -/
noncomputable def decodeMajor2D (n : Nat) : Except DecodeError Instr :=
  match n / 2 ^ 0 % 2 ^ 3 with
  | 0 => .ok (.vfma (fld n 20 6) (fld n 14 6) (fld n 8 6) (fld n 6 2) (fld n 5 1) (fld n 3 2))
  | 1 => .ok (.vfms (fld n 20 6) (fld n 14 6) (fld n 8 6) (fld n 6 2) (fld n 5 1) (fld n 3 2))
  | 2 => .ok (.vfnma (fld n 20 6) (fld n 14 6) (fld n 8 6) (fld n 6 2) (fld n 5 1) (fld n 3 2))
  | 3 => .ok (.vfnms (fld n 20 6) (fld n 14 6) (fld n 8 6) (fld n 6 2) (fld n 5 1) (fld n 3 2))
  | 4 => .ok (.vfsqrt (fld n 20 6) (fld n 14 6) (fld n 6 2) (fld n 5 1) (fld n 3 2))
  | 5 => .ok (.vfrnd (fld n 20 6) (fld n 14 6) (fld n 6 2) (fld n 5 1) (fld n 3 2))
  | 6 => .ok (.vfclass (fld n 20 6) (fld n 14 6) (fld n 6 2) (fld n 5 1) (fld n 3 2))
  | 7 =>
    match n / 2 ^ 8 % 2 ^ 6 with
    | 0 => .ok (.vftailr (fld n 20 6) (fld n 14 6) (fld n 6 2) (fld n 5 1) (fld n 3 2))
    | 1 => .ok (.vftailw (fld n 20 6) (fld n 14 6) (fld n 6 2) (fld n 5 1) (fld n 3 2))
    | _ => .error .reservedFunction
  | _ => .error .reservedFunction

/-- Major opcode 0x2E (R58, R60). -/
noncomputable def decodeMajor2E (n : Nat) : Except DecodeError Instr :=
  match n / 2 ^ 0 % 2 ^ 3 with
  | 0 => .ok (.vfeq (fld n 20 6) (fld n 14 6) (fld n 8 6) (fld n 6 2) (fld n 5 1) (fld n 3 2))
  | 1 => .ok (.vflt (fld n 20 6) (fld n 14 6) (fld n 8 6) (fld n 6 2) (fld n 5 1) (fld n 3 2))
  | 2 => .ok (.vfle (fld n 20 6) (fld n 14 6) (fld n 8 6) (fld n 6 2) (fld n 5 1) (fld n 3 2))
  | 3 => .ok (.vfunord (fld n 20 6) (fld n 14 6) (fld n 8 6) (fld n 6 2) (fld n 5 1) (fld n 3 2))
  | 4 => .ok (.vfeqx (fld n 20 6) (fld n 14 6) (fld n 8 6) (fld n 6 2) (fld n 5 1) (fld n 3 2))
  | 5 => .ok (.vfltx (fld n 20 6) (fld n 14 6) (fld n 8 6) (fld n 6 2) (fld n 5 1) (fld n 3 2))
  | 6 => .ok (.vflex (fld n 20 6) (fld n 14 6) (fld n 8 6) (fld n 6 2) (fld n 5 1) (fld n 3 2))
  | 7 => .ok (.vfne (fld n 20 6) (fld n 14 6) (fld n 8 6) (fld n 6 2) (fld n 5 1) (fld n 3 2))
  | _ => .error .reservedFunction

/-- Major opcode 0x2F (R58, R60). -/
noncomputable def decodeMajor2F (n : Nat) : Except DecodeError Instr :=
  .ok (.vfcvt (fld n 20 6) (fld n 14 6) (fld n 12 2) (fld n 11 1) (fld n 7 4) (fld n 3 4) (fld n 0 3))

/-- Major opcode 0x30 (R58, R60). -/
noncomputable def decodeMajor30 (n : Nat) : Except DecodeError Instr :=
  match n / 2 ^ 0 % 2 ^ 3 with
  | 0 => .ok (.vfexp2 (fld n 20 6) (fld n 14 6) (fld n 6 2) (fld n 5 1) (fld n 3 2))
  | 1 => .ok (.vflog2 (fld n 20 6) (fld n 14 6) (fld n 6 2) (fld n 5 1) (fld n 3 2))
  | 2 => .ok (.vfsinpi (fld n 20 6) (fld n 14 6) (fld n 6 2) (fld n 5 1) (fld n 3 2))
  | 3 => .ok (.vfcospi (fld n 20 6) (fld n 14 6) (fld n 6 2) (fld n 5 1) (fld n 3 2))
  | 4 => .ok (.vfrsqrt (fld n 20 6) (fld n 14 6) (fld n 6 2) (fld n 5 1) (fld n 3 2))
  | 5 => .ok (.vftanh (fld n 20 6) (fld n 14 6) (fld n 6 2) (fld n 5 1) (fld n 3 2))
  | _ => .error .reservedFunction

/-- Major opcode 0x31 (R58, R60). -/
noncomputable def decodeMajor31 (n : Nat) : Except DecodeError Instr :=
  match n / 2 ^ 0 % 2 ^ 6 with
  | 0 => .ok (.fadd (fld n 20 6) (fld n 14 6) (fld n 8 6) (fld n 6 2))
  | 1 => .ok (.fsub (fld n 20 6) (fld n 14 6) (fld n 8 6) (fld n 6 2))
  | 2 => .ok (.fmul (fld n 20 6) (fld n 14 6) (fld n 8 6) (fld n 6 2))
  | 3 => .ok (.fdiv (fld n 20 6) (fld n 14 6) (fld n 8 6) (fld n 6 2))
  | 4 => .ok (.fsqrt (fld n 20 6) (fld n 14 6) (fld n 6 2))
  | 5 => .ok (.fmin (fld n 20 6) (fld n 14 6) (fld n 8 6) (fld n 6 2))
  | 6 => .ok (.fmax (fld n 20 6) (fld n 14 6) (fld n 8 6) (fld n 6 2))
  | 7 => .ok (.fscpy (fld n 20 6) (fld n 14 6) (fld n 8 6) (fld n 6 2))
  | 8 => .ok (.fscpyn (fld n 20 6) (fld n 14 6) (fld n 8 6) (fld n 6 2))
  | 9 => .ok (.fsxor (fld n 20 6) (fld n 14 6) (fld n 8 6) (fld n 6 2))
  | 10 => .ok (.fma (fld n 20 6) (fld n 14 6) (fld n 8 6) (fld n 6 2))
  | 11 => .ok (.fms (fld n 20 6) (fld n 14 6) (fld n 8 6) (fld n 6 2))
  | 12 => .ok (.fnma (fld n 20 6) (fld n 14 6) (fld n 8 6) (fld n 6 2))
  | 13 => .ok (.fnms (fld n 20 6) (fld n 14 6) (fld n 8 6) (fld n 6 2))
  | 14 => .ok (.feq (fld n 20 6) (fld n 14 6) (fld n 8 6) (fld n 6 2))
  | 15 => .ok (.flt (fld n 20 6) (fld n 14 6) (fld n 8 6) (fld n 6 2))
  | 16 => .ok (.fle (fld n 20 6) (fld n 14 6) (fld n 8 6) (fld n 6 2))
  | 17 => .ok (.funord (fld n 20 6) (fld n 14 6) (fld n 8 6) (fld n 6 2))
  | 18 => .ok (.feqx (fld n 20 6) (fld n 14 6) (fld n 8 6) (fld n 6 2))
  | 19 => .ok (.fltx (fld n 20 6) (fld n 14 6) (fld n 8 6) (fld n 6 2))
  | 20 => .ok (.flex (fld n 20 6) (fld n 14 6) (fld n 8 6) (fld n 6 2))
  | 21 => .ok (.fclass (fld n 20 6) (fld n 14 6) (fld n 6 2))
  | 22 => .ok (.frnd (fld n 20 6) (fld n 14 6) (fld n 6 2))
  | 23 => .ok (.fmvx (fld n 20 6) (fld n 14 6) (fld n 6 2))
  | 24 => .ok (.fmvf (fld n 20 6) (fld n 14 6) (fld n 6 2))
  | 25 => .ok (.ftailr (fld n 20 6) (fld n 14 6))
  | 26 => .ok (.ftailw (fld n 20 6) (fld n 14 6))
  | 27 => .ok (.fexp2 (fld n 20 6) (fld n 14 6) (fld n 6 2))
  | 28 => .ok (.flog2 (fld n 20 6) (fld n 14 6) (fld n 6 2))
  | 29 => .ok (.fsinpi (fld n 20 6) (fld n 14 6) (fld n 6 2))
  | 30 => .ok (.fcospi (fld n 20 6) (fld n 14 6) (fld n 6 2))
  | 31 => .ok (.frsqrt (fld n 20 6) (fld n 14 6) (fld n 6 2))
  | 32 => .ok (.ftanh (fld n 20 6) (fld n 14 6) (fld n 6 2))
  | _ => .error .reservedFunction

/-- Major opcode 0x32 (R58, R60). -/
noncomputable def decodeMajor32 (n : Nat) : Except DecodeError Instr :=
  .ok (.fcvt (fld n 20 6) (fld n 14 6) (fld n 10 4) (fld n 6 4) (fld n 3 3))

/-- Major opcode 0x33 (R58, R60). -/
noncomputable def decodeMajor33 (n : Nat) : Except DecodeError Instr :=
  match n / 2 ^ 0 % 2 ^ 8 with
  | 0 => .ok (.tcfg (fld n 20 6) (fld n 14 6))
  | 1 => .ok (.tzero (fld n 20 6))
  | 2 => .ok (.tld (fld n 20 6) (fld n 14 6) (fld n 8 6))
  | 3 => .ok (.tst (fld n 20 6) (fld n 14 6) (fld n 8 6))
  | 4 => .ok (.tldbp (fld n 20 6) (fld n 14 6) (fld n 8 6))
  | 5 => .ok (.tldmx (fld n 20 6) (fld n 14 6) (fld n 8 6))
  | 6 => .ok (.mma (fld n 20 6) (fld n 14 6) (fld n 8 6))
  | 7 => .ok (.tcvt (fld n 20 6) (fld n 14 6) (fld n 8 3))
  | 8 => .ok (.tmov (fld n 20 6) (fld n 14 6))
  | 9 => .ok (.tget (fld n 20 6) (fld n 14 6) (fld n 8 6))
  | 10 => .ok (.tset (fld n 20 6) (fld n 14 6) (fld n 8 6))
  | 11 => .ok (.geom (fld n 20 6) (fld n 14 6) (fld n 8 6))
  | 12 => .ok (.mms (fld n 20 6) (fld n 14 6))
  | _ => .error .reservedFunction

/-- Major opcode 0x34 (R58, R60). -/
noncomputable def decodeMajor34 (n : Nat) : Except DecodeError Instr :=
  match n / 2 ^ 0 % 2 ^ 8 with
  | 0 => .ok (.fwait (fld n 20 6) (fld n 14 6))
  | 1 => .ok (.ftest (fld n 20 6) (fld n 14 6) (fld n 8 1))
  | 2 => .ok (.fcancel (fld n 20 6) (fld n 14 6) (fld n 8 1))
  | 3 => .ok (.fhandle (fld n 20 6) (fld n 14 6) (fld n 8 1))
  | 4 => .ok (.cpy (fld n 20 6) (fld n 14 6))
  | 5 => .ok (.cpy2d (fld n 20 6) (fld n 14 6))
  | 6 => .ok (.cpym (fld n 20 6) (fld n 14 6))
  | 7 => .ok (.cpyr (fld n 20 6) (fld n 14 6))
  | 8 => .ok (.evwait (fld n 20 6) (fld n 14 6) (fld n 8 6))
  | 9 => .ok (.evpop (fld n 20 6) (fld n 14 6))
  | 10 => .ok (.evpost (fld n 14 6) (fld n 8 6))
  | 11 => .ok (.chsend (fld n 20 6) (fld n 14 6) (fld n 8 6))
  | 12 => .ok (.chrecv (fld n 20 6) (fld n 14 6) (fld n 8 6))
  | 13 => .ok (.chwait (fld n 20 6) (fld n 8 6))
  | 14 => .ok (.chadv (fld n 20 6) (fld n 8 6))
  | 15 => .ok (.wdq (fld n 20 6) (fld n 14 6))
  | 16 => .ok (.submit (fld n 20 6) (fld n 14 6) (fld n 8 6))
  | _ => .error .reservedFunction

/-- Major opcode 0x35 (R58, R60). -/
noncomputable def decodeMajor35 (n : Nat) : Except DecodeError Instr :=
  match n / 2 ^ 0 % 2 ^ 8 with
  | 0 => .ok (.bari (fld n 14 6) (fld n 8 6))
  | 1 => .ok (.barr (fld n 20 6) (fld n 14 6))
  | 2 => .ok (.bard (fld n 20 6) (fld n 14 6))
  | 3 => .ok (.joinc (fld n 20 6))
  | 4 => .ok (.ccnt (fld n 20 6) (fld n 14 6) (fld n 8 6))
  | 5 => .ok (.cancelCounter (fld n 20 6) (fld n 14 6))
  | _ => .error .reservedFunction

/-- Major opcode 0x36 (R58, R60). -/
noncomputable def decodeMajor36 (n : Nat) : Except DecodeError Instr :=
  .ok (.movc (fld n 20 6) (fld n 0 14))

/-- Major opcode 0x37 (R58, R60). -/
noncomputable def decodeMajor37 (n : Nat) : Except DecodeError Instr :=
  .ok (.movtc (fld n 14 6) (fld n 0 14))

/-- Major opcode 0x3F (R58, R60). -/
noncomputable def decodeMajor3F (n : Nat) : Except DecodeError Instr :=
  match n / 2 ^ 22 % 2 ^ 4 with
  | 0 => .ok (.nopHint (fld n 0 22))
  | 1 => .ok (.himm (fld n 0 22))
  | 2 => .ok (.hmod (fld n 20 2) (fld n 19 1) (fld n 16 3) (fld n 15 1) (fld n 14 1) (fld n 12 2) (fld n 11 1) (fld n 10 1) (fld n 9 1))
  | 3 => .ok (.rep (fld n 16 6) (fld n 13 3) (fld n 10 3) (fld n 7 3))
  | 4 => .ok (.realign (fld n 0 16))
  | 5 => .ok (.hsched (fld n 0 2))
  | _ => .ok (.nopHint (fld n 0 22))

/-- The instruction a word stands for by its major, function and fields, before the checks on reserved bits and field
values (R58). -/
noncomputable def decodeRaw (n : Nat) : Except DecodeError Instr :=
  match n / 2 ^ 26 with
  | 1 => decodeMajor01 n
  | 2 => decodeMajor02 n
  | 3 => decodeMajor03 n
  | 4 => decodeMajor04 n
  | 5 => decodeMajor05 n
  | 6 => decodeMajor06 n
  | 7 => decodeMajor07 n
  | 8 => decodeMajor08 n
  | 9 => decodeMajor09 n
  | 10 => decodeMajor0A n
  | 11 => decodeMajor0B n
  | 12 => decodeMajor0C n
  | 13 => decodeMajor0D n
  | 14 => decodeMajor0E n
  | 15 => decodeMajor0F n
  | 16 => decodeMajor10 n
  | 17 => decodeMajor11 n
  | 18 => decodeMajor12 n
  | 19 => decodeMajor13 n
  | 20 => decodeMajor14 n
  | 21 => decodeMajor15 n
  | 22 => decodeMajor16 n
  | 23 => decodeMajor17 n
  | 24 => decodeMajor18 n
  | 25 => decodeMajor19 n
  | 26 => decodeMajor1A n
  | 27 => decodeMajor1B n
  | 28 => decodeMajor1C n
  | 29 => decodeMajor1D n
  | 30 => decodeMajor1E n
  | 31 => decodeMajor1F n
  | 32 => decodeMajor20 n
  | 33 => decodeMajor21 n
  | 34 => decodeMajor22 n
  | 35 => decodeMajor23 n
  | 36 => decodeMajor24 n
  | 37 => decodeMajor25 n
  | 38 => decodeMajor26 n
  | 39 => decodeMajor27 n
  | 40 => decodeMajor28 n
  | 41 => decodeMajor29 n
  | 42 => decodeMajor2A n
  | 43 => decodeMajor2B n
  | 44 => decodeMajor2C n
  | 45 => decodeMajor2D n
  | 46 => decodeMajor2E n
  | 47 => decodeMajor2F n
  | 48 => decodeMajor30 n
  | 49 => decodeMajor31 n
  | 50 => decodeMajor32 n
  | 51 => decodeMajor33 n
  | 52 => decodeMajor34 n
  | 53 => decodeMajor35 n
  | 54 => decodeMajor36 n
  | 55 => decodeMajor37 n
  | 63 => decodeMajor3F n
  | _ => .error .reservedMajor

/-- The word of an encoded instruction (R50, R58, R60); an event has none. -/
def encodeNat : Instr → Option Nat
  | .add d a b => some (67108864 + d.toNat * 1048576 + a.toNat * 16384 + b.toNat * 256)
  | .sub d a b => some (67108865 + d.toNat * 1048576 + a.toNat * 16384 + b.toNat * 256)
  | .and d a b => some (67108866 + d.toNat * 1048576 + a.toNat * 16384 + b.toNat * 256)
  | .or d a b => some (67108867 + d.toNat * 1048576 + a.toNat * 16384 + b.toNat * 256)
  | .xor d a b => some (67108868 + d.toNat * 1048576 + a.toNat * 16384 + b.toNat * 256)
  | .andn d a b => some (67108869 + d.toNat * 1048576 + a.toNat * 16384 + b.toNat * 256)
  | .orn d a b => some (67108870 + d.toNat * 1048576 + a.toNat * 16384 + b.toNat * 256)
  | .xnor d a b => some (67108871 + d.toNat * 1048576 + a.toNat * 16384 + b.toNat * 256)
  | .shl d a b => some (67108872 + d.toNat * 1048576 + a.toNat * 16384 + b.toNat * 256)
  | .shr d a b => some (67108873 + d.toNat * 1048576 + a.toNat * 16384 + b.toNat * 256)
  | .sra d a b => some (67108874 + d.toNat * 1048576 + a.toNat * 16384 + b.toNat * 256)
  | .rol d a b => some (67108875 + d.toNat * 1048576 + a.toNat * 16384 + b.toNat * 256)
  | .ror d a b => some (67108876 + d.toNat * 1048576 + a.toNat * 16384 + b.toNat * 256)
  | .min d a b => some (67108877 + d.toNat * 1048576 + a.toNat * 16384 + b.toNat * 256)
  | .max d a b => some (67108878 + d.toNat * 1048576 + a.toNat * 16384 + b.toNat * 256)
  | .minu d a b => some (67108879 + d.toNat * 1048576 + a.toNat * 16384 + b.toNat * 256)
  | .maxu d a b => some (67108880 + d.toNat * 1048576 + a.toNat * 16384 + b.toNat * 256)
  | .slt d a b => some (67108881 + d.toNat * 1048576 + a.toNat * 16384 + b.toNat * 256)
  | .sltu d a b => some (67108882 + d.toNat * 1048576 + a.toNat * 16384 + b.toNat * 256)
  | .seq d a b => some (67108883 + d.toNat * 1048576 + a.toNat * 16384 + b.toNat * 256)
  | .sne d a b => some (67108884 + d.toNat * 1048576 + a.toNat * 16384 + b.toNat * 256)
  | .mul d a b => some (67108885 + d.toNat * 1048576 + a.toNat * 16384 + b.toNat * 256)
  | .mulh d a b => some (67108886 + d.toNat * 1048576 + a.toNat * 16384 + b.toNat * 256)
  | .mulhu d a b => some (67108887 + d.toNat * 1048576 + a.toNat * 16384 + b.toNat * 256)
  | .div d a b => some (67108888 + d.toNat * 1048576 + a.toNat * 16384 + b.toNat * 256)
  | .divu d a b => some (67108889 + d.toNat * 1048576 + a.toNat * 16384 + b.toNat * 256)
  | .rem d a b => some (67108890 + d.toNat * 1048576 + a.toNat * 16384 + b.toNat * 256)
  | .remu d a b => some (67108891 + d.toNat * 1048576 + a.toNat * 16384 + b.toNat * 256)
  | .clz d a => some (67108892 + d.toNat * 1048576 + a.toNat * 16384)
  | .ctz d a => some (67108893 + d.toNat * 1048576 + a.toNat * 16384)
  | .popc d a => some (67108894 + d.toNat * 1048576 + a.toNat * 16384)
  | .brev d a => some (67108895 + d.toNat * 1048576 + a.toNat * 16384)
  | .bswap d a => some (67108896 + d.toNat * 1048576 + a.toNat * 16384)
  | .sext d a w => some (67108897 + d.toNat * 1048576 + a.toNat * 16384 + w.toNat * 256)
  | .zext d a w => some (67108898 + d.toNat * 1048576 + a.toNat * 16384 + w.toNat * 256)
  | .addw d a b => some (67108899 + d.toNat * 1048576 + a.toNat * 16384 + b.toNat * 256)
  | .subw d a b => some (67108900 + d.toNat * 1048576 + a.toNat * 16384 + b.toNat * 256)
  | .mulw d a b => some (67108901 + d.toNat * 1048576 + a.toNat * 16384 + b.toNat * 256)
  | .shlw d a b => some (67108902 + d.toNat * 1048576 + a.toNat * 16384 + b.toNat * 256)
  | .shrw d a b => some (67108903 + d.toNat * 1048576 + a.toNat * 16384 + b.toNat * 256)
  | .sraw d a b => some (67108904 + d.toNat * 1048576 + a.toNat * 16384 + b.toNat * 256)
  | .mov d a => some (67108905 + d.toNat * 1048576 + a.toNat * 16384)
  | .addi d a i => some (134217728 + d.toNat * 1048576 + a.toNat * 16384 + i.toNat)
  | .andi d a i => some (201326592 + d.toNat * 1048576 + a.toNat * 16384 + i.toNat)
  | .ori d a i => some (268435456 + d.toNat * 1048576 + a.toNat * 16384 + i.toNat)
  | .xori d a i => some (335544320 + d.toNat * 1048576 + a.toNat * 16384 + i.toNat)
  | .shli d a s => some (402653184 + d.toNat * 1048576 + a.toNat * 16384 + s.toNat)
  | .shri d a s => some (402657280 + d.toNat * 1048576 + a.toNat * 16384 + s.toNat)
  | .srai d a s => some (402661376 + d.toNat * 1048576 + a.toNat * 16384 + s.toNat)
  | .rori d a s => some (402665472 + d.toNat * 1048576 + a.toNat * 16384 + s.toNat)
  | .slti d a i => some (469762048 + d.toNat * 1048576 + a.toNat * 16384 + i.toNat)
  | .sltiu d a i => some (536870912 + d.toNat * 1048576 + a.toNat * 16384 + i.toNat)
  | .lhi d i => some (603979776 + d.toNat * 1048576 + i.toNat)
  | .pchi d i => some (671088640 + d.toNat * 1048576 + i.toNat)
  | .beq a b o => some (738197504 + a.toNat * 1048576 + b.toNat * 16384 + o.toNat)
  | .bne a b o => some (738199552 + a.toNat * 1048576 + b.toNat * 16384 + o.toNat)
  | .blt a b o => some (738201600 + a.toNat * 1048576 + b.toNat * 16384 + o.toNat)
  | .bge a b o => some (738203648 + a.toNat * 1048576 + b.toNat * 16384 + o.toNat)
  | .bltu a b o => some (738205696 + a.toNat * 1048576 + b.toNat * 16384 + o.toNat)
  | .bgeu a b o => some (738207744 + a.toNat * 1048576 + b.toNat * 16384 + o.toNat)
  | .jal d o => some (805306368 + d.toNat * 1048576 + o.toNat)
  | .jalr d a i => some (872415232 + d.toNat * 1048576 + a.toNat * 16384 + i.toNat)
  | .loop l a i => some (939524096 + l.toNat * 1048576 + a.toNat * 16384 + i.toNat)
  | .yield a => some (1006632960 + a.toNat * 16384)
  | .exitTask => some (1006632961)
  | .forkr d a b => some (1006632962 + d.toNat * 1048576 + a.toNat * 16384 + b.toNat * 256)
  | .trap a => some (1006632963 + a.toNat * 16384)
  | .eret => some (1006632964)
  | .syscFree d a => some (1006632965 + d.toNat * 1048576 + a.toNat * 16384)
  | .syscHostev d a => some (1006633221 + d.toNat * 1048576 + a.toNat * 16384)
  | .brk c => some (1006632966 + c.toNat * 256)
  | .lbrk => some (1006632967)
  | .vrel f a b => some (1006632968 + f.toNat * 1048576 + a.toNat * 16384 + b.toNat * 256)
  | .fencei => some (1006632969)
  | .ldb d a q o i => some (1073741824 + d.toNat * 1048576 + a.toNat * 16384 + q.toNat * 4096 + o.toNat * 1024 + i.toNat)
  | .ldh d a q o i => some (1140850688 + d.toNat * 1048576 + a.toNat * 16384 + q.toNat * 4096 + o.toNat * 1024 + i.toNat)
  | .ldw d a q o i => some (1207959552 + d.toNat * 1048576 + a.toNat * 16384 + q.toNat * 4096 + o.toNat * 1024 + i.toNat)
  | .ldd d a q o i => some (1275068416 + d.toNat * 1048576 + a.toNat * 16384 + q.toNat * 4096 + o.toNat * 1024 + i.toNat)
  | .ldbu d a q o i => some (1342177280 + d.toNat * 1048576 + a.toNat * 16384 + q.toNat * 4096 + o.toNat * 1024 + i.toNat)
  | .ldhu d a q o i => some (1409286144 + d.toNat * 1048576 + a.toNat * 16384 + q.toNat * 4096 + o.toNat * 1024 + i.toNat)
  | .ldwu d a q o i => some (1476395008 + d.toNat * 1048576 + a.toNat * 16384 + q.toNat * 4096 + o.toNat * 1024 + i.toNat)
  | .stb b a q o i => some (1543503872 + b.toNat * 1048576 + a.toNat * 16384 + q.toNat * 4096 + o.toNat * 1024 + i.toNat)
  | .sth b a q o i => some (1610612736 + b.toNat * 1048576 + a.toNat * 16384 + q.toNat * 4096 + o.toNat * 1024 + i.toNat)
  | .stw b a q o i => some (1677721600 + b.toNat * 1048576 + a.toNat * 16384 + q.toNat * 4096 + o.toNat * 1024 + i.toNat)
  | .std b a q o i => some (1744830464 + b.toNat * 1048576 + a.toNat * 16384 + q.toNat * 4096 + o.toNat * 1024 + i.toNat)
  | .fld d a f q i => some (1811939328 + d.toNat * 1048576 + a.toNat * 16384 + f.toNat * 1024 + q.toNat * 256 + i.toNat)
  | .fst b a f m i => some (1879048192 + b.toNat * 1048576 + a.toNat * 16384 + f.toNat * 1024 + m.toNat * 128 + i.toNat)
  | .ldt d a i => some (1946157056 + d.toNat * 1048576 + a.toNat * 16384 + i.toNat)
  | .stt d a i => some (2013265920 + d.toNat * 1048576 + a.toNat * 16384 + i.toNat)
  | .vld d a k p q i => some (2080374784 + d.toNat * 1048576 + a.toNat * 16384 + k.toNat * 4096 + p.toNat * 2048 + q.toNat * 512 + i.toNat)
  | .vst d a k q i => some (2147483648 + d.toNat * 1048576 + a.toNat * 16384 + k.toNat * 4096 + q.toNat * 512 + i.toNat)
  | .vlds d a b k p q => some (2214592512 + d.toNat * 1048576 + a.toNat * 16384 + b.toNat * 256 + k.toNat * 64 + p.toNat * 32 + q.toNat * 8)
  | .vgather d a b k p q => some (2214592513 + d.toNat * 1048576 + a.toNat * 16384 + b.toNat * 256 + k.toNat * 64 + p.toNat * 32 + q.toNat * 8)
  | .vldt d a q => some (2214592514 + d.toNat * 1048576 + a.toNat * 16384 + q.toNat * 8)
  | .vsts d a b k q => some (2281701376 + d.toNat * 1048576 + a.toNat * 16384 + b.toNat * 256 + k.toNat * 64 + q.toNat * 8)
  | .vscatter d a b k q => some (2281701377 + d.toNat * 1048576 + a.toNat * 16384 + b.toNat * 256 + k.toNat * 64 + q.toNat * 8)
  | .vstt d a q => some (2281701378 + d.toNat * 1048576 + a.toNat * 16384 + q.toNat * 8)
  | .amoadd d a b w s => some (2348810240 + d.toNat * 1048576 + a.toNat * 16384 + b.toNat * 256 + w.toNat * 128 + s.toNat * 16)
  | .amoand d a b w s => some (2348810241 + d.toNat * 1048576 + a.toNat * 16384 + b.toNat * 256 + w.toNat * 128 + s.toNat * 16)
  | .amoor d a b w s => some (2348810242 + d.toNat * 1048576 + a.toNat * 16384 + b.toNat * 256 + w.toNat * 128 + s.toNat * 16)
  | .amoxor d a b w s => some (2348810243 + d.toNat * 1048576 + a.toNat * 16384 + b.toNat * 256 + w.toNat * 128 + s.toNat * 16)
  | .amomin d a b w s => some (2348810244 + d.toNat * 1048576 + a.toNat * 16384 + b.toNat * 256 + w.toNat * 128 + s.toNat * 16)
  | .amomax d a b w s => some (2348810245 + d.toNat * 1048576 + a.toNat * 16384 + b.toNat * 256 + w.toNat * 128 + s.toNat * 16)
  | .amominu d a b w s => some (2348810246 + d.toNat * 1048576 + a.toNat * 16384 + b.toNat * 256 + w.toNat * 128 + s.toNat * 16)
  | .amomaxu d a b w s => some (2348810247 + d.toNat * 1048576 + a.toNat * 16384 + b.toNat * 256 + w.toNat * 128 + s.toNat * 16)
  | .amoswap d a b w s => some (2348810248 + d.toNat * 1048576 + a.toNat * 16384 + b.toNat * 256 + w.toNat * 128 + s.toNat * 16)
  | .amocas d a b w s => some (2348810249 + d.toNat * 1048576 + a.toNat * 16384 + b.toNat * 256 + w.toNat * 128 + s.toNat * 16)
  | .cas2 d a b s => some (2415919104 + d.toNat * 1048576 + a.toNat * 16384 + b.toNat * 256 + s.toNat * 16)
  | .swap2 d a b s => some (2415919105 + d.toNat * 1048576 + a.toNat * 16384 + b.toNat * 256 + s.toNat * 16)
  | .faddaF d a b s => some (2415919106 + d.toNat * 1048576 + a.toNat * 16384 + b.toNat * 256 + s.toNat * 16)
  | .faddaD d a b s => some (2415919107 + d.toNat * 1048576 + a.toNat * 16384 + b.toNat * 256 + s.toNat * 16)
  | .vamoadd d a b s => some (2415919108 + d.toNat * 1048576 + a.toNat * 16384 + b.toNat * 256 + s.toNat * 16)
  | .appendW d a b => some (2483027968 + d.toNat * 1048576 + a.toNat * 16384 + b.toNat * 256)
  | .appendD d a b => some (2483027969 + d.toNat * 1048576 + a.toNat * 16384 + b.toNat * 256)
  | .appendv d a b => some (2483027970 + d.toNat * 1048576 + a.toNat * 16384 + b.toNat * 256)
  | .sealPage d a => some (2483027971 + d.toNat * 1048576 + a.toNat * 16384)
  | .tailq d a => some (2483027972 + d.toNat * 1048576 + a.toNat * 16384)
  | .wbr d a b s => some (2550136832 + d.toNat * 1048576 + a.toNat * 16384 + b.toNat * 256 + s.toNat * 32)
  | .invr d a b s => some (2550136833 + d.toNat * 1048576 + a.toNat * 16384 + b.toNat * 256 + s.toNat * 32)
  | .wbinvr d a b s => some (2550136834 + d.toNat * 1048576 + a.toNat * 16384 + b.toNat * 256 + s.toNat * 32)
  | .pref a b => some (2550136835 + a.toNat * 16384 + b.toNat * 256)
  | .stashmap d a b => some (2550136836 + d.toNat * 1048576 + a.toNat * 16384 + b.toNat * 256)
  | .stashflush d a b s => some (2550136837 + d.toNat * 1048576 + a.toNat * 16384 + b.toNat * 256 + s.toNat * 32)
  | .linez d a b => some (2550136838 + d.toNat * 1048576 + a.toNat * 16384 + b.toNat * 256)
  | .fence s => some (2617245696 + s.toNat * 32)
  | .fencex p q s => some (2617245697 + p.toNat * 16384 + q.toNat * 256 + s.toNat * 32)
  | .acq d a s => some (2617245698 + d.toNat * 1048576 + a.toNat * 16384 + s.toNat * 32)
  | .rel a b s => some (2617245699 + a.toNat * 16384 + b.toNat * 256 + s.toNat * 32)
  | .bindRegion a b => some (2617245700 + a.toNat * 16384 + b.toNat * 256)
  | .unbindRegion a b s => some (2617245701 + a.toNat * 16384 + b.toNat * 256 + s.toNat * 32)
  | .bst a b => some (2617245830 + a.toNat * 16384 + b.toNat * 256)
  | .bamoAdd d a b => some (2617245831 + d.toNat * 1048576 + a.toNat * 16384 + b.toNat * 256)
  | .bamoMax d a b => some (2617245832 + d.toNat * 1048576 + a.toNat * 16384 + b.toNat * 256)
  | .bamoOr d a b => some (2617245833 + d.toNat * 1048576 + a.toNat * 16384 + b.toNat * 256)
  | .bamoSwap d a b => some (2617245834 + d.toNat * 1048576 + a.toNat * 16384 + b.toNat * 256)
  | .vadd d a b k p h g => some (2684354560 + d.toNat * 1048576 + a.toNat * 16384 + b.toNat * 256 + k.toNat * 64 + p.toNat * 32 + h.toNat * 16 + g.toNat * 8)
  | .vsub d a b k p h g => some (2684354561 + d.toNat * 1048576 + a.toNat * 16384 + b.toNat * 256 + k.toNat * 64 + p.toNat * 32 + h.toNat * 16 + g.toNat * 8)
  | .vmul d a b k p h g => some (2684354562 + d.toNat * 1048576 + a.toNat * 16384 + b.toNat * 256 + k.toNat * 64 + p.toNat * 32 + h.toNat * 16 + g.toNat * 8)
  | .vmulh d a b k p h g => some (2684354563 + d.toNat * 1048576 + a.toNat * 16384 + b.toNat * 256 + k.toNat * 64 + p.toNat * 32 + h.toNat * 16 + g.toNat * 8)
  | .vmin d a b k p h g => some (2684354564 + d.toNat * 1048576 + a.toNat * 16384 + b.toNat * 256 + k.toNat * 64 + p.toNat * 32 + h.toNat * 16 + g.toNat * 8)
  | .vmax d a b k p h g => some (2684354565 + d.toNat * 1048576 + a.toNat * 16384 + b.toNat * 256 + k.toNat * 64 + p.toNat * 32 + h.toNat * 16 + g.toNat * 8)
  | .vminu d a b k p h g => some (2684354566 + d.toNat * 1048576 + a.toNat * 16384 + b.toNat * 256 + k.toNat * 64 + p.toNat * 32 + h.toNat * 16 + g.toNat * 8)
  | .vmaxu d a b k p h g => some (2684354567 + d.toNat * 1048576 + a.toNat * 16384 + b.toNat * 256 + k.toNat * 64 + p.toNat * 32 + h.toNat * 16 + g.toNat * 8)
  | .vand d a b k p h g => some (2751463424 + d.toNat * 1048576 + a.toNat * 16384 + b.toNat * 256 + k.toNat * 64 + p.toNat * 32 + h.toNat * 16 + g.toNat * 8)
  | .vor d a b k p h g => some (2751463425 + d.toNat * 1048576 + a.toNat * 16384 + b.toNat * 256 + k.toNat * 64 + p.toNat * 32 + h.toNat * 16 + g.toNat * 8)
  | .vxor d a b k p h g => some (2751463426 + d.toNat * 1048576 + a.toNat * 16384 + b.toNat * 256 + k.toNat * 64 + p.toNat * 32 + h.toNat * 16 + g.toNat * 8)
  | .vandn d a b k p h g => some (2751463427 + d.toNat * 1048576 + a.toNat * 16384 + b.toNat * 256 + k.toNat * 64 + p.toNat * 32 + h.toNat * 16 + g.toNat * 8)
  | .vshl d a b k p h g => some (2751463428 + d.toNat * 1048576 + a.toNat * 16384 + b.toNat * 256 + k.toNat * 64 + p.toNat * 32 + h.toNat * 16 + g.toNat * 8)
  | .vshr d a b k p h g => some (2751463429 + d.toNat * 1048576 + a.toNat * 16384 + b.toNat * 256 + k.toNat * 64 + p.toNat * 32 + h.toNat * 16 + g.toNat * 8)
  | .vsra d a b k p h g => some (2751463430 + d.toNat * 1048576 + a.toNat * 16384 + b.toNat * 256 + k.toNat * 64 + p.toNat * 32 + h.toNat * 16 + g.toNat * 8)
  | .vsel d a b k h g => some (2751463431 + d.toNat * 1048576 + a.toNat * 16384 + b.toNat * 256 + k.toNat * 64 + h.toNat * 16 + g.toNat * 8)
  | .vceq d a b k p h g => some (2818572288 + d.toNat * 1048576 + a.toNat * 16384 + b.toNat * 256 + k.toNat * 64 + p.toNat * 32 + h.toNat * 16 + g.toNat * 8)
  | .vcne d a b k p h g => some (2818572289 + d.toNat * 1048576 + a.toNat * 16384 + b.toNat * 256 + k.toNat * 64 + p.toNat * 32 + h.toNat * 16 + g.toNat * 8)
  | .vclt d a b k p h g => some (2818572290 + d.toNat * 1048576 + a.toNat * 16384 + b.toNat * 256 + k.toNat * 64 + p.toNat * 32 + h.toNat * 16 + g.toNat * 8)
  | .vcle d a b k p h g => some (2818572291 + d.toNat * 1048576 + a.toNat * 16384 + b.toNat * 256 + k.toNat * 64 + p.toNat * 32 + h.toNat * 16 + g.toNat * 8)
  | .vcltu d a b k p h g => some (2818572292 + d.toNat * 1048576 + a.toNat * 16384 + b.toNat * 256 + k.toNat * 64 + p.toNat * 32 + h.toNat * 16 + g.toNat * 8)
  | .vcleu d a b k p h g => some (2818572293 + d.toNat * 1048576 + a.toNat * 16384 + b.toNat * 256 + k.toNat * 64 + p.toNat * 32 + h.toNat * 16 + g.toNat * 8)
  | .vsplat d a k p => some (2818572294 + d.toNat * 1048576 + a.toNat * 16384 + k.toNat * 64 + p.toNat * 32)
  | .vext d a b h => some (2818572295 + d.toNat * 1048576 + a.toNat * 16384 + b.toNat * 256 + h.toNat * 16)
  | .vperm d a b k p h g => some (2885681152 + d.toNat * 1048576 + a.toNat * 16384 + b.toNat * 256 + k.toNat * 64 + p.toNat * 32 + h.toNat * 16 + g.toNat * 8)
  | .vrot d a b k p h g => some (2885681153 + d.toNat * 1048576 + a.toNat * 16384 + b.toNat * 256 + k.toNat * 64 + p.toNat * 32 + h.toNat * 16 + g.toNat * 8)
  | .vshuf d a b k p h g => some (2885681154 + d.toNat * 1048576 + a.toNat * 16384 + b.toNat * 256 + k.toNat * 64 + p.toNat * 32 + h.toNat * 16 + g.toNat * 8)
  | .vred d a c k h => some (2885681155 + d.toNat * 1048576 + a.toNat * 16384 + c.toNat * 256 + k.toNat * 64 + h.toNat * 16)
  | .vscan d a c k p h => some (2885681156 + d.toNat * 1048576 + a.toNat * 16384 + c.toNat * 256 + k.toNat * 64 + p.toNat * 32 + h.toNat * 16)
  | .vcomp d a k p h => some (2885681157 + d.toNat * 1048576 + a.toNat * 16384 + k.toNat * 64 + p.toNat * 32 + h.toNat * 16)
  | .vexpd d a k p h => some (2885681158 + d.toNat * 1048576 + a.toNat * 16384 + k.toNat * 64 + p.toNat * 32 + h.toNat * 16)
  | .vins d a b k => some (2885681159 + d.toNat * 1048576 + a.toNat * 16384 + b.toNat * 256 + k.toNat * 64)
  | .vfadd d a b k p t => some (2952790016 + d.toNat * 1048576 + a.toNat * 16384 + b.toNat * 256 + k.toNat * 64 + p.toNat * 32 + t.toNat * 8)
  | .vfsub d a b k p t => some (2952790017 + d.toNat * 1048576 + a.toNat * 16384 + b.toNat * 256 + k.toNat * 64 + p.toNat * 32 + t.toNat * 8)
  | .vfmul d a b k p t => some (2952790018 + d.toNat * 1048576 + a.toNat * 16384 + b.toNat * 256 + k.toNat * 64 + p.toNat * 32 + t.toNat * 8)
  | .vfdiv d a b k p t => some (2952790019 + d.toNat * 1048576 + a.toNat * 16384 + b.toNat * 256 + k.toNat * 64 + p.toNat * 32 + t.toNat * 8)
  | .vfmin d a b k p t => some (2952790020 + d.toNat * 1048576 + a.toNat * 16384 + b.toNat * 256 + k.toNat * 64 + p.toNat * 32 + t.toNat * 8)
  | .vfmax d a b k p t => some (2952790021 + d.toNat * 1048576 + a.toNat * 16384 + b.toNat * 256 + k.toNat * 64 + p.toNat * 32 + t.toNat * 8)
  | .vfscpy d a b k p t => some (2952790022 + d.toNat * 1048576 + a.toNat * 16384 + b.toNat * 256 + k.toNat * 64 + p.toNat * 32 + t.toNat * 8)
  | .vfscpyn d a b k p t => some (2952790023 + d.toNat * 1048576 + a.toNat * 16384 + b.toNat * 256 + k.toNat * 64 + p.toNat * 32 + t.toNat * 8)
  | .vfma d a b k p t => some (3019898880 + d.toNat * 1048576 + a.toNat * 16384 + b.toNat * 256 + k.toNat * 64 + p.toNat * 32 + t.toNat * 8)
  | .vfms d a b k p t => some (3019898881 + d.toNat * 1048576 + a.toNat * 16384 + b.toNat * 256 + k.toNat * 64 + p.toNat * 32 + t.toNat * 8)
  | .vfnma d a b k p t => some (3019898882 + d.toNat * 1048576 + a.toNat * 16384 + b.toNat * 256 + k.toNat * 64 + p.toNat * 32 + t.toNat * 8)
  | .vfnms d a b k p t => some (3019898883 + d.toNat * 1048576 + a.toNat * 16384 + b.toNat * 256 + k.toNat * 64 + p.toNat * 32 + t.toNat * 8)
  | .vfsqrt d a k p t => some (3019898884 + d.toNat * 1048576 + a.toNat * 16384 + k.toNat * 64 + p.toNat * 32 + t.toNat * 8)
  | .vfrnd d a k p t => some (3019898885 + d.toNat * 1048576 + a.toNat * 16384 + k.toNat * 64 + p.toNat * 32 + t.toNat * 8)
  | .vfclass d a k p t => some (3019898886 + d.toNat * 1048576 + a.toNat * 16384 + k.toNat * 64 + p.toNat * 32 + t.toNat * 8)
  | .vftailr d a k p t => some (3019898887 + d.toNat * 1048576 + a.toNat * 16384 + k.toNat * 64 + p.toNat * 32 + t.toNat * 8)
  | .vftailw d a k p t => some (3019899143 + d.toNat * 1048576 + a.toNat * 16384 + k.toNat * 64 + p.toNat * 32 + t.toNat * 8)
  | .vfeq d a b k p t => some (3087007744 + d.toNat * 1048576 + a.toNat * 16384 + b.toNat * 256 + k.toNat * 64 + p.toNat * 32 + t.toNat * 8)
  | .vflt d a b k p t => some (3087007745 + d.toNat * 1048576 + a.toNat * 16384 + b.toNat * 256 + k.toNat * 64 + p.toNat * 32 + t.toNat * 8)
  | .vfle d a b k p t => some (3087007746 + d.toNat * 1048576 + a.toNat * 16384 + b.toNat * 256 + k.toNat * 64 + p.toNat * 32 + t.toNat * 8)
  | .vfunord d a b k p t => some (3087007747 + d.toNat * 1048576 + a.toNat * 16384 + b.toNat * 256 + k.toNat * 64 + p.toNat * 32 + t.toNat * 8)
  | .vfeqx d a b k p t => some (3087007748 + d.toNat * 1048576 + a.toNat * 16384 + b.toNat * 256 + k.toNat * 64 + p.toNat * 32 + t.toNat * 8)
  | .vfltx d a b k p t => some (3087007749 + d.toNat * 1048576 + a.toNat * 16384 + b.toNat * 256 + k.toNat * 64 + p.toNat * 32 + t.toNat * 8)
  | .vflex d a b k p t => some (3087007750 + d.toNat * 1048576 + a.toNat * 16384 + b.toNat * 256 + k.toNat * 64 + p.toNat * 32 + t.toNat * 8)
  | .vfne d a b k p t => some (3087007751 + d.toNat * 1048576 + a.toNat * 16384 + b.toNat * 256 + k.toNat * 64 + p.toNat * 32 + t.toNat * 8)
  | .vfcvt d a k p s t m => some (3154116608 + d.toNat * 1048576 + a.toNat * 16384 + k.toNat * 4096 + p.toNat * 2048 + s.toNat * 128 + t.toNat * 8 + m.toNat)
  | .vfexp2 d a k p t => some (3221225472 + d.toNat * 1048576 + a.toNat * 16384 + k.toNat * 64 + p.toNat * 32 + t.toNat * 8)
  | .vflog2 d a k p t => some (3221225473 + d.toNat * 1048576 + a.toNat * 16384 + k.toNat * 64 + p.toNat * 32 + t.toNat * 8)
  | .vfsinpi d a k p t => some (3221225474 + d.toNat * 1048576 + a.toNat * 16384 + k.toNat * 64 + p.toNat * 32 + t.toNat * 8)
  | .vfcospi d a k p t => some (3221225475 + d.toNat * 1048576 + a.toNat * 16384 + k.toNat * 64 + p.toNat * 32 + t.toNat * 8)
  | .vfrsqrt d a k p t => some (3221225476 + d.toNat * 1048576 + a.toNat * 16384 + k.toNat * 64 + p.toNat * 32 + t.toNat * 8)
  | .vftanh d a k p t => some (3221225477 + d.toNat * 1048576 + a.toNat * 16384 + k.toNat * 64 + p.toNat * 32 + t.toNat * 8)
  | .fadd d a b t => some (3288334336 + d.toNat * 1048576 + a.toNat * 16384 + b.toNat * 256 + t.toNat * 64)
  | .fsub d a b t => some (3288334337 + d.toNat * 1048576 + a.toNat * 16384 + b.toNat * 256 + t.toNat * 64)
  | .fmul d a b t => some (3288334338 + d.toNat * 1048576 + a.toNat * 16384 + b.toNat * 256 + t.toNat * 64)
  | .fdiv d a b t => some (3288334339 + d.toNat * 1048576 + a.toNat * 16384 + b.toNat * 256 + t.toNat * 64)
  | .fsqrt d a t => some (3288334340 + d.toNat * 1048576 + a.toNat * 16384 + t.toNat * 64)
  | .fmin d a b t => some (3288334341 + d.toNat * 1048576 + a.toNat * 16384 + b.toNat * 256 + t.toNat * 64)
  | .fmax d a b t => some (3288334342 + d.toNat * 1048576 + a.toNat * 16384 + b.toNat * 256 + t.toNat * 64)
  | .fscpy d a b t => some (3288334343 + d.toNat * 1048576 + a.toNat * 16384 + b.toNat * 256 + t.toNat * 64)
  | .fscpyn d a b t => some (3288334344 + d.toNat * 1048576 + a.toNat * 16384 + b.toNat * 256 + t.toNat * 64)
  | .fsxor d a b t => some (3288334345 + d.toNat * 1048576 + a.toNat * 16384 + b.toNat * 256 + t.toNat * 64)
  | .fma d a b t => some (3288334346 + d.toNat * 1048576 + a.toNat * 16384 + b.toNat * 256 + t.toNat * 64)
  | .fms d a b t => some (3288334347 + d.toNat * 1048576 + a.toNat * 16384 + b.toNat * 256 + t.toNat * 64)
  | .fnma d a b t => some (3288334348 + d.toNat * 1048576 + a.toNat * 16384 + b.toNat * 256 + t.toNat * 64)
  | .fnms d a b t => some (3288334349 + d.toNat * 1048576 + a.toNat * 16384 + b.toNat * 256 + t.toNat * 64)
  | .feq d a b t => some (3288334350 + d.toNat * 1048576 + a.toNat * 16384 + b.toNat * 256 + t.toNat * 64)
  | .flt d a b t => some (3288334351 + d.toNat * 1048576 + a.toNat * 16384 + b.toNat * 256 + t.toNat * 64)
  | .fle d a b t => some (3288334352 + d.toNat * 1048576 + a.toNat * 16384 + b.toNat * 256 + t.toNat * 64)
  | .funord d a b t => some (3288334353 + d.toNat * 1048576 + a.toNat * 16384 + b.toNat * 256 + t.toNat * 64)
  | .feqx d a b t => some (3288334354 + d.toNat * 1048576 + a.toNat * 16384 + b.toNat * 256 + t.toNat * 64)
  | .fltx d a b t => some (3288334355 + d.toNat * 1048576 + a.toNat * 16384 + b.toNat * 256 + t.toNat * 64)
  | .flex d a b t => some (3288334356 + d.toNat * 1048576 + a.toNat * 16384 + b.toNat * 256 + t.toNat * 64)
  | .fclass d a t => some (3288334357 + d.toNat * 1048576 + a.toNat * 16384 + t.toNat * 64)
  | .frnd d a t => some (3288334358 + d.toNat * 1048576 + a.toNat * 16384 + t.toNat * 64)
  | .fmvx d a t => some (3288334359 + d.toNat * 1048576 + a.toNat * 16384 + t.toNat * 64)
  | .fmvf d a t => some (3288334360 + d.toNat * 1048576 + a.toNat * 16384 + t.toNat * 64)
  | .ftailr d a => some (3288334361 + d.toNat * 1048576 + a.toNat * 16384)
  | .ftailw d a => some (3288334362 + d.toNat * 1048576 + a.toNat * 16384)
  | .fexp2 d a t => some (3288334363 + d.toNat * 1048576 + a.toNat * 16384 + t.toNat * 64)
  | .flog2 d a t => some (3288334364 + d.toNat * 1048576 + a.toNat * 16384 + t.toNat * 64)
  | .fsinpi d a t => some (3288334365 + d.toNat * 1048576 + a.toNat * 16384 + t.toNat * 64)
  | .fcospi d a t => some (3288334366 + d.toNat * 1048576 + a.toNat * 16384 + t.toNat * 64)
  | .frsqrt d a t => some (3288334367 + d.toNat * 1048576 + a.toNat * 16384 + t.toNat * 64)
  | .ftanh d a t => some (3288334368 + d.toNat * 1048576 + a.toNat * 16384 + t.toNat * 64)
  | .fcvt d a s t m => some (3355443200 + d.toNat * 1048576 + a.toNat * 16384 + s.toNat * 1024 + t.toNat * 64 + m.toNat * 8)
  | .tcfg d a => some (3422552064 + d.toNat * 1048576 + a.toNat * 16384)
  | .tzero d => some (3422552065 + d.toNat * 1048576)
  | .tld d a b => some (3422552066 + d.toNat * 1048576 + a.toNat * 16384 + b.toNat * 256)
  | .tst d a b => some (3422552067 + d.toNat * 1048576 + a.toNat * 16384 + b.toNat * 256)
  | .tldbp d a b => some (3422552068 + d.toNat * 1048576 + a.toNat * 16384 + b.toNat * 256)
  | .tldmx d a b => some (3422552069 + d.toNat * 1048576 + a.toNat * 16384 + b.toNat * 256)
  | .mma d a b => some (3422552070 + d.toNat * 1048576 + a.toNat * 16384 + b.toNat * 256)
  | .tcvt d a m => some (3422552071 + d.toNat * 1048576 + a.toNat * 16384 + m.toNat * 256)
  | .tmov d a => some (3422552072 + d.toNat * 1048576 + a.toNat * 16384)
  | .tget d a b => some (3422552073 + d.toNat * 1048576 + a.toNat * 16384 + b.toNat * 256)
  | .tset d a b => some (3422552074 + d.toNat * 1048576 + a.toNat * 16384 + b.toNat * 256)
  | .geom d a b => some (3422552075 + d.toNat * 1048576 + a.toNat * 16384 + b.toNat * 256)
  | .mms d a => some (3422552076 + d.toNat * 1048576 + a.toNat * 16384)
  | .fwait d a => some (3489660928 + d.toNat * 1048576 + a.toNat * 16384)
  | .ftest d a f => some (3489660929 + d.toNat * 1048576 + a.toNat * 16384 + f.toNat * 256)
  | .fcancel d a f => some (3489660930 + d.toNat * 1048576 + a.toNat * 16384 + f.toNat * 256)
  | .fhandle d a f => some (3489660931 + d.toNat * 1048576 + a.toNat * 16384 + f.toNat * 256)
  | .cpy d a => some (3489660932 + d.toNat * 1048576 + a.toNat * 16384)
  | .cpy2d d a => some (3489660933 + d.toNat * 1048576 + a.toNat * 16384)
  | .cpym d a => some (3489660934 + d.toNat * 1048576 + a.toNat * 16384)
  | .cpyr d a => some (3489660935 + d.toNat * 1048576 + a.toNat * 16384)
  | .evwait d a b => some (3489660936 + d.toNat * 1048576 + a.toNat * 16384 + b.toNat * 256)
  | .evpop d a => some (3489660937 + d.toNat * 1048576 + a.toNat * 16384)
  | .evpost a b => some (3489660938 + a.toNat * 16384 + b.toNat * 256)
  | .chsend d a b => some (3489660939 + d.toNat * 1048576 + a.toNat * 16384 + b.toNat * 256)
  | .chrecv d a b => some (3489660940 + d.toNat * 1048576 + a.toNat * 16384 + b.toNat * 256)
  | .chwait d b => some (3489660941 + d.toNat * 1048576 + b.toNat * 256)
  | .chadv d b => some (3489660942 + d.toNat * 1048576 + b.toNat * 256)
  | .wdq d a => some (3489660943 + d.toNat * 1048576 + a.toNat * 16384)
  | .submit d a b => some (3489660944 + d.toNat * 1048576 + a.toNat * 16384 + b.toNat * 256)
  | .bari a b => some (3556769792 + a.toNat * 16384 + b.toNat * 256)
  | .barr d a => some (3556769793 + d.toNat * 1048576 + a.toNat * 16384)
  | .bard d a => some (3556769794 + d.toNat * 1048576 + a.toNat * 16384)
  | .joinc d => some (3556769795 + d.toNat * 1048576)
  | .ccnt d a b => some (3556769796 + d.toNat * 1048576 + a.toNat * 16384 + b.toNat * 256)
  | .cancelCounter d a => some (3556769797 + d.toNat * 1048576 + a.toNat * 16384)
  | .movc d i => some (3623878656 + d.toNat * 1048576 + i.toNat)
  | .movtc a i => some (3690987520 + a.toNat * 16384 + i.toNat)
  | .nopHint x => some (4227858432 + x.toNat)
  | .himm i => some (4232052736 + i.toNat)
  | .hmod e k s h g q v t w => some (4236247040 + e.toNat * 1048576 + k.toNat * 524288 + s.toNat * 65536 + h.toNat * 32768 + g.toNat * 16384 + q.toNat * 4096 + v.toNat * 2048 + t.toNat * 1024 + w.toNat * 512)
  | .rep n x y z => some (4240441344 + n.toNat * 65536 + x.toNat * 8192 + y.toNat * 1024 + z.toNat * 128)
  | .realign t => some (4244635648 + t.toNat)
  | .hsched p => some (4248829952 + p.toNat)
  | .realignTimeout _ => none
  | .doorbellWrite _ => none
  | .launchPacket _ => none
  | .phaseMark _ => none
  | .successorRelease _ _ _ => none
  | .rollcallStatusWord _ _ _ => none
  | .hostCancel _ => none
  | .sliceExpiry _ _ => none
  | .taskStop _ => none
  | .graceExpiry _ _ => none
  | .taskExitReport _ => none
  | .layerSleep _ => none
  | .layerWake _ => none
  | .bindRecordWrite _ _ _ _ _ _ => none
  | .openLent _ _ _ => none
  | .closeLent _ _ => none
  | .claim _ _ => none
  | .unclaim _ _ _ => none
  | .leaseCmd _ _ _ _ _ => none
  | .releaseCmd _ _ => none
  | .preemptCmd _ _ _ => none
  | .bellpart _ _ _ => none
  | .leaseWalkDone _ _ => none
  | .hostRangeMapped _ _ => none
  | .hostLeaseRefuse _ _ => none
  | .guestPacket _ _ => none
  | .guestIssue _ => none
  | .guestAgeing _ => none
  | .resultPacket _ => none
  | .copyComplete _ _ => none
  | .copyEventRecord _ _ => none
  | .matrixCommandStart _ => none
  | .mcqAgeing _ => none
  | .mcqOvertake _ => none
  | .mcqMigrate _ _ => none
  | .mmsSplitHalf _ => none
  | .mmsComplete _ => none
  | .channelReserve _ _ => none
  | .channelSlotFilled _ _ _ => none
  | .wdqRequest _ _ => none
  | .confluenceContribution _ _ => none
  | .bellSlot _ => none
  | .bellFrameBoundary _ => none
  | .gets _ => none
  | .geto _ _ => none
  | .geti _ => none
  | .getu _ => none
  | .wrm _ _ _ => none
  | .amoh _ _ _ _ _ _ => none
  | .puto _ _ => none
  | .putb _ _ _ => none
  | .lostMsg _ => none
  | .invMsg _ => none
  | .recallMsg _ => none
  | .downMsg _ => none
  | .ackMsg _ _ _ => none
  | .dataMsg _ _ _ _ => none
  | .poisonMsg _ => none
  | .appendArrival _ _ => none
  | .appendWriteDone _ _ => none
  | .sealArrival _ _ => none
  | .pageMigration _ _ _ _ => none
  | .redirect _ => none
  | .hostFree _ _ => none
  | .shootdownMessage _ _ => none
  | .shootdownAck _ _ => none
  | .hostInvalidate _ _ _ => none
  | .hostMemAccess _ _ _ _ => none
  | .hostSnoop _ _ => none
  | .fabricWrite _ _ _ _ _ => none
  | .fabricAck _ _ _ => none
  | .coldStart _ => none
  | .warmStart _ => none
  | .bootTimeout => none
  | .recoveryImageLoad _ _ => none
  | .getVersion => none
  | .getCapabilities => none
  | .negotiateAlgorithms _ _ => none
  | .getDigests => none
  | .getCertificate _ _ => none
  | .spdmChallenge _ => none
  | .getMeasurements _ => none
  | .powerCapSet _ _ => none
  | .thermalThrottle _ _ => none
  | .thermalShutdown _ _ => none
  | .uncorrectableError _ => none
  | .firmwareMailboxSend _ _ _ => none
  | .queueTableWrite _ _ _ => none
  | .counterEntryWrite _ _ _ => none
  | .belltabWrite _ _ _ => none
  | .confluenceTableWrite _ _ => none
  | .perfSelectWrite _ _ _ => none
  | .hostRegisterWrite _ _ _ => none
  | .hostevRecordAccept _ _ => none
  | .softErrorCorrected _ => none
  | .flitRetry _ => none
  | .linkUncorrectableError _ => none
  | .powerCapEnforcement _ => none

/-- The 32-bit word of an instruction. -/
def encode (i : Instr) : Option (BitVec 32) := (encodeNat i).map (BitVec.ofNat 32)

/-- A hint of kind 0 or of a reserved kind ignores its payload (R62, R69). -/
def isNopHint : Instr → Bool
  | .nopHint _ => true
  | _ => false

/-- Decoding of a word: the instruction, or the check of R69 that it breaks. -/
noncomputable def decodeWord (w : BitVec 32) : Except DecodeError Instr :=
  match decodeRaw w.toNat with
  | .error e => .error e
  | .ok i =>
    if isNopHint i || encodeNat i == some w.toNat then
      match i.check with
      | none => .ok i
      | some e => .error e
    else .error .reservedBits

/-- The little-endian word of four bytes (R49). -/
def wordOfBytes (b0 b1 b2 b3 : Byte) : BitVec 32 :=
  BitVec.ofNat 32 (b0.toNat + b1.toNat * 256 + b2.toNat * 65536 + b3.toNat * 16777216)

/-- Decoding of the first instruction of a byte list, with the bytes that follow it. -/
noncomputable def decodeBytes : List Byte → Option (Except DecodeError Instr × List Byte)
  | b0 :: b1 :: b2 :: b3 :: r => some (decodeWord (wordOfBytes b0 b1 b2 b3), r)
  | _ => none

/-- The instruction whose bits are `w`, numbered as the opcode table numbers them: the four bytes in the order the
hardware stores them, given to the decoder. -/
noncomputable def decodeTableWord (nbits w : Nat) : Option Instr :=
  let v := w % 2 ^ nbits
  match decodeBytes [BitVec.ofNat 8 v, BitVec.ofNat 8 (v / 256), BitVec.ofNat 8 (v / 65536), BitVec.ofNat 8 (v / 16777216)] with
  | some (.ok i, _) => some i
  | _ => none

end Sys2Proof
end

