-- ==== Sys2Proof/Config.lean ====
section
/-! DEFINITION. What an implementation fixes, and the free values of the model: opaque, so that no proof can see them. -/

namespace Sys2Proof

/-- A value the spec leaves open, drawn afresh with each number (R46, R341: the destination of a cancelled or overlapping
engine command). Log entry 6. -/
opaque Config.freeByte : Nat → BitVec 8

/-- A choice the spec leaves to the device, drawn afresh with each number. Log entry 6. -/
opaque Config.freeBool : Nat → Bool

/-- A transcendental's correctly rounded result where the model's interval arithmetic does not separate the two
candidates within its precision (R174). It is a function of the operation, the format and the operand. Log entry 9. -/
opaque Config.hardCase : Nat → Nat → Nat → Bool

/-- The contents of an attestation reply (R417): certificates and signatures, which the spec does not give.
Log entry 10. -/
opaque Config.attest : Nat → BitVec 384

/-- The digest of a measured object (R417): of the fused configuration and of the boundary filter, whose form as bytes the spec
does not give. Log entry 10. -/
opaque Config.digestOf : List Nat → BitVec 384

/-- The number that names a unit in a machine-check event (R421), which the spec does not give: of a core, by its index, of the
host's agent and of the fabric, by the next two. Log entry 116. -/
opaque Config.unitNo : Nat → BitVec 16

end Sys2Proof
end

