-- ==== Sys2Proof/Machine/State.lean ====
section
/-! DEFINITION. The state of the module as plain data: threads, memories, queues, tables, counters, boundary. -/

namespace Sys2Proof.Machine

/-- Why a step stops. Every trap and fatal fault of the spec is a next state (R394, R399), so one case is left: a host
access where nothing lies. -/
inductive Fault
  /-- Raised by HOST_MEM_ACCESS at a physical address that R211 reserves (safe): nothing lies there. Threads and engines
  never reach one, since every translation refuses it first (R214). -/
  | reservedPhysical (pa : Nat)
  deriving DecidableEq, Repr

/-- Why a step gives no next state. -/
inductive Refusal
  /-- An arm of `exec` that has no meaning yet (safe): raised by Dispatch only. -/
  | notModelled (mnemonic : String)
  deriving DecidableEq, Repr

/-- The destination of an asynchronous operation (R108); a pair is the two registers of CAS2 and SWAP2 (R251). -/
inductive Dst
  | none
  | s (n : BitVec 6)
  | pair (n : BitVec 6)
  | v (n : BitVec 6)
  deriving DecidableEq, Repr

/-- What an outstanding operation is (R335), with what its later events need. -/
inductive OpKind
  | ship (p : GuestPkt)
  | mms (native : Bool)
  | copy (fn : BitVec 2) (desc : VReg) (rm : BitVec 3) (enables : BitVec 5)
  | evwait (q : BitVec 3) (n : Nat)
  | chsend (ch : BitVec 2) (src : Word) (res : Option (BitVec 32))
  | chrecv (ch : BitVec 2) (dst : Word) (k : Nat)
  | chwait (ch : BitVec 2) (n : Nat)
  | wdq (addr : Word)
  | submit (q : BitVec 8) (res : Word) (addr : Word) (n : Nat)
  | append (ea : Word) (page : BitVec 36) (data : List Byte)
  | sealOp (ea : Word) (page : BitVec 36) (pte : BitVec 52)
  | range (lines : List (BitVec 52 × Word))
  | bamo
  | free (page : BitVec 36) (pte : BitVec 52)
  | hostev (w0 : Word)
  | ccnt (cid : BitVec 12) (progress : Bool)
  deriving DecidableEq, Repr

/-- One of a thread's at most 32 outstanding operations (R108, R305, R335). A register is pending when an operation
names it here. `ea`, `tpc`, `insn` and `repleft` are those of the issuing group, for a cause it may return. -/
structure Op where
  gen : OpId
  seq : BitVec 16
  dst : Dst
  scope : BitVec 3
  kind : OpKind
  tpc : Word
  insn : BitVec 32
  repleft : BitVec 7
  instret : Word
  trapcap : Bool
  shadow : Bool
  deriving DecidableEq, Repr

/-- A refused append or confluence contribution whose cause is still to be raised (R254, R344). -/
structure Refused where
  gen : OpId
  dst : Dst
  cause : BitVec 7
  tval : Word
  deriving DecidableEq, Repr

/-- One region bound to a synchronisation object (R264). -/
structure Binding where
  obj : Word
  base : BitVec 48
  count : BitVec 16
  deriving DecidableEq, Repr

/-- The prefix words of the group being issued (R62 to R67): the first word's address, the payloads of REP, HIMM and HMOD, and
whether a repeat of its instruction has retired. -/
structure Pfx where
  start : Word
  rep : Option (BitVec 22)
  himm : Option (BitVec 22)
  hmod : Option (BitVec 22)
  begun : Bool
  deriving DecidableEq, Repr

/-- An instruction of a native thread that waits for a pending register while younger ones go on (R108): the word it executes
and its prefixes. -/
structure Parked where
  word : BitVec 32
  pfx : Option Pfx
  deriving DecidableEq, Repr

/-- What an undo-log entry restores (R315). -/
inductive Saved
  | s (n : BitVec 6) (r : SReg)
  | v (n : BitVec 6) (r : VReg)
  | ctl (n : BitVec 14) (w : Word)
  | tc (n : BitVec 4) (w : Word)
  deriving DecidableEq, Repr

/-- One undo-log entry, with the ship sequence of the youngest older trap-capable instruction (R315, R316). -/
structure Undo where
  tag : BitVec 16
  old : Saved
  deriving DecidableEq, Repr

/-- Where a checked unit of an access lies: the key of its first byte (a physical address, or a stash key), its size, the
page class (0 to 6; 7 the stash, 8 the argument window), the page's home die, the request type and the address it was
reached at. -/
structure Place where
  key : Nat
  n : Nat
  cls : BitVec 4
  home : BitVec 6
  rq : BitVec 2
  va : Word
  deriving DecidableEq, Repr

/-- A store that is issued and not yet performed: the units it will write, and the group that issued it. It is held in
shadow (R315), or on its way to its home (R270, R273). `one` says that its units are one request (R296); `mark` counts the undo
entries of its tag that are older (R391). -/
structure HeldStore where
  tag : BitVec 16
  writes : List (Place × List Byte)
  tpc : Word
  insn : BitVec 32
  repleft : BitVec 7
  one : Bool
  mark : Nat
  deriving DecidableEq, Repr

/-- A synchronous fault held in shadow (R393), or any cause on its way to delivery. -/
structure Cause where
  code : BitVec 7
  tval : Word
  remote : Bool
  seq : BitVec 16
  tpc : Word
  insn : BitVec 32
  repleft : BitVec 7
  deriving DecidableEq, Repr

/-- A lease comparator (R361, R213). -/
structure LeaseC where
  base : BitVec 48
  len : BitVec 40
  r : Bool
  w : Bool
  deriving DecidableEq, Repr

/-- A barrier cell's name: the level, the holder and the index (R377). -/
inductive CellId
  | cls (die : BitVec 6) (c : BitVec 4) (i : BitVec 4)
  | bpair (die : BitVec 6) (quad : BitVec 2) (i : BitVec 4)
  | die (die : BitVec 6) (i : BitVec 6)
  | stack (die : BitVec 6) (i : BitVec 5)
  | master (st : BitVec 3) (i : BitVec 5)
  deriving DecidableEq, Repr

/-- What stops a thread's issue beyond its pending registers. -/
inductive Wait
  | none
  /-- Stopped at a REALIGN hint (R41): its pc, its timeout and the cycle it stopped in. -/
  | realign (pc : Word) (t : BitVec 16) (since : Nat)
  /-- Waiting in BARR for the phase to change (R379). -/
  | barr (c : CellId) (phase : BitVec 32) (d : BitVec 6)
  /-- Waiting for a stack barrier beat to be applied (R380). -/
  | beat (d : BitVec 6)
  /-- Waiting in FWAIT for a generation of another thread (R339). -/
  | fwait (d : BitVec 6) (owner : BitVec 17) (gen : OpId) (dst : Dst)
  /-- A native thread at an MMS whose trap window lasts until the command of this generation ends (R207). -/
  | mms (gen : OpId)
  /-- At a YIELD boundary: its operations drain before the stop, which keeps this value (R43, R141). -/
  | stopping (value : Word)
  /-- Stopped; waits for the other tasks of its gang (R43). -/
  | stopped
  /-- EXIT retired its checks and waits for its report (R142). -/
  | exiting
  /-- A participant of a fork that a fatal fault in another one has ended: it reports nothing (R39). -/
  | dropped
  /-- A fatal cause ended the task: the word it will report (R399). -/
  | faulted (word : Word)
  /-- Cancelled: the word it will report (R46). -/
  | cancelled (word : Word)
  deriving DecidableEq, Repr

/-- Fork membership (R381): the join cell's class and index, and the participant's number. -/
structure Fork where
  die : BitVec 6
  pool : BitVec 5
  cell : BitVec 4
  part : BitVec 7
  deriving DecidableEq, Repr

/-- One hardware thread with a bound task, and everything R105 to R119 and the later chapters give it. `unseen` are the
registers whose last fill acts as an acquire that the thread has still to observe (R281). -/
structure Thread where
  live : Bool
  hwid : BitVec 17
  s : Vector SReg 64
  v : Vector VReg 48
  tileTC : Vector Word 16
  tileData : Vector (BitVec 32768) 16
  tileScale : Vector (BitVec 1024) 16
  pc : Word
  fcsr : Word
  lb : Vector Word 4
  le : Vector Word 4
  ln : Vector Word 4
  ldepth : Word
  tvec : Word
  tpc : Word
  tcause : Word
  tval : Word
  tseq : Word
  repleft : Word
  valid : Word
  tsave : Vector Word 4
  taskid : Word
  gangid : Word
  launchid : Word
  geomdim : Word
  geompos : Word
  argp : Word
  instret : Word
  poolb1 : Word
  poolb2 : Word
  poolb3 : Word
  shipto : Word
  lrec : BitVec 16
  priv : Bool
  part : BitVec 4
  prio : BitVec 2
  grant : BitVec 3
  leases : List LeaseC
  shipSeq : BitVec 16
  opGen : OpId
  ops : List Op
  refused : List Refused
  unseen : List Dst
  bindings : List Binding
  pfx : Option Pfx
  parked : List Parked
  undo : List Undo
  held : List HeldStore
  buf : List HeldStore
  lag : Bool
  heldRes : List ResultPkt
  heldFault : Option Cause
  fork : Option Fork
  innerFork : BitVec 16
  wait : Wait
  hsched : BitVec 2
  resumeFlags : BitVec 5
  deriving DecidableEq, Repr

/-- A thread slot with no task: every register at its reset value (R34, R110); values the spec leaves to the bind record
are 0 (log entry 2). -/
def Thread.idle (h : BitVec 17) : Thread where
  live := false
  hwid := h
  s := Vector.replicate 64 ⟨0, 0⟩
  v := Vector.replicate 48 ⟨0, 0⟩
  tileTC := Vector.replicate 16 0
  tileData := Vector.replicate 16 0
  tileScale := Vector.replicate 16 0
  pc := 0
  fcsr := 0
  lb := Vector.replicate 4 0
  le := Vector.replicate 4 0
  ln := Vector.replicate 4 0
  ldepth := 0
  tvec := 0
  tpc := 0
  tcause := 0
  tval := 0
  tseq := 0
  repleft := 0
  valid := 0
  tsave := Vector.replicate 4 0
  taskid := 0
  gangid := 0
  launchid := 0
  geomdim := 0
  geompos := 0
  argp := 0
  instret := 0
  poolb1 := 0
  poolb2 := 0
  poolb3 := 0
  shipto := 0
  lrec := 0
  priv := false
  part := 0
  prio := 0
  grant := 0
  leases := []
  shipSeq := 0
  opGen := 0
  ops := []
  refused := []
  unseen := []
  bindings := []
  pfx := none
  parked := []
  undo := []
  held := []
  buf := []
  lag := false
  heldRes := []
  heldFault := none
  fork := none
  innerFork := 0
  wait := .none
  hsched := 0
  resumeFlags := 0

/-- A copy of a line held without a record: the unrecorded .i copies of a class L1 and the constant-cache lines
(R221, R222). `isConst` tells the two apart. -/
structure LineCopy where
  die : BitVec 6
  pool : BitVec 5
  line : BitVec 52
  isConst : Bool
  bytes : BitVec 512
  deriving DecidableEq, Repr

/-- A die's copy of an SWM line with its dirty-byte mask (R225). -/
structure DieCopy where
  die : BitVec 6
  line : BitVec 52
  bytes : BitVec 512
  dirty : BitVec 64
  deriving DecidableEq, Repr

/-- A home directory entry (R290): the fields of one 512-byte region. -/
structure DirEntry where
  region : BitVec 52
  busy : BitVec 8
  owner : BitVec 48
  ls : BitVec 16
  dv : BitVec 64
  deriving DecidableEq, Repr

/-- Who stands behind a request that a home has queued (R295): a thread at its instruction, a store of a thread on its way, an
engine that works for a thread, an event. -/
inductive Waiter
  | core (h : BitVec 17)
  | store (h : BitVec 17)
  | engine (h : BitVec 17)
  | event (e : Instr)
  deriving DecidableEq, Repr

/-- A request in a queue of a home (R216, R295, R303). One with someone behind it is served by the access that made it, when
its turn comes; one with none is served as the message it is (log entry 115). -/
structure HomeReq where
  req : Instr
  who : Option Waiter
  deriving DecidableEq, Repr

/-- A transaction in progress on a line (R294, R295): the request and the dies whose answers are awaited. -/
structure LineTx where
  line : BitVec 52
  req : Instr
  need : BitVec 64
  deriving DecidableEq, Repr

/-- A die filter entry (R291). -/
structure DieFilter where
  die : BitVec 6
  region : BitVec 52
  home : BitVec 6
  l2 : Bool
  bv : BitVec 8
  cv : BitVec 16
  deriving DecidableEq, Repr

/-- A class filter entry (R292), of a class pool (0 to 15) or a B-core pool (16 to 23). -/
structure ClassFilter where
  die : BitVec 6
  pool : BitVec 5
  line : BitVec 52
  stash : Bool
  dirty : Bool
  state : BitVec 2
  core : BitVec 16
  deriving DecidableEq, Repr

/-- An append whose bytes are reserved and not yet performed, and a seal that waits (R228, R230). -/
structure AppendWrite where
  off : BitVec 17
  size : BitVec 7
  performed : Bool
  hwid : BitVec 17
  gen : OpId
  deriving DecidableEq, Repr

/-- The home record of an APPEND or SEALED page (R227), named by bits [51:16] of its frame. -/
structure AppendPage where
  page : BitVec 36
  reserve : BitVec 17
  done : BitVec 17
  isSealed : Bool
  freeing : Option (BitVec 64)
  pte : BitVec 52
  writes : List AppendWrite
  seals : List (BitVec 17 × OpId)
  frees : List (BitVec 17 × OpId)
  queued : List HomeReq
  deriving DecidableEq, Repr

/-- A stash map entry of a pool (R220); the global range is one of the job `asid`. -/
structure StashMap where
  die : BitVec 6
  pool : BitVec 5
  off : BitVec 20
  base : Word
  len : BitVec 32
  asid : BitVec 16
  deriving DecidableEq, Repr

/-- The state of a mapped stash line (R220); a line with no record and inside a map entry is Absent. -/
structure StashLine where
  die : BitVec 6
  pool : BitVec 5
  off : BitVec 20
  dirty : Bool
  deriving DecidableEq, Repr

/-- The launch that holds a pool (R218). -/
structure PoolUse where
  die : BitVec 6
  pool : BitVec 5
  lrec : BitVec 16
  deriving DecidableEq, Repr

/-- A TLB (R365): the instruction and the data TLB of a core (R13), and the L2 TLB of a pool. -/
inductive TlbUnit
  | instr (core : BitVec 15)
  | data (core : BitVec 15)
  | l2 (die : BitVec 6) (pool : BitVec 5)
  deriving DecidableEq, Repr

/-- A cached translation (R365). -/
structure Tlb where
  unit : TlbUnit
  asid : BitVec 16
  va : BitVec 48
  size : BitVec 31
  leaf : Word
  leafPA : BitVec 52
  deriving DecidableEq, Repr

/-- A 32-byte block of a class I-cache (R40, R144). -/
structure IBlock where
  die : BitVec 6
  pool : BitVec 5
  pa : BitVec 52
  bytes : BitVec 256
  deriving DecidableEq, Repr

/-- A page being moved (R216): old frame, new frame, its 64 KiB pages, new home, the requests that wait, in their order, and
whether the frame has been copied: until then they stand at the old home, after it they are forwarded. -/
structure Migration where
  page : BitVec 36
  frame : BitVec 36
  pages : Nat
  home : BitVec 6
  queued : List HomeReq
  moved : Bool
  deriving DecidableEq, Repr

/-- One entry of a guest issue queue (R310). -/
structure GuestEntry where
  pkt : GuestPkt
  level : BitVec 2
  since : Nat
  deriving DecidableEq, Repr

/-- A copy-queue entry (R317): the command's operation, its issuer, whether it has filled its future and waits to place
its record (R319); of a fabric copy the acknowledgements still to come and whether one was a refusal (R411). -/
structure CopyEntry where
  hwid : BitVec 17
  gen : OpId
  who : BitVec 17
  fn : BitVec 2
  status : Option Word
  desc : VReg
  acks : Option Nat
  refused : Bool
  deriving DecidableEq, Repr

/-- An entry of a matrix command queue (R320 to R322): the command, its snapshot and its level. `no` is its place in the
queue's acceptance order, `since` the cycle its present wait began and `waited` its earlier waits. `half` marks the high
half of a split command; `sent` and `halfDone` say, in the command itself, that the half was sent and has ended (R206).
`ran` are the B-cores that have begun it, `halfRan` those that ran its high half (R103, R208). `dead` marks a command whose
task has ended (R46). -/
structure McqEntry where
  hwid : BitVec 17
  gen : OpId
  seq : BitVec 16
  native : Bool
  asid : BitVec 16
  lrec : BitVec 16
  block : List Word
  rm : BitVec 3
  enables : BitVec 5
  prio : BitVec 2
  level : BitVec 2
  no : Nat
  since : Nat
  waited : Nat
  ran : List (BitVec 9)
  halfRan : List (BitVec 9)
  half : Bool
  sent : Bool
  halfDone : Bool
  overtaken : Option (BitVec 3)
  moved : Bool
  dead : Bool
  tpc : Word
  insn : BitVec 32
  deriving DecidableEq, Repr

/-- The units of one B-core that hold state (R119, R310, R320, R322). -/
structure BCore where
  gshare : BitVec 5
  guests : List GuestEntry
  mcq : List McqEntry
  running : Option McqEntry
  next : Nat
  migrate : Bool
  deriving DecidableEq, Repr

/-- A guest tile slot of a B-core granted to a thread (R187). -/
structure GuestTile where
  hwid : BitVec 17
  idx : BitVec 3
  tc : Word
  data : BitVec 32768
  scale : BitVec 1024
  deriving DecidableEq, Repr

/-- A record of an event queue (R323), with the scope of the command it reports (R345). -/
structure EvRec where
  status : Word
  hwid : BitVec 17
  kind : BitVec 4
  tag : BitVec 16
  scope : BitVec 3
  deriving DecidableEq, Repr

/-- A channel's counters and the sends that wait or are being filled (R324). -/
structure Channel where
  lrec : BitVec 16
  ch : BitVec 2
  wr : BitVec 32
  fl : BitVec 32
  rd : BitVec 32
  filled : List (BitVec 32)
  waiting : List (BitVec 17 × OpId)
  deriving DecidableEq, Repr

/-- One contribution held by a confluence engine (R330). -/
structure Contribution where
  hwid : BitVec 17
  gen : OpId
  bytes : List Byte
  dst : Word
  deriving DecidableEq, Repr

/-- A group of a confluence engine (R330), engine = 4 x stack + column. -/
structure Group where
  engine : BitVec 5
  key : BitVec 16
  count : BitVec 32
  index : BitVec 8
  entry : BitVec 16
  rm : BitVec 3
  parts : List Contribution
  deriving DecidableEq, Repr

/-- A beat of the bell (R327), with the thread that waits for it and the barrier owner it travels with. -/
structure Beat where
  op : BitVec 4
  die : BitVec 6
  word : BitVec 17
  value : Word
  hwid : BitVec 17
  gen : OpId
  owner : BitVec 28
  deriving DecidableEq, Repr

/-- A bell send queue (R328). -/
structure BellQueue where
  die : BitVec 6
  part : BitVec 4
  beats : List Beat
  deriving DecidableEq, Repr

/-- A beat that a layer has heard and that its mirror has still to apply (R234, R282). -/
structure MirrorWrite where
  die : BitVec 6
  beat : Beat
  deriving DecidableEq, Repr

/-- A successor that has reserved its slot of a job queue and waits for it (R31, R326). -/
structure Release where
  asid : BitVec 16
  handle : Word
  q : BitVec 8
  index : Word
  deriving DecidableEq, Repr

/-- The queue reader's state of one job queue (R326, R30): the CPHASE of its latest accepted mark, the phase before it,
and whether a packet behind the mark has still to wait for that one's launches. -/
structure Reader where
  q : BitVec 8
  awake : Bool
  phase : BitVec 12
  prev : BitVec 12
  gate : Bool
  deriving DecidableEq, Repr

/-- The resume record of one task (R404). -/
structure Resume where
  task : BitVec 7
  value : Word
  state : BitVec 2
  flags : BitVec 5
  deriving DecidableEq, Repr

/-- Where a gang stands in its launch (R355). -/
inductive GangState
  | fresh
  | claimed (die : BitVec 6)
  | reentered
  | ended
  | dropped
  deriving DecidableEq, Repr

/-- A gang of a launch: claim state, resume records, pre-emption request (cycle raised), cycle its slice began. -/
structure Gang where
  idx : BitVec 24
  state : GangState
  resume : List Resume
  preempt : Option Nat
  started : Option Nat
  deriving DecidableEq, Repr

/-- A launch record of the launch area (R353, R400): the packet's words as accepted, the queue they came by, and what the
launch has become. -/
structure Launch where
  lrec : BitVec 16
  q : BitVec 8
  asid : BitVec 16
  part : BitVec 4
  priv : Bool
  die : BitVec 6
  packet : List Word
  args : List Word
  disp : BitVec 32
  nextGang : BitVec 24
  gangs : List Gang
  canc : Bool
  live : Bool
  fcount : BitVec 24
  faults : List (List Word)
  deriving DecidableEq, Repr

/-- The state of a timetable slot (R356). -/
inductive SlotState
  | free
  | pending
  | rejected
  | running
  | stopping
  deriving DecidableEq, Repr

/-- A timetable slot with its bind record (R356, R357); a slot with no record here is FREE. -/
structure TSlot where
  die : BitVec 6
  slot : BitVec 11
  w0 : Word
  w1 : Word
  w2 : Word
  w3 : Word
  state : SlotState
  reason : BitVec 8
  deriving DecidableEq, Repr

/-- A lease table entry (R361, R362); USERS is what the slots that name it make it. -/
structure LeaseE where
  die : BitVec 6
  entry : BitVec 8
  w0 : Word
  w1 : Word
  w2 : Word
  state : BitVec 3
  deriving DecidableEq, Repr

/-- An open entry of a die's launch table (R354). -/
structure LaunchE where
  die : BitVec 6
  lent : BitVec 6
  lrec : BitVec 16
  deriving DecidableEq, Repr

/-- What a command of a timetable core answered (R355, R360). -/
inductive FwResult
  | done
  | refused
  /-- CLAIM: the gang, with the set of its stopped tasks when it re-enters. -/
  | gang (idx : BitVec 24) (stopped : BitVec 64)
  /-- CLAIM: no gang is left. -/
  | none
  deriving DecidableEq, Repr

/-- A die's timetable core: the REFUSED bit, the firmware events that refused writes have raised, and the status of its last
command (R350, R360). -/
structure Firmware where
  die : BitVec 6
  refused : Bool
  events : Nat
  result : FwResult
  deriving DecidableEq, Repr

/-- A completion counter (R372). -/
structure Counter where
  cid : BitVec 12
  status : Word
  w1 : Word
  w2 : Word
  donecyc : Word
  deriving DecidableEq, Repr

/-- A barrier cell (R378); a cell with no record is FREE. -/
structure Cell where
  id : CellId
  owner : BitVec 28
  expect : BitVec 24
  arrived : BitVec 24
  drops : BitVec 24
  phase : BitVec 32
  drop : List (BitVec 14)
  deriving DecidableEq, Repr

/-- A join cell of a class in use (R381, R39). -/
structure JoinCell where
  die : BitVec 6
  pool : BitVec 5
  cell : BitVec 4
  count : BitVec 7
  parts : BitVec 7
  flags : BitVec 5
  deriving DecidableEq, Repr

/-- A roll-call accumulator, or a word on its way to a node, with the gangs whose tasks it counts (R35, R37). -/
structure RollAcc where
  lrec : BitVec 16
  node : RollNode
  word : Word
  gangs : List (BitVec 24)
  deriving DecidableEq, Repr

/-- The successors that a completed or rejected launch has still to release, in packet order, and its launch counter, whose CCNT
futures fill after them; 0 for none (R31, R374). -/
structure Succs where
  asid : BitVec 16
  doomed : Bool
  handles : List Word
  cid : BitVec 12
  deriving DecidableEq, Repr

/-- What the host asked of the module and was refused (R216, R232, R350, R362). -/
inductive HostOp
  | migrate (asid : BitVec 16) (va : BitVec 48)
  | free (asid : BitVec 16) (va : BitVec 48)
  | write (off : BitVec 52)
  deriving DecidableEq, Repr

/-- What a machine-check event reports (R419 to R421). -/
inductive McKind
  | check
  | poison
  | lost
  | uncorrectable
  deriving DecidableEq, Repr

/-- A machine-check event (R421): the unit, the kind, the physical address, the consumer's ASID and HWID where there is one,
and CYCLE. -/
structure MachineCheck where
  unit : BitVec 16
  kind : McKind
  pa : BitVec 52
  consumer : Option (BitVec 16 × BitVec 17)
  cycle : Word
  deriving DecidableEq, Repr

/-- What an SPDM response says (R417). Digests and certificates are free values (log entry 10). -/
inductive SpdmReply
  | version (major minor : Nat)
  | capabilities (keyExchange sessions : Bool)
  | algorithms (rsapss3072 sha384 : Bool)
  | digests (d : List (BitVec 384))
  | certificate (off len : BitVec 16) (d : BitVec 384)
  | challengeAuth (nonce : BitVec 256)
  | measurement (index : BitVec 8) (v : BitVec 384)
  | error
  deriving DecidableEq, Repr

/-- What the module has sent to the host driver through the mailbox (R28, R362, R398, R421, R353). -/
inductive Mail
  | rejection (q : BitVec 8) (cid : BitVec 12)
  | residency (die : BitVec 6) (entry : BitVec 8)
  | hostev (w0 w1 : Word)
  | machineCheck (m : MachineCheck)
  | firmware (die : BitVec 6) (msg : BitVec 512)
  | posted (die : BitVec 6) (lrec : BitVec 16)
  | refusal (op : HostOp)
  | read (v : BitVec 512)
  | poisoned
  /-- A read of a register of control space (R407). -/
  | reg (v : Word)
  /-- An attestation response with its two signatures (R416). -/
  | spdm (r : SpdmReply) (rsa slh : BitVec 384)
  deriving DecidableEq, Repr

/-- Power state of a compute layer (R22, R235). -/
inductive LayerState
  | awake
  | waking
  | asleep
  deriving DecidableEq, Repr

/-- A layer that is not awake. -/
structure Layer where
  die : BitVec 6
  state : LayerState
  deriving DecidableEq, Repr

/-- A performance select and count register pair (R386, R387), at its offset in the die's window. -/
structure Perf where
  die : BitVec 6
  off : BitVec 16
  select : Word
  count : Word
  deriving DecidableEq, Repr

/-- A fabric transfer or acknowledgement that left the module (R410, R411). -/
inductive FabricTx
  | write (module : BitVec 12) (va : BitVec 48) (bytes : List Byte) (checks : List (BitVec 16)) (poison : List Bool)
  | answer (module : BitVec 12) (va : BitVec 48) (refused : Bool)
  deriving DecidableEq, Repr

/-- What the fuses hold (R416, R422, R23): the SHA-384 hashes of the two public keys, and the ceilings in W and in steps of
100 MHz. -/
structure Fuses where
  rsaKey : BitVec 384
  slhKey : BitVec 384
  moduleCeil : BitVec 16
  stackCeil : BitVec 16
  clockCeil : BitVec 8
  deriving DecidableEq, Repr

/-- What Dyica is asked for (R424): what a stack draws, the temperature and the clock of a die, the caps in force, the counts of
soft errors of a unit, an event of its log, the count of lost events. -/
inductive PldmItem
  | power (st : BitVec 3)
  | temperature (die : BitVec 6)
  | clock (die : BitVec 6)
  | moduleCap
  | stackCap (st : BitVec 3)
  | clockCap
  | softErrors (unit : BitVec 16) (kind : BitVec 2)
  | event (k : Nat)
  | lostEvents
  deriving DecidableEq, Repr

/-- What Dyica answers (R424): a number, or an event of its log; none for what has not been measured or logged. -/
inductive PldmReply
  | number (n : Option Nat)
  | event (m : Option MachineCheck)
  deriving DecidableEq, Repr

/-- Start, links, power, thermal, filter and management state (R406 to R424). -/
structure Boundary where
  fuses : Fuses
  mailbox : List Host.Cell
  attempts : BitVec 8
  restart : Bool
  trained : Bool
  starting : Bool
  recovery : Bool
  ready : Bool
  shutdown : Bool
  measurements : List (BitVec 384)
  filter : List FilterRule
  moduleNo : BitVec 12
  routes : List (BitVec 12 × BitVec 72)
  imports : List (BitVec 12 × BitVec 16 × BitVec 48 × BitVec 48)
  badLinks : List (BitVec 8)
  moduleCap : BitVec 16
  clockCap : BitVec 8
  stackCap : Vector (BitVec 16) 8
  stackClock : Vector (BitVec 8) 8
  dieClock : List (BitVec 6 × BitVec 8)
  temps : List (BitVec 6 × BitVec 10)
  drawn : List (BitVec 3 × BitVec 16)
  pldm : List PldmReply
  mcLog : List MachineCheck
  mcLost : Nat
  soft : List (BitVec 16 × BitVec 2 × Nat)
  negotiated : Bool
  retries : List (BitVec 7 × Nat)
  fwSend : List (BitVec 6 × Nat)
  fabricOut : List FabricTx
  deriving DecidableEq, Repr

/-- The tables of the module (R350 to R369), every one sparse: an absent entry has its reset contents. -/
structure Tables where
  slots : List TSlot
  launchE : List LaunchE
  leaseE : List LeaseE
  firmware : List Firmware
  asids : List (BitVec 16 × Word × Word)
  parts : List (BitVec 6 × Word × Word)
  belltab : List (BitVec 3 × BitVec 8 × BitVec 16)
  bellPend : List (BitVec 3 × BitVec 8 × BitVec 16 × Bool)
  conf : List (BitVec 8 × BitVec 16)
  mcqmig : List (BitVec 6 × BitVec 2 × BitVec 32)
  queues : List (BitVec 8 × Word × Word)
  frameHome : List (BitVec 24 × BitVec 8)
  deriving DecidableEq, Repr

/-- The memories beside the bytes: copies, directories, page records, maps, cached translations (10, 13). `ports` holds the
rotating pointers of the home slices, by die and slice (die 64 is the agent on base die 0, R409); an absent one is 0 (R299). -/
structure Caches where
  copies : List LineCopy
  dieCopies : List DieCopy
  replicas : List (BitVec 6 × BitVec 52)
  poison : List (BitVec 52)
  badSectors : List (BitVec 52)
  dir : List DirEntry
  txs : List LineTx
  homeQ : List HomeReq
  dieF : List DieFilter
  classF : List ClassFilter
  appendPages : List AppendPage
  stashMaps : List StashMap
  stashLines : List StashLine
  pools : List PoolUse
  tlbs : List Tlb
  iblocks : List IBlock
  migrations : List Migration
  ports : List ((BitVec 7 × BitVec 4) × BitVec 2)
  deriving DecidableEq, Repr

/-- The queues of the module (14). `orphans` are the operations of ended tasks that complete all the same (R46);
`baseQ` the shootdown beats that base dies still have to send (R303). -/
structure Queues where
  bcores : List (BitVec 9 × BCore)
  guestTiles : List GuestTile
  copyQ : List (BitVec 15 × CopyEntry)
  events : List (BitVec 6 × BitVec 5 × BitVec 3 × List EvRec)
  channels : List Channel
  groups : List Group
  bellQ : List BellQueue
  bellSlot : Vector (BitVec 8) 8
  bellFrame : Vector Word 8
  lagging : List (BitVec 6)
  mirrorQ : List MirrorWrite
  baseQ : List (BitVec 3 × BitVec 36)
  readers : List Reader
  releases : List Release
  succs : List Succs
  mail : List Mail
  lastHostev : List (BitVec 17 × Nat)
  orphans : List (OpId × Thread × Op)
  orphanNo : OpId
  deriving DecidableEq, Repr

/-- The counters of the module (17). -/
structure Counters where
  done : List Counter
  cells : List Cell
  joins : List JoinCell
  roll : List RollAcc
  rollSent : List RollAcc
  perf : List Perf
  deriving DecidableEq, Repr

/-- What reaches a home slice at one of its ports (R299, R425): a request, as a coherence message or an access of the host, or the
oldest store of a thread that is on its way. -/
inductive Racer
  | request (e : Instr)
  | store (hwid : BitVec 17)
  deriving DecidableEq, Repr

/-- One thing that comes from outside the running thread, or a choice the spec leaves to the device, as plain data
(log entry 5). -/
inductive Input
  /-- The next thread to issue. -/
  | run (hwid : BitVec 17)
  /-- The k-th internal event in flight happens now. -/
  | deliver (k : Nat)
  /-- A host, firmware, Dyica, fabric or error event, or an internal one the device chooses to make. -/
  | event (e : Instr)
  /-- n periods of the nominal clock pass. -/
  | tick (n : Nat)
  /-- A class I-cache takes in a block. -/
  | icacheFill (die : BitVec 6) (pool : BitVec 5) (pa : BitVec 52)
  /-- A constant cache takes in a line. -/
  | constFill (die : BitVec 6) (pool : BitVec 5) (line : BitVec 52)
  /-- A TLB takes in a translation. -/
  | tlbFill (u : TlbUnit) (asid : BitVec 16) (va : BitVec 48)
  /-- A TLB drops its translation of an address (R365: replacement). -/
  | tlbDrop (u : TlbUnit) (asid : BitVec 16) (va : BitVec 48)
  /-- A die drops its copies of a line: clean ones silently, owned ones by PUTO, its SWM copy with a write-back (R226,
  R298). -/
  | dropCopy (die : BitVec 6) (line : BitVec 52)
  /-- One pool of a die drops its copies of a line (R298). -/
  | dropPool (die : BitVec 6) (pool : BitVec 5) (line : BitVec 52)
  /-- Requests for one line reach its home slice in one cycle, each at one of its four ports (R299). -/
  | race (line : BitVec 52) (requests : List (BitVec 2 × Racer))
  /-- A home reuses the directory entry of a region, a die filter that of a region (R298). -/
  | dirReuse (region : BitVec 52)
  | filterReuse (die : BitVec 6) (region : BitVec 52)
  /-- The stores of a thread come to lag behind it, or no longer do; the oldest of them are performed (R273). -/
  | lag (hwid : BitVec 17) (on : Bool)
  | drain (hwid : BitVec 17)
  /-- A layer's mirror comes to lag behind the slots of the bell, or catches up (R282). -/
  | mirror (die : BitVec 6) (lag : Bool)
  /-- The host driver reads a register of control space, through BAR0 or BAR2 (R407). -/
  | hostRead (reg : BarReg) (size : BitVec 4)
  /-- The host driver writes the module number, the route table and the import table (R411). -/
  | fabric (moduleNo : BitVec 12) (routes : List (BitVec 12 × BitVec 72)) (imports : List (BitVec 12 × BitVec 16 × BitVec 48 × BitVec 48))
  /-- Dyica measures the power that a stack draws, in W, and is asked for something over MCTP (R424). -/
  | power (st : BitVec 3) (watts : BitVec 16)
  | pldm (item : PldmItem)
  deriving DecidableEq, Repr

/-- The state of the module. `th` is the thread that issues next, `others` the other threads with a task. `tape`,
`pending` and `free` are the model's own fields (log entries 5 and 6). -/
structure State where
  th : Thread
  others : List Thread
  mem : List Host.Cell
  caches : Caches
  queues : Queues
  tables : Tables
  counters : Counters
  launches : List Launch
  layers : List Layer
  boundary : Boundary
  cycle : Nat
  tape : List Input
  pending : List Instr
  free : Nat
  deriving DecidableEq, Repr

/-- No copies, no records, no maps (R414). -/
def Caches.empty : Caches where
  copies := []
  dieCopies := []
  replicas := []
  poison := []
  badSectors := []
  dir := []
  txs := []
  homeQ := []
  dieF := []
  classF := []
  appendPages := []
  stashMaps := []
  stashLines := []
  pools := []
  tlbs := []
  iblocks := []
  migrations := []
  ports := []

/-- Empty queues; every frame at frame 0, slot 0 (R414, R327). -/
def Queues.empty : Queues where
  bcores := []
  guestTiles := []
  copyQ := []
  events := []
  channels := []
  groups := []
  bellQ := []
  bellSlot := Vector.replicate 8 0
  bellFrame := Vector.replicate 8 0
  lagging := []
  mirrorQ := []
  baseQ := []
  readers := []
  releases := []
  succs := []
  mail := []
  lastHostev := []
  orphans := []
  orphanNo := 0

/-- The tables at their reset contents (R350): every sparse table empty. -/
def Tables.empty : Tables where
  slots := []
  launchE := []
  leaseE := []
  firmware := []
  asids := []
  parts := []
  belltab := []
  bellPend := []
  conf := []
  mcqmig := []
  queues := []
  frameHome := []

/-- Counters at reset (R372, R378, R387). -/
def Counters.empty : Counters where
  done := []
  cells := []
  joins := []
  roll := []
  rollSent := []
  perf := []

/-- The boundary after a completed start: the attempt counter cleared, the ceilings in force (R413, R415, R422). -/
def Boundary.reset : Boundary where
  fuses := ⟨0, 0, 4800, 520, 27⟩
  mailbox := []
  attempts := 0
  restart := false
  trained := true
  starting := false
  recovery := false
  ready := true
  shutdown := false
  measurements := [0, 0, 0, 0]
  filter := []
  moduleNo := 0
  routes := []
  imports := []
  badLinks := []
  moduleCap := 4800
  clockCap := 27
  stackCap := Vector.replicate 8 520
  stackClock := Vector.replicate 8 27
  dieClock := []
  temps := []
  drawn := []
  pldm := []
  mcLog := []
  mcLost := 0
  soft := []
  negotiated := false
  retries := []
  fwSend := []
  fabricOut := []

/-- The module right after a cold start (R413, R414): no thread bound, every memory and table at its reset contents. -/
def State.reset : State where
  th := Thread.idle 0
  others := []
  mem := []
  caches := Caches.empty
  queues := Queues.empty
  tables := Tables.empty
  counters := Counters.empty
  launches := []
  layers := []
  boundary := Boundary.reset
  cycle := 0
  tape := []
  pending := []
  free := 0

end Sys2Proof.Machine
end

