-- ==== Sys2Proof/Machine/Memory.lean ====
section
/-! DEFINITION. The byte memory in canonical form, and its little-endian accesses (R5, R211, R217, R233).

A key below 2^52 is a physical address. The stash byte at offset `o` of pool `p` of die `d`, and the byte at offset `o` of
a bell window (masters first, then the 64 mirrors), lie at keys of their own above 2^52. -/

namespace Sys2Proof.Machine

/-- What an unlisted byte reads as (log entry 1). -/
def Memory.unlisted : Byte := 0

/-- The form every memory has: keys strictly rising, no entry equal to an unlisted byte. -/
def Memory.wf : List Host.Cell → Bool
  | [] => true
  | [(_, b)] => b != Memory.unlisted
  | (a, b) :: (a', b') :: r => b != Memory.unlisted && decide (a < a') && Memory.wf ((a', b') :: r)

/-- The byte at a key. -/
def Memory.get : List Host.Cell → Nat → Byte
  | [], _ => Memory.unlisted
  | (a, b) :: r, k => if k = a then b else if k < a then Memory.unlisted else Memory.get r k

/-- Write one byte; an unlisted value takes no entry. -/
def Memory.set : List Host.Cell → Nat → Byte → List Host.Cell
  | [], k, v => if v = Memory.unlisted then [] else [(k, v)]
  | (a, b) :: r, k, v =>
    if k < a then (if v = Memory.unlisted then (a, b) :: r else (k, v) :: (a, b) :: r)
    else if k = a then (if v = Memory.unlisted then r else (a, v) :: r)
    else (a, b) :: Memory.set r k v

/-- Write a list of bytes, each at its own key, in order. -/
def Memory.setMany (m : List Host.Cell) : List Host.Cell → List Host.Cell
  | [] => m
  | (k, v) :: r => Memory.setMany (Memory.set m k v) r

/-- The first key of the stash of pool `p` (0 to 23) of die `d` (R217, R219). -/
def stashKey (d : BitVec 6) (p : BitVec 5) (o : Nat) : Nat :=
  2 ^ 52 + (d.toNat * 32 + p.toNat) * 2 ^ 20 + o

/-- The key of a byte of a stack's master bell window (R233). -/
def bellMasterKey (st : BitVec 3) (o : Nat) : Nat := 2 ^ 53 + st.toNat * 2 ^ 20 + o

/-- The key of a byte of a layer's mirror of the bell window (R233). -/
def bellMirrorKey (d : BitVec 6) (o : Nat) : Nat := 2 ^ 53 + (8 + d.toNat) * 2 ^ 20 + o

/-- The little-endian number of a byte list (R5). -/
def natOfBytes : List Byte → Nat
  | [] => 0
  | b :: r => b.toNat + 256 * natOfBytes r

/-- The `n` little-endian bytes of a number (R5). -/
def bytesOfNat : Nat → Nat → List Byte
  | 0, _ => []
  | n + 1, v => BitVec.ofNat 8 v :: bytesOfNat n (v / 256)

/-- The keys `k`, `k + 1`, … of `n` consecutive bytes. -/
def keysFrom (k : Nat) : Nat → List Nat
  | 0 => []
  | n + 1 => k :: keysFrom (k + 1) n

/-- The bytes at a list of keys. -/
def Memory.getMany (m : List Host.Cell) (ks : List Nat) : List Byte := ks.map (Memory.get m)

/-- The number held at `n` consecutive bytes. -/
def Memory.readNat (m : List Host.Cell) (k n : Nat) : Nat := natOfBytes (Memory.getMany m (keysFrom k n))

/-- Write a number to `n` consecutive bytes. -/
def Memory.writeNat (m : List Host.Cell) (k n v : Nat) : List Host.Cell :=
  Memory.setMany m ((keysFrom k n).zip (bytesOfNat n v))

/-- The aligned 8-byte word at a physical address. -/
def Memory.read64 (m : List Host.Cell) (k : Nat) : Word := BitVec.ofNat 64 (Memory.readNat m k 8)

/-- Write an 8-byte word at a physical address. -/
def Memory.write64 (m : List Host.Cell) (k : Nat) (v : Word) : List Host.Cell := Memory.writeNat m k 8 v.toNat

end Sys2Proof.Machine
end

