-- ==== Sys2Proof/Machine/Ops.lean ====
section
/-! DEFINITION. Named operations on threads and registers, retirement with the loop-end step, outstanding operations,
taking an exception and returning from one. -/

namespace Sys2Proof.Machine

/-- What a meaning answers. -/
abbrev Out := Host.Outcome State Fault Refusal

/-- A check's answer: the value, or the cause and its TVAL (R389). -/
abbrev Chk (α : Type) := Except (BitVec 7 × Word) α

-- Identity of a thread (R12, R13, R356).

/-- HWID bit 16 is 1 for a B-core native thread. -/
def isB (h : BitVec 17) : Bool := h.getLsbD 16

/-- The die of a thread. -/
def dieOf (h : BitVec 17) : BitVec 6 := h.extractLsb' 10 6

/-- The stack of a die (R11). -/
def stackOf (d : BitVec 6) : BitVec 3 := d.extractLsb' 3 3

/-- The layer of a die (R11). -/
def layerOf (d : BitVec 6) : BitVec 3 := d.extractLsb' 0 3

/-- The quadrant of a thread. -/
def quadOf (h : BitVec 17) : BitVec 2 := h.extractLsb' 8 2

/-- The pool of a thread: its class, or 16 + 2 x quadrant + B-core for a native thread (R343). -/
def poolOf (h : BitVec 17) : BitVec 5 :=
  if isB h then BitVec.ofNat 5 (16 + 2 * (quadOf h).toNat + (h.extractLsb' 2 1).toNat)
  else (h.extractLsb' 6 4).zeroExtend 5

/-- The core of a thread: the global L-core index, or 2^14 + the global B-core index (R13). -/
def coreOf (h : BitVec 17) : BitVec 15 :=
  if isB h then BitVec.ofNat 15 (16384 + 8 * (dieOf h).toNat + 2 * (quadOf h).toNat + (h.extractLsb' 2 1).toNat)
  else (h.extractLsb' 2 14).zeroExtend 15

/-- The global B-core index of a native thread (R13). -/
def bcoreOf (h : BitVec 17) : BitVec 9 :=
  BitVec.ofNat 9 (8 * (dieOf h).toNat + 2 * (quadOf h).toNat + (h.extractLsb' 2 1).toNat)

/-- The timetable slot of a thread (R356). -/
def slotOf (h : BitVec 17) : BitVec 11 :=
  if isB h then BitVec.ofNat 11 (1024 + 4 * (2 * (quadOf h).toNat + (h.extractLsb' 2 1).toNat) + (h.extractLsb' 0 2).toNat)
  else BitVec.ofNat 11 (h.extractLsb' 0 10).toNat

/-- The thread a timetable slot belongs to (R356). -/
def hwidOfSlot (d : BitVec 6) (k : BitVec 11) : BitVec 17 :=
  if k.toNat < 1024 then BitVec.ofNat 17 (d.toNat * 1024 + k.toNat)
  else
    let j := (k.toNat - 1024) / 4
    BitVec.ofNat 17 (65536 + d.toNat * 1024 + (j / 2) * 256 + (j % 2) * 4 + k.toNat % 4)

/-- HWID names a thread slot: a native thread has bits [7:3] zero (R12). -/
def hwidOk (h : BitVec 17) : Bool := !isB h || h.extractLsb' 3 5 == 0

-- Threads of the state.

/-- The thread with a task on a slot, the current one included. -/
def State.thread? (s : State) (h : BitVec 17) : Option Thread :=
  if s.th.live && s.th.hwid == h then some s.th else s.others.find? (fun t => t.live && t.hwid == h)

/-- Put a thread back where it stands. -/
def State.putThread (s : State) (t : Thread) : State :=
  if s.th.hwid == t.hwid && s.th.live then { s with th := t }
  else { s with others := s.others.map (fun u => if u.hwid == t.hwid then t else u) }

/-- Every thread with a task. -/
def State.threads (s : State) : List Thread := (s.th :: s.others).filter (·.live)

/-- Change every thread with a task. -/
def State.mapThreads (s : State) (f : Thread → Thread) : State :=
  { s with th := if s.th.live then f s.th else s.th, others := s.others.map f }

/-- Give a slot a thread with a task: the current place if it is free, else among the others. -/
def State.bindThread (s : State) (t : Thread) : State :=
  if s.th.live then { s with others := s.others.filter (·.hwid != t.hwid) ++ [t] }
  else { s with th := t, others := s.others.filter (·.hwid != t.hwid) }

/-- Take the task from a slot. -/
def State.dropThread (s : State) (h : BitVec 17) : State :=
  { s with th := if s.th.live && s.th.hwid == h then Thread.idle h else s.th, others := s.others.filter (·.hwid != h) }

-- Scalar and vector registers (R105 to R108).

/-- The image of a scalar register: s0 reads 0 with tail 00 (R106). -/
def Thread.getS (t : Thread) (n : BitVec 6) : SReg := if n = 0 then ⟨0, 0⟩ else t.s[n.toNat]'n.isLt

/-- A destination that a write to s[n] supersedes (R254: the fill can no longer be read there). -/
def Dst.withoutS (n : BitVec 6) : Dst → Dst
  | .s m => if m = n then .none else .s m
  | d => d

/-- As `withoutS`, for a vector register. -/
def Dst.withoutV (n : BitVec 6) : Dst → Dst
  | .v m => if m = n then .none else .v m
  | d => d

/-- Write a scalar register with its tail; a write to s0 is discarded (R106, R107). -/
def Thread.setS (t : Thread) (n : BitVec 6) (r : SReg) : Thread :=
  if n = 0 then t
  else { t with s := t.s.set n.toNat r n.isLt
                unseen := t.unseen.filter (fun d => d.withoutS n != .none)
                refused := t.refused.map (fun f => { f with dst := f.dst.withoutS n }) }

/-- The image of a vector register (R105). -/
def Thread.getV (t : Thread) (n : BitVec 6) : VReg := t.v[n.toNat]?.getD ⟨0, 0⟩

/-- Write a vector register with its tails (R107). -/
def Thread.setV (t : Thread) (n : BitVec 6) (r : VReg) : Thread :=
  { t with v := t.v.setIfInBounds n.toNat r
           unseen := t.unseen.filter (fun d => d.withoutV n != .none)
           refused := t.refused.map (fun f => { f with dst := f.dst.withoutV n }) }

/-- The value of scalar register `n` of the current thread. -/
def State.rs (s : State) (n : BitVec 6) : Word := (s.th.getS n).val

/-- Write scalar register `n` of the current thread with tail 00 (R125). -/
def State.ws (s : State) (n : BitVec 6) (v : Word) : State := { s with th := s.th.setS n ⟨v, 0⟩ }

/-- Write a scalar image. -/
def State.wsImg (s : State) (n : BitVec 6) (r : SReg) : State := { s with th := s.th.setS n r }

/-- Write a vector register of the current thread. -/
def State.wv (s : State) (n : BitVec 6) (r : VReg) : State := { s with th := s.th.setV n r }

/-- Does the destination name scalar register `n`? s0 never becomes pending (R106). -/
def Dst.hasS (n : BitVec 6) : Dst → Bool
  | .s m => m == n && n != 0
  | .pair m => (m == n || m + 1 == n) && n != 0
  | _ => false

/-- Does the destination name vector register `n`? -/
def Dst.hasV (n : BitVec 6) : Dst → Bool
  | .v m => m == n
  | _ => false

/-- The pending bit of a scalar register (R108). -/
def Thread.pendS (t : Thread) (n : BitVec 6) : Bool := t.ops.any (fun o => o.dst.hasS n)

/-- The pending bit of a vector register (R108). -/
def Thread.pendV (t : Thread) (n : BitVec 6) : Bool := t.ops.any (fun o => o.dst.hasV n)

/-- Some register of the thread is pending (R42). -/
def Thread.anyPending (t : Thread) : Bool :=
  t.ops.any (fun o => match o.dst with | .none => false | .s n => n != 0 | _ => true)

/-- The thread runs in shadow: a trap-capable instruction it shipped is unresolved (R315). -/
def Thread.inShadow (t : Thread) : Bool := t.ops.any (·.trapcap)

-- FCSR (R112).

/-- The dynamic rounding mode. -/
def Thread.rm (t : Thread) : BitVec 3 := t.fcsr.extractLsb' 10 3

/-- The trap enables ENV, EDZ, EOF, EUF, ENX. -/
def Thread.enables (t : Thread) : BitVec 5 := t.fcsr.extractLsb' 5 5

/-- The flags NV, DZ, OF, UF, NX. -/
def Thread.flags (t : Thread) : BitVec 5 := t.fcsr.extractLsb' 0 5

/-- OR flags into FCSR (R113). -/
def Thread.orFlags (t : Thread) (f : BitVec 5) : Thread := { t with fcsr := t.fcsr ||| f.zeroExtend 64 }

/-- Flags of an older operation that arrive in shadow also belong in a saved FCSR. -/
def orSaved (fl : BitVec 5) (u : Undo) : Undo :=
  match u.old with
  | .ctl 0 w => { u with old := .ctl 0 (w ||| fl.zeroExtend 64) }
  | _ => u

/-- Flags that an operation returns are ORed into FCSR, and into the copies of it that the undo log keeps (R94, R315). -/
def Thread.fillFlags (t : Thread) (fl : BitVec 5) : Thread :=
  { t with undo := t.undo.map (orSaved fl) }.orFlags fl

-- Tables of pairs.

/-- Look a key up. -/
def lookup? {α β : Type} [DecidableEq α] (l : List (α × β)) (k : α) : Option β :=
  (l.find? (fun p => decide (p.1 = k))).map (·.2)

/-- Set a key. -/
def assoc {α β : Type} [DecidableEq α] (l : List (α × β)) (k : α) (v : β) : List (α × β) :=
  (k, v) :: l.filter (fun p => !decide (p.1 = k))

/-- The units of a B-core; GSHARE is 4 at reset (R119). -/
def State.bcore (s : State) (b : BitVec 9) : BCore :=
  (lookup? s.queues.bcores b).getD ⟨4, [], [], none, 0, false⟩

/-- Put a B-core's units back. -/
def State.putBCore (s : State) (b : BitVec 9) (c : BCore) : State :=
  { s with queues := { s.queues with bcores := assoc s.queues.bcores b c } }

/-- The launch record of an index (R353). -/
def State.launch? (s : State) (l : BitVec 16) : Option Launch := s.launches.find? (fun r => r.lrec == l)

/-- Put a launch record back. -/
def State.putLaunch (s : State) (r : Launch) : State :=
  { s with launches := s.launches.map (fun x => if x.lrec == r.lrec then r else x) }

/-- The gang of an index in a launch record, fresh when never claimed (R355). -/
def Launch.gang (r : Launch) (g : BitVec 24) : Gang :=
  (r.gangs.find? (fun x => x.idx == g)).getD ⟨g, .fresh, [], none, none⟩

/-- Put a gang back where it stands among those claimed so far, or as a new one. -/
def Launch.putGang (r : Launch) (g : Gang) : Launch :=
  { r with gangs := if r.gangs.any (fun x => x.idx == g.idx) then r.gangs.map (fun x => if x.idx == g.idx then g else x) else g :: r.gangs }

/-- An internal event comes to be in flight. -/
def State.send (s : State) (e : Instr) : State := { s with pending := s.pending ++ [e] }

/-- An internal event that is in flight already comes to be so no second time. -/
def State.sendOnce (s : State) (e : Instr) : State := if s.pending.contains e then s else s.send e

/-- A mail to the host driver (R28, R362, R398, R421). -/
def State.mail (s : State) (m : Mail) : State := { s with queues := { s.queues with mail := s.queues.mail ++ [m] } }

/-- Post a machine-check event (R421): to the host, and to the log of 4,096 events, beyond which only the lost are counted. -/
def State.machineCheck (s : State) (unit : BitVec 16) (kind : McKind) (pa : BitVec 52)
    (consumer : Option (BitVec 16 × BitVec 17)) : State :=
  let m : MachineCheck := ⟨unit, kind, pa, consumer, BitVec.ofNat 64 s.cycle⟩
  if s.boundary.mcLog.length < 4096 then
    State.mail { s with boundary := { s.boundary with mcLog := s.boundary.mcLog ++ [m] } } (.machineCheck m)
  else { s with boundary := { s.boundary with mcLost := s.boundary.mcLost + 1 } }

-- Retirement (R62, R65, R135).

/-- The repeats a REP payload asks for (R65). -/
def repCount (p : BitVec 22) : Nat := (p.extractLsb' 16 6).toNat + 1

/-- The address held in LBn or LEn: [47:2], the low bits zero (R114). -/
def loopAddr (w : Word) : Word := w &&& 0x0000FFFFFFFFFFFC#64

/-- LDEPTH.DEPTH (R114). -/
def Thread.depth (t : Thread) : Nat := (t.ldepth.extractLsb' 0 3).toNat

/-- Register `k` of a group of four (levels 0 to 3). -/
def four (v : Vector Word 4) (k : Nat) : Word := v[k]?.getD 0

/-- The loop-end step for an instruction at `x` that retired without transferring control (R135); `n` levels at most. -/
def loopEnd (x : Word) : Nat → Thread → Thread
  | 0, t => { t with pc := x + 4 }
  | n + 1, t =>
    if 0 < t.depth ∧ x = loopAddr (four t.le (t.depth - 1)) then
      let k := t.depth - 1
      let c := four t.ln k - 1
      let t' := { t with ln := t.ln.setIfInBounds k c }
      if c ≠ 0 then { t' with pc := loopAddr (four t.lb k) }
      else loopEnd x n { t' with ldepth := BitVec.ofNat 64 k }
    else { t with pc := x + 4 }

/-- The prefix words that the thread has issued of a group whose instruction has not (R62, R68). -/
def Thread.prefixWords (t : Thread) : Nat :=
  match t.pfx with
  | none => 0
  | some p => if p.begun then 0 else p.rep.toList.length + p.himm.toList.length + p.hmod.toList.length

/-- The instructions a thread has retired, without the prefix words of a group whose instruction is still to issue: a group is
indivisible (R68). -/
def Thread.wholeCount (t : Thread) : Word := t.instret - BitVec.ofNat 64 t.prefixWords

/-- One more instruction retired (R118). -/
def Thread.count (t : Thread) : Thread := { t with instret := t.instret + 1 }

/-- The instruction of a group is done: no prefix is left, the group's REP is over (R65, R67). -/
def Thread.endGroup (t : Thread) : Thread :=
  match t.pfx with
  | none => t
  | some p => { t with pfx := none, repleft := if p.rep.isSome then 0 else t.repleft }

/-- Retire an instruction that does not transfer control: one more repeat of its REP, or the loop-end step (R65, R135). -/
def Thread.retire (t : Thread) : Thread :=
  match t.pfx.bind (·.rep) with
  | some _ =>
    if 1 < t.repleft.toNat then { t.count with repleft := t.repleft - 1, pfx := t.pfx.map (fun p => { p with begun := true }) }
    else loopEnd t.pc 4 t.count.endGroup
  | none => loopEnd t.pc 4 t.count.endGroup

/-- Retire an instruction that transfers control to `target` (R135). -/
def Thread.jump (t : Thread) (target : Word) : Thread := { t.count.endGroup with pc := target }

/-- Retire in the state. -/
def State.retire (s : State) : Out := .next { s with th := s.th.retire }

-- Ending a task (R36, R142, R399, R46).

/-- The status word of a task that ends (R36): done, faulted, cancelled, cause and flags. -/
def statusWord (done faulted cancelled : Nat) (cause : BitVec 8) (flags : BitVec 5) : Word :=
  BitVec.ofNat 64 (done + faulted * 2 ^ 24 + flags.toNat * 2 ^ 40 + cause.toNat * 2 ^ 45 + cancelled * 2 ^ 53)

/-- The flags a task reports: its FCSR flags and those of its resume record (R36). -/
def Thread.reportFlags (t : Thread) : BitVec 5 := t.flags ||| t.resumeFlags

/-- Thread `w` lies in thread `o`'s instance of a scope (R269). -/
def sameInstance (scope : BitVec 3) (o w : BitVec 17) : Bool :=
  match scope.toNat with
  | 0 => o == w
  | 1 => coreOf o == coreOf w
  | 2 => isB o == isB w && dieOf o == dieOf w && (if isB o then quadOf o == quadOf w else poolOf o == poolOf w)
  | 3 => dieOf o == dieOf w
  | 4 => stackOf (dieOf o) == stackOf (dieOf w)
  | _ => true

/-- A thread waits in FWAIT for an operation (R339). -/
def Thread.waitsFor (t : Thread) (owner : BitVec 17) (gen : OpId) (dst : Dst) : Bool :=
  match t.wait with
  | .fwait _ o g r => o == owner && g == gen && decide (r = dst)
  | _ => false

/-- Drop the unrecorded .i copies of the pools of some threads, those on their way included (R276). -/
def State.dropCopiesOf (s : State) (ts : List Thread) : State :=
  let mine (d : BitVec 6) (p : BitVec 5) : Bool := ts.any (fun t => dieOf t.hwid == d && poolOf t.hwid == p)
  if ts.isEmpty then s
  else { s with
    caches := { s.caches with copies := s.caches.copies.filter (fun c => c.isConst || !mine c.die c.pool) }
    pending := s.pending.filter (fun e => match e with
      | .dataMsg m false _ _ => !(m.rq == 2 && mine m.die m.pool)
      | _ => true) }

/-- Wake the threads that wait in FWAIT on an operation of a thread with an answer (R339): 1 filled, with the acquire of
the operation's scope for those in the owner's instance; 2 discarded. -/
def State.wakeFwait (s : State) (owner : BitVec 17) (gen : OpId) (dst : Dst) (scope : BitVec 3) (ans : Word) : State :=
  let up := s.threads.filter (·.waitsFor owner gen dst)
  let s := if ans = 1 then s.dropCopiesOf (up.filter (fun t => sameInstance scope owner t.hwid)) else s
  if up.isEmpty then s
  else s.mapThreads (fun t =>
    match t.wait with
    | .fwait d _ _ _ =>
      if t.waitsFor owner gen dst then { (t.setS d ⟨ans, 0⟩).retire with wait := .none } else t
    | _ => t)

-- Fields of a shipped word.

/-- The major. -/
def wMajor (w : BitVec 32) : Nat := (w.extractLsb' 26 6).toNat

/-- The function byte. -/
def wFn (w : BitVec 32) : Nat := (w.extractLsb' 0 8).toNat

/-- A MAT word. -/
def isMat (w : BitVec 32) : Bool := wMajor w == 0x33

/-- A shipped instruction with a memory effect (R313). -/
def memEffect (w : BitVec 32) : Bool :=
  wMajor w == 0x24 || (isMat w && (decide (2 ≤ wFn w ∧ wFn w ≤ 5) || wFn w == 12))

/-- A shipped word whose accesses, once its packet has left the core, are performed whatever becomes of its task (R46,
R287): the wide atomics, and the tile instructions, which keep their order. A matrix command is stopped. -/
def lasting (w : BitVec 32) : Bool := wMajor w == 0x24 || (isMat w && wFn w != 12)

/-- An operation of an ended task that its B-core still performs. -/
def Op.lasts (o : Op) : Bool := match o.kind with | .ship p => lasting p.insn | _ => false

-- Operations whose task has ended and that complete all the same (R46).

/-- The name an orphaned operation goes by in place of its thread's: it names no thread slot (R12). -/
def orphanId : BitVec 17 := 0x100F8

/-- An operation that completes, or is carried on, after its task has ended (R46, R349). -/
def OpKind.survives : OpKind → Bool
  | .copy _ _ _ _ => true
  | .append _ _ _ => true
  | .sealOp _ _ _ => true
  | .wdq _ => true
  | .submit _ _ _ _ => true
  | .free _ _ => true
  | .hostev _ => true
  | .chsend _ _ (some _) => true
  | _ => false

/-- The fill of an operation is an acquire of what it wrote, when it is observed (R281). -/
def OpKind.acquires : OpKind → Bool
  | .ship p => memEffect p.insn
  | .evwait _ _ | .bamo | .hostev _ => false
  | .mms _ | .copy _ _ _ _ | .chsend _ _ _ | .chrecv _ _ _ | .chwait _ _ | .wdq _ | .submit _ _ _ _ | .append _ _ _
  | .sealOp _ _ _ | .range _ | .free _ _ | .ccnt _ _ => true

/-- An event in flight about operation (h, g) is about orphan n. -/
def renameEvent (h : BitVec 17) (g n : OpId) : Instr → Instr
  | .appendArrival x y => if x = h ∧ y = g then .appendArrival orphanId n else .appendArrival x y
  | .sealArrival x y => if x = h ∧ y = g then .sealArrival orphanId n else .sealArrival x y
  | .wdqRequest x y => if x = h ∧ y = g then .wdqRequest orphanId n else .wdqRequest x y
  | .copyComplete x y => if x = h ∧ y = g then .copyComplete orphanId n else .copyComplete x y
  | .copyEventRecord x y => if x = h ∧ y = g then .copyEventRecord orphanId n else .copyEventRecord x y
  | .confluenceContribution x y => if x = h ∧ y = g then .confluenceContribution orphanId n else .confluenceContribution x y
  | .hostevRecordAccept x y => if x = h ∧ y = g then .hostevRecordAccept orphanId n else .hostevRecordAccept x y
  | e => e

/-- A pair naming operation (h, g) names orphan n. -/
def renamePair (h : BitVec 17) (g n : OpId) (p : BitVec 17 × OpId) : BitVec 17 × OpId :=
  if p = (h, g) then (orphanId, n) else p

/-- An append page's record after a renaming. -/
def AppendPage.rename (h : BitVec 17) (g n : OpId) (p : AppendPage) : AppendPage :=
  { p with writes := p.writes.map (fun w => if w.hwid = h ∧ w.gen = g then { w with hwid := orphanId, gen := n } else w)
           seals := p.seals.map (renamePair h g n)
           frees := p.frees.map (renamePair h g n)
           queued := p.queued.map (fun r => { r with req := renameEvent h g n r.req }) }

/-- Everything in the module that names operation (h, g) names orphan n. -/
def State.renameOp (s : State) (h : BitVec 17) (g n : OpId) : State :=
  { s with
    pending := s.pending.map (renameEvent h g n)
    caches := { s.caches with
      appendPages := s.caches.appendPages.map (·.rename h g n)
      migrations := s.caches.migrations.map (fun m => { m with queued := m.queued.map (fun r => { r with req := renameEvent h g n r.req }) }) }
    queues := { s.queues with
      copyQ := s.queues.copyQ.map (fun e => if e.2.hwid = h ∧ e.2.gen = g then (e.1, { e.2 with hwid := orphanId, gen := n }) else e)
      groups := s.queues.groups.map (fun x => { x with parts := x.parts.map (fun (c : Contribution) =>
        if c.hwid = h ∧ c.gen = g then { c with hwid := orphanId, gen := n } else c) }) } }

/-- A fresh orphan number for operation (h, g). -/
def State.orphanName (s : State) (h : BitVec 17) (g : OpId) : State :=
  let n := s.queues.orphanNo
  let s := s.renameOp h g n
  { s with queues := { s.queues with orphanNo := n + 1 } }

/-- An operation of an ended task goes on without it. -/
def State.orphan (s : State) (t : Thread) (o : Op) : State :=
  let n := s.queues.orphanNo
  let s := s.orphanName t.hwid o.gen
  { s with queues := { s.queues with orphans := s.queues.orphans ++ [(n, t, { o with gen := n, dst := .none })] } }

/-- A packet in flight belongs to a thread and comes to nothing when its task has ended: a result too, but of an operation that the
thread still waits for. -/
def packetOf (h : BitVec 17) (kept : List Op) : Instr → Bool
  | .guestPacket _ p => p.hwid == h && !lasting p.insn
  | .resultPacket r => r.hwid == h && !kept.any (fun o => o.lasts && o.seq == r.seq)
  | _ => false

/-- What the module holds in a thread's name when its task has ended: packets without a lasting effect are dropped, waits
at a home end, matrix commands go on nameless (R46, R287, R349). Bell beats keep the thread's name, whose slot is not free before
they are applied. -/
def State.releaseNames (s : State) (h : BitVec 17) : State :=
  let s := (s.queues.copyQ.filter (fun e => e.2.hwid == h)).foldl (fun (s : State) e => s.orphanName h e.2.gen) s
  { s with
    pending := s.pending.filter (fun e => !packetOf h (((s.thread? h).map (·.ops)).getD []) e)
    queues := { s.queues with
      bcores := s.queues.bcores.map (fun c => (c.1, { c.2 with
        guests := c.2.guests.filter (fun e => e.pkt.hwid != h || lasting e.pkt.insn)
        mcq := c.2.mcq.map (fun e => if e.hwid == h then { e with dead := true } else e)
        running := c.2.running.map (fun e => if e.hwid == h then { e with dead := true } else e) }))
      channels := s.queues.channels.map (fun c => { c with waiting := c.waiting.filter (fun w => w.1 != h) }) } }

/-- Discard every outstanding future of a thread (R46, R399): FWAITs on them return 2. -/
def State.discardOps (s : State) (t : Thread) : State :=
  (t.ops.foldl (fun (s : State) o =>
    let s := s.wakeFwait t.hwid o.gen o.dst o.scope 2
    if o.kind.survives then s.orphan t o else s) s).releaseNames t.hwid

/-- The task of a thread ends with a status word, which its exit report will send (R35). The stores it has issued, and what
its host B-core is performing for it, come before the report (R46, R287). -/
def State.endTask (s : State) (t : Thread) (w : Wait) : State :=
  let s := s.putThread { t with ops := (t.ops.filter (·.lasts)).map (fun o => { o with dst := .none }), refused := [], undo := [], held := [], heldRes := [], heldFault := none
                                pfx := none, parked := [], wait := w }
  (s.discardOps t).send (.taskExitReport t.hwid)

/-- The fatal causes (R389). -/
def isFatal (c : BitVec 7) : Bool := c == 0x04 || c == 0x07 || c == 0x08 || c == 0x0B || c == 0x10

/-- The fault record of a cause (R400). -/
def faultRecord (t : Thread) (c : Cause) : List Word :=
  [ BitVec.ofNat 64 ((if c.remote then 2 ^ 55 else 0) + c.code.toNat * 2 ^ 48
      + (if c.code = 0x10 then c.tval.toNat % 2 ^ 48 else c.tpc.toNat % 2 ^ 48)),
    c.tval,
    BitVec.ofNat 64 ((t.taskid.toNat % 2 ^ 24) * 2 ^ 40 + (if c.remote then c.seq.toNat * 2 ^ 24 else 0) + t.hwid.toNat),
    BitVec.ofNat 64 ((if c.code = 0x10 then 0 else c.insn.toNat * 2 ^ 32) + t.flags.toNat * 2 ^ 24 + c.repleft.toNat) ]

/-- Enter a fault record in the launch's fault area (R400): the first 64 are kept, all are counted, saturating. -/
def Launch.addFault (r : Launch) (w : List Word) : Launch :=
  { r with faults := if r.faults.length < 64 then r.faults ++ [w] else r.faults
           fcount := if r.fcount = 0xFFFFFF#24 then r.fcount else r.fcount + 1 }

/-- A thread's task has ended and waits for its report. -/
def Thread.ended (t : Thread) : Bool :=
  match t.wait with
  | .exiting | .dropped | .faulted _ | .cancelled _ => true
  | _ => false

/-- The other participants of a thread's fork that still run (R381). -/
def State.forkMates (s : State) (t : Thread) : List Thread :=
  match t.fork with
  | none => []
  | some f => s.threads.filter (fun u => u.hwid != t.hwid && !u.ended
      && decide (u.fork.map (fun g => (g.die, g.pool, g.cell)) = some (f.die, f.pool, f.cell)))

/-- End every participant of a fork but one: a fatal fault in it ends them all (R39). Their exit reports report nothing and
take them from their slots. -/
def State.endFork (s : State) (t : Thread) : State :=
  match t.fork with
  | none => s
  | some f =>
    let s := (s.forkMates t).foldl (fun (s : State) u => s.endTask { u with fork := none } .dropped) s
    { s with counters := { s.counters with joins := s.counters.joins.filter (fun j => !(j.die == f.die && j.pool == f.pool && j.cell == f.cell)) } }

/-- A fatal cause, or a vectored one with no handler, ends the task with a fault record (R399). Of a fork the flags reported
are those of the participant that faulted: the spec does not say what becomes of those collected in the join cell and in the
others (DESIGN CHOICE, log entry 94). -/
def State.endFault (s : State) (t : Thread) (c : Cause) : State :=
  let s := s.endFork t
  let s := match s.launch? t.lrec with
    | some r => s.putLaunch (r.addFault (faultRecord t c))
    | none => s
  s.endTask { t with fork := none } (.faulted (statusWord 0 1 0 (c.code.zeroExtend 8) t.reportFlags))

-- Taking an exception (R394).

/-- Trap entry: the cause `c` is delivered at its group; pc goes to the handler. -/
def trapEntry (t : Thread) (c : Cause) : Thread :=
  { t with tpc := loopAddr c.tpc
           tcause := BitVec.ofNat 64 ((if c.remote then 128 else 0) + c.code.toNat)
           tval := c.tval
           tseq := if c.remote then c.seq.zeroExtend 64 else 0
           repleft := c.repleft.zeroExtend 64
           pfx := none
           pc := loopAddr t.tvec }

/-- Deliver a cause to a thread (R390): its handler, or the end of the task. -/
def State.deliver (s : State) (t : Thread) (c : Cause) : State :=
  if isFatal c.code || loopAddr t.tvec == 0 then s.endFault t c
  else s.putThread (trapEntry t c)

/-- REPLEFT as trap entry at the current repeat sets it (R394). -/
def Thread.repLeftNow (t : Thread) : BitVec 7 :=
  match t.pfx.bind (·.rep) with
  | some _ => t.repleft.extractLsb' 0 7
  | none => 0

/-- The first word of the current group (R68). -/
def Thread.groupStart (t : Thread) : Word := match t.pfx with | some p => p.start | none => t.pc

/-- The instruction at `pc` of the current thread raises a cause (R391). In shadow the fault is held (R393). `insn` is the
word as fetched, which the fault record keeps. -/
def State.raiseWith (s : State) (code : BitVec 7) (tval : Word) (insn : BitVec 32) : State :=
  let c : Cause := ⟨code, tval, false, 0, s.th.groupStart, insn, s.th.repLeftNow⟩
  if s.th.inShadow then { s with th := { s.th with heldFault := some c } }
  else s.deliver s.th c

/-- Return from an exception (R396): a control transfer to TPC; no other register changes. -/
def exceptionReturn (t : Thread) : Thread := { t.count.endGroup with pc := loopAddr t.tpc }

-- Outstanding operations (R108, R305, R335).

/-- Does the ship sequence of an operation count (it is a shipped instruction)? -/
def Op.shipped (o : Op) : Bool := match o.kind with | .ship _ => true | _ => false

/-- Write a slot to a destination (R308): the pair of CAS2 and SWAP2 comes in the low 16 bytes of a wide slot. -/
def Thread.fillDst (t : Thread) (d : Dst) (v : Slot) : Thread :=
  match d, v with
  | .s n, .scalar r => t.setS n r
  | .s n, .wide r => t.setS n ⟨r.val.extractLsb' 0 64, 0⟩
  | .pair n, .wide r => (t.setS n ⟨r.val.extractLsb' 0 64, 0⟩).setS (n + 1) ⟨r.val.extractLsb' 64 64, 0⟩
  | .v n, .wide r => t.setV n r
  | _, _ => t

/-- An orphaned operation has completed. -/
def State.dropOrphan (s : State) (n : OpId) : State :=
  { s with queues := { s.queues with orphans := s.queues.orphans.filter (fun o => o.1 != n) } }

/-- An operation ends: its destination is filled in one step, it leaves the outstanding count, the threads that wait in
FWAIT wake with an answer (R108, R336, R339): 1 completed, 2 cancelled. -/
def State.fillAs (s : State) (h : BitVec 17) (gen : OpId) (v : Slot) (ans : Word) : State :=
  if h = orphanId then s.dropOrphan gen
  else match s.thread? h with
  | none => s
  | some t =>
    match t.ops.find? (fun o => o.gen == gen) with
    | none => s
    | some o =>
      let u := t.fillDst o.dst v
      let t := { u with
        ops := t.ops.filter (fun p => p.gen != gen)
        unseen := if ans = 1 ∧ o.kind.acquires ∧ o.dst ≠ .none ∧ o.dst ≠ .s 0 then o.dst :: u.unseen else u.unseen }
      (s.putThread t).wakeFwait h gen o.dst o.scope ans

/-- An operation completes (R108, R336). -/
def State.fillOp (s : State) (h : BitVec 17) (gen : OpId) (v : Slot) : State := s.fillAs h gen v 1

/-- An operation leaves the outstanding count with nothing filled. -/
def State.dropOp (s : State) (h : BitVec 17) (gen : OpId) : State :=
  if h = orphanId then s.dropOrphan gen
  else match s.thread? h with
  | some t => s.putThread { t with ops := t.ops.filter (fun o => o.gen != gen) }
  | none => s

/-- Fill a future with a 64-bit value and tail 00. -/
def State.fillWord (s : State) (h : BitVec 17) (gen : OpId) (w : Word) : State := s.fillOp h gen (.scalar ⟨w, 0⟩)

/-- The completion status of R335: VALUE, FLAGS, CODE. -/
def statusOf (value : BitVec 32) (flags : BitVec 5) (code : BitVec 8) : Word :=
  BitVec.ofNat 64 (value.toNat * 65536 + flags.toNat * 256 + code.toNat)

/-- The operation of a generation of a thread, or an orphaned one. -/
def State.op? (s : State) (h : BitVec 17) (gen : OpId) : Option (Thread × Op) :=
  if h = orphanId then (s.queues.orphans.find? (fun o => o.1 == gen)).map (·.2)
  else match s.thread? h with
  | none => none
  | some t => (t.ops.find? (fun o => o.gen == gen)).map (fun o => (t, o))

/-- Put an operation back. -/
def State.putOp (s : State) (h : BitVec 17) (o : Op) : State :=
  if h = orphanId then
    { s with queues := { s.queues with orphans := s.queues.orphans.map (fun x => if x.1 == o.gen then (x.1, x.2.1, o) else x) } }
  else match s.thread? h with
  | some t => s.putThread { t with ops := t.ops.map (fun x => if x.gen == o.gen then o else x) }
  | none => s

/-- The current thread starts an asynchronous operation (R335): the next generation, a pending destination. -/
def State.startOp (s : State) (dst : Dst) (scope : BitVec 3) (insn : BitVec 32) (kind : OpKind) : State :=
  let t := s.th
  let o : Op := ⟨t.opGen, t.shipSeq, dst, scope, kind, t.groupStart, insn, t.repLeftNow, t.instret, false, t.inShadow⟩
  { s with th := { t with opGen := t.opGen + 1, ops := t.ops ++ [o] } }

/-- The generation the current thread's next operation gets. -/
def State.nextGen (s : State) : OpId := s.th.opGen

/-- Bell beats of a thread wait in its layer's send queue, or to be applied to a mirror (R234, R374). -/
def State.beatsOut (s : State) (h : BitVec 17) : Bool :=
  s.queues.bellQ.any (fun q => q.beats.any (·.hwid == h)) || s.queues.mirrorQ.any (·.beat.hwid == h)

/-- Stores of a thread are not yet performed: those on their way or held, appends and seals whose home has not answered, those of
the instructions it has shipped, BAMOs (R144, R268, R270, R275, R315). -/
def Thread.storesOut (t : Thread) : Bool :=
  !t.buf.isEmpty || !t.held.isEmpty
    || t.ops.any (fun o => match o.kind with
      | .append _ _ _ | .sealOp _ _ _ | .bamo => true
      | .ship p => memEffect p.insn && lasting p.insn
      | _ => false)

-- The gang and its pre-emption request (R43, R119).

/-- The gang of a thread's task. -/
def State.gangOf (s : State) (t : Thread) : Option (Launch × Gang) :=
  (s.launch? t.lrec).map (fun r => (r, r.gang (t.gangid.extractLsb' 0 24)))

/-- A pre-emption request is pending for the thread's gang and was raised in an earlier cycle (R43, R119). -/
def State.preemptPending (s : State) (t : Thread) : Bool :=
  match s.gangOf t with
  | some (_, g) => match g.preempt with | some c => decide (c < s.cycle) | none => false
  | none => false

end Sys2Proof.Machine
end

