-- ==== Sys2Proof/Machine/Home.lean ====
section
/-! DEFINITION. The homes of lines and pages: layers asleep, the counters of home slices, home directory entries, the queues in
which requests wait for a line or a page, and those who stand behind them (R22, R212, R216, R290, R295, R299, R303, R386). -/

namespace Sys2Proof.Machine

-- Layers asleep (R22, R235).

/-- The layer of a die is awake (R22, R235). -/
def State.awake (s : State) (d : BitVec 6) : Bool := !s.layers.any (fun l => l.die == d)

/-- A request that needs a home on a sleeping die makes the power controller wake the layer (R22). -/
def State.rouse (s : State) (d : BitVec 6) : State :=
  if s.layers.any (fun l => l.die == d && l.state == .asleep) then s.sendOnce (.layerWake d) else s

-- Performance counts of a unit (R386, R387).

/-- A counter counts events of a code, by thread `t` of its unit where the unit is a core (R387). -/
def Perf.hits (p : Perf) (code : BitVec 16) (t : Option Nat) : Bool :=
  let tm := (p.select.extractLsb' 52 4).toNat
  p.select.getLsbD 63 && p.select.extractLsb' 0 16 == code
    && (match t with
      | none => true
      | some k => tm == 0 || (tm / 2 ^ k) % 2 == 1)

/-- One counter counts `n` events of a code (R387): OVF marks a wrap. -/
def Perf.bump (p : Perf) (code : BitVec 16) (t : Option Nat) (n : Nat) : Perf :=
  if p.hits code t then
    { p with count := p.count + BitVec.ofNat 64 n
             select := if 2 ^ 64 ≤ p.count.toNat + n then p.select ||| 0x4000000000000000 else p.select }
  else p

/-- One counter takes `n` events of a code back, which turn out not to have happened. -/
def Perf.unbump (p : Perf) (code : BitVec 16) (t : Option Nat) (n : Nat) : Perf :=
  if p.hits code t then { p with count := p.count - BitVec.ofNat 64 n } else p

/-- The counters of a unit, at offsets [lo, hi) of a die's window, count an event (R386, R387). -/
def State.perfCount (s : State) (d : BitVec 6) (lo hi : Nat) (code : BitVec 16) (t : Option Nat) (n : Nat) : State :=
  { s with counters := { s.counters with perf := s.counters.perf.map (fun p =>
      if p.die == d && decide (lo ≤ p.off.toNat) && decide (p.off.toNat < hi) then p.bump code t n else p) } }

/-- The counters of the home slice of a line (R212, R386): PA[12:9] XOR PA[16:13] of die HOME. Host memory has none. -/
def State.perfSlice (s : State) (l : BitVec 52) (home : BitVec 6) (code : BitVec 16) : State :=
  let lo := 0x4400 + 64 * (l.extractLsb' 9 4 ^^^ l.extractLsb' 13 4).toNat
  if l.toNat < 2 ^ 40 then s.perfCount home lo (lo + 64) code none 1 else s

-- Homes (R212, R408, R409).

/-- The home die of a frame of HBM as the frame home table gives it (R408; log entry 3). -/
def State.frameHomeOf (s : State) (f : BitVec 24) : BitVec 8 := (lookup? s.tables.frameHome f).getD 0

/-- The boundary filter lets a partition reach a host range (R412). -/
def State.hostAllowed (s : State) (part : BitVec 4) (pa : Nat) : Bool :=
  s.boundary.filter.any (fun r => match r with
    | .host p b l => p == part && decide (b.toNat ≤ pa - 0x8000000000000) && decide (pa - 0x8000000000000 < b.toNat + l.toNat)
    | _ => false)

/-- A line of HBM; the others are lines of host memory, whose home is the agent on base die 0 (R409). -/
def isHbm (l : BitVec 52) : Bool := decide (l.toNat < 2 ^ 40)

/-- The home die of a line of HBM as the frame home table gives it (R291, R408). -/
def State.homeOf (s : State) (l : BitVec 52) : BitVec 6 := (s.frameHomeOf (l.extractLsb' 16 24)).extractLsb' 0 6

/-- A compute die is home to a line: never to one of host memory (R409). -/
def State.homeOn (s : State) (d : BitVec 6) (l : BitVec 52) : Bool := isHbm l && s.homeOf l == d

/-- The slice that is home to a line counts an event (R387). -/
def State.homeCount (s : State) (l : BitVec 52) (code : BitVec 16) : State := s.perfSlice l (s.homeOf l) code

-- The home directory (R290).

/-- The region of a line. -/
def regionOfLine (l : BitVec 52) : BitVec 52 := l &&& 0xFFFFFFFFFFE00

/-- The index of a line in its region. -/
def lineIdx (l : BitVec 52) : Nat := (l.extractLsb' 6 3).toNat

/-- The entry of a line's region; a region with none has every line in state U. -/
def State.dirOf (s : State) (l : BitVec 52) : DirEntry :=
  (s.caches.dir.find? (fun e => e.region == regionOfLine l)).getD ⟨regionOfLine l, 0, 0, 0, 0⟩

/-- A transaction on a line is in progress. -/
def State.lineBusy (s : State) (l : BitVec 52) : Bool := (s.dirOf l).busy.getLsbD (lineIdx l)

/-- The home record of an APPEND or SEALED page by a byte's physical address (R227). -/
def State.appendPage? (s : State) (pa : Nat) : Option AppendPage :=
  s.caches.appendPages.find? (fun g => decide (g.page.toNat = pa / 65536))

/-- A message in flight settles who holds a line: an owned line returned or lost, or an answer that a pool has still to take
in. -/
def settles (l : BitVec 52) : Instr → Bool
  | .puto m _ => m.line == l
  | .lostMsg m => m.line == l
  | .dataMsg m false _ _ => m.line == l && decide (m.rq.toNat ≤ 1)
  | .ackMsg m false _ => m.line == l && m.rq == 0
  | _ => false

/-- A request for a line finds its home free: no transaction on it, no answer on its way (R295, R299). -/
def State.lineFree (s : State) (l : BitVec 52) : Bool := !s.lineBusy l && !s.pending.any (settles l)

-- Arrivals at the home of a page (R228).

/-- An event is the arrival of operation (h, g). -/
def isArrival (h : BitVec 17) (g : OpId) : Instr → Bool
  | .appendArrival x y => x == h && y == g
  | .sealArrival x y => x == h && y == g
  | _ => false

/-- The page an append, seal or free is about. -/
def OpKind.page? : OpKind → Option (BitVec 36)
  | .append _ p _ => some p
  | .sealOp _ p _ => some p
  | .free p _ => some p
  | _ => none

/-- An append or seal has not arrived: it is on its way, to an old home or from it to the new one included (R216). -/
def State.notArrived (s : State) (x : BitVec 17) (y : OpId) : Bool :=
  s.pending.any (isArrival x y) || s.caches.migrations.any (fun m => m.queued.any (fun r => isArrival x y r.req))

/-- An older append or seal of the same thread to the page has not arrived (R228). -/
def State.olderArrival (s : State) (h : BitVec 17) (g : OpId) (page : BitVec 36) : Bool :=
  let sent := s.notArrived
  if h = orphanId then
    match s.op? h g with
    | none => false
    | some (t, _) => (s.queues.orphans.takeWhile (fun o => o.1 != g)).any (fun o =>
        o.2.1.hwid == t.hwid && o.2.2.kind.page? == some page && sent orphanId o.1)
  else match s.thread? h with
    | none => false
    | some t => (t.ops.takeWhile (fun o => o.gen != g)).any (fun o => o.kind.page? == some page && sent h o.gen)

/-- A request waits for an older one of its own thread, so that it has not arrived (R228). -/
def State.early (s : State) : Instr → Bool
  | .appendArrival h g => ((s.op? h g).bind (·.2.kind.page?)).any (s.olderArrival h g)
  | .sealArrival h g => ((s.op? h g).bind (·.2.kind.page?)).any (s.olderArrival h g)
  | _ => false

/-- The request of a page's queue that its home serves next. -/
def State.foremost (s : State) (q : List HomeReq) : Option HomeReq := q.find? (fun r => r.who.isSome || !s.early r.req)

-- The queues of homes (R216, R295, R303, R304; log entry 115).

/-- The message of a request that a home serves (R293); a host snoop comes from the agent on base die 0 (R409). -/
def requestMsg : Instr → Option CohMsg
  | .gets m => some m
  | .geto m _ => some m
  | .geti m => some m
  | .getu m => some m
  | .wrm m _ _ => some m
  | .amoh m _ _ _ _ _ => some m
  | .putb m _ _ => some m
  | .hostSnoop l _ => some ⟨l, 0, 31, 3, 0⟩
  | _ => none

/-- A queued request is one for a line. -/
def HomeReq.forLine (r : HomeReq) (l : BitVec 52) : Bool := (requestMsg r.req).any (fun m => m.line == l)

/-- Someone stands behind a queued request. -/
def HomeReq.of (r : HomeReq) (w : Option Waiter) : Bool := r.who.isSome && decide (r.who = w)

/-- The home slice of a line: its home die, and PA[12:9] XOR PA[16:13] on it (R212). The agent on base die 0 is the home of
every line of host memory (R409). -/
def State.sliceOf (s : State) (l : BitVec 52) : BitVec 7 × BitVec 4 :=
  if isHbm l then ((s.homeOf l).zeroExtend 7, l.extractLsb' 9 4 ^^^ l.extractLsb' 13 4) else (64, 0)

/-- The requests that a line's home slice has in its queue. -/
def State.sliceQueue (s : State) (l : BitVec 52) : List HomeReq :=
  s.caches.homeQ.filter (fun r => (requestMsg r.req).any (fun m => s.sliceOf m.line == s.sliceOf l))

/-- The page of a migration as its requests name it: of the old frame until it is moved, of the new one after. -/
def Migration.covers (m : Migration) (page : Nat) : Bool :=
  let b := (if m.moved then m.frame else m.page).toNat
  decide (b ≤ page) && decide (page < b + m.pages)

/-- The migration whose queue comes before any other request for a page (R216): at the old home until the page is moved, then
at the new one. -/
def State.migrationOf (s : State) (page : Nat) : Option Migration :=
  s.caches.migrations.find? (fun m => (!m.moved || !m.queued.isEmpty) && m.covers page)

/-- Requests stand in a queue for a line, and the one its home serves next: those of a migration first, those of its page next,
those of the line last. -/
def State.lineQueue (s : State) (l : Nat) : Bool × Option HomeReq :=
  match s.migrationOf (l / 65536) with
  | some m => (true, s.foremost m.queued)
  | none =>
    match s.appendPage? l with
    | some g => (!g.queued.isEmpty, s.foremost g.queued)
    | none =>
      let r := s.caches.homeQ.find? (fun r => r.forLine (BitVec.ofNat 52 l))
      (r.isSome, r)

/-- A home serves nothing of a line now: its die sleeps, the page is being moved or freed, a transaction is in progress (R22,
R216, R295, R303). -/
def State.homeShut (s : State) (l : Nat) (home : BitVec 6) : Bool :=
  (isHbm (BitVec.ofNat 52 l) && !s.awake home) || (s.migrationOf (l / 65536)).any (fun m => !m.moved)
    || !s.lineFree (BitVec.ofNat 52 l) || (s.appendPage? l).any (fun g => g.freeing.isSome)

/-- A queued request that someone stands behind is the one a line's home serves next. -/
def State.firstFor (s : State) (w : Option Waiter) (l : Nat) : Bool := (s.lineQueue l).2.any (·.of w)

/-- A home cannot serve a line now for someone: it serves nothing of it, or another request comes first. `past` lets it pass the
requests that others stand behind. -/
def State.homeHolds (s : State) (w : Option Waiter) (past : Bool) (l : Nat) (home : BitVec 6) : Bool :=
  s.homeShut l home || (let q := s.lineQueue l
    q.1 && !q.2.any (fun r => r.of w || (past && r.who.isSome)))

/-- An access waits: one of its lines, each with its home die, is held there. An access of several lines that is next in turn at
one of them passes those that wait at the others, so that no two wait for each other (log entry 115). -/
def State.linesHeld (s : State) (w : Option Waiter) (ls : List (Nat × BitVec 6)) : Bool :=
  let past := ls.any (fun x => s.firstFor w x.1)
  ls.any (fun x => s.homeHolds w past x.1 x.2)

/-- Add a request to a queue, if its waiter has none for the line there. -/
def enqueueFor (q : List HomeReq) (r : HomeReq) (l : BitVec 52) : List HomeReq :=
  if q.any (fun x => x.of r.who && x.forLine l) then q else q ++ [r]

/-- A request that waits for a line takes its place (R216, R295, R303): in the queue of a page that is moved or freed, or in the
slice's, which holds 64 and counts it. One for a sleeping die wakes it, and waits outside its slices (R22). -/
def State.queueUp (s : State) (r : HomeReq) (l : Nat) (home : BitVec 6) : State :=
  let x : BitVec 52 := BitVec.ofNat 52 l
  if isHbm x && !s.awake home then s.rouse home
  else match s.migrationOf (l / 65536) with
  | some m => { s with caches := { s.caches with migrations := s.caches.migrations.map (fun (y : Migration) =>
      if y.page = m.page ∧ y.frame = m.frame then { y with queued := enqueueFor y.queued r x } else y) } }
  | none =>
    if (s.appendPage? l).isSome then
      { s with caches := { s.caches with appendPages := s.caches.appendPages.map (fun (g : AppendPage) =>
        if g.page.toNat = l / 65536 ∧ (g.freeing.isSome ∨ g.queued ≠ []) then { g with queued := enqueueFor g.queued r x } else g) } }
    else if s.caches.homeQ.any (fun y => y.of r.who && y.forLine x) || decide (64 ≤ (s.sliceQueue x).length)
        || (s.lineFree x && (s.caches.homeQ.find? (·.forLine x)).isNone) then s
    else State.homeCount { s with caches := { s.caches with homeQ := s.caches.homeQ ++ [r] } } x 0x0021

/-- An access that waits takes its place at those of its lines that are held (R22, R295); `ask` is the request that stands for
it. -/
def State.linesQueue (s : State) (w : Option Waiter) (ls : List (Nat × BitVec 6)) (ask : Nat → Instr) : State :=
  let past := ls.any (fun x => s.firstFor w x.1)
  ls.foldl (fun (s : State) x => if s.homeHolds w past x.1 x.2 then s.queueUp ⟨ask x.1, w⟩ x.1 x.2 else s) s

/-- No request that someone stands behind is queued. -/
def State.noTickets (s : State) : Bool :=
  s.caches.homeQ.all (·.who.isNone) && s.caches.appendPages.all (fun g => g.queued.all (·.who.isNone))
    && s.caches.migrations.all (fun m => m.queued.all (·.who.isNone))

/-- The home of a line goes on with its queue: a message at its head is served when the home hears of it. -/
def State.homeGoesOn (s : State) (l : BitVec 52) : State :=
  match s.caches.homeQ.find? (·.forLine l) with
  | some r => if r.who.isNone then s.send (.ackMsg ⟨l, 0, 31, 3, 0⟩ false false) else s
  | none => s

/-- The places that someone has in the queues of some lines are taken up. -/
def State.takeTurn (s : State) (w : Option Waiter) (ls : List Nat) : State :=
  if s.noTickets then s
  else
    let stays (r : HomeReq) : Bool := !(r.of w && ls.any (fun l => r.forLine (BitVec.ofNat 52 l)))
    let had := ls.filter (fun l => s.caches.homeQ.any (fun r => r.of w && r.forLine (BitVec.ofNat 52 l)))
    let s := { s with caches := { s.caches with
      homeQ := s.caches.homeQ.filter stays
      appendPages := s.caches.appendPages.map (fun g => { g with queued := g.queued.filter stays })
      migrations := s.caches.migrations.map (fun m => { m with queued := m.queued.filter stays }) } }
    had.foldl (fun (s : State) l => s.homeGoesOn (BitVec.ofNat 52 l)) s

/-- Those who are gone leave the requests they stood behind to be served as messages (R304). -/
def State.leaveQueues (s : State) (gone : Waiter → Bool) : State :=
  if s.noTickets then s
  else
    let left (r : HomeReq) : Bool := r.who.any gone
    let drop (r : HomeReq) : HomeReq := if left r then { r with who := none } else r
    let lines := ((s.caches.homeQ.filter left).filterMap (fun r => (requestMsg r.req).map (·.line))).eraseDups
    let again := ((s.caches.appendPages.flatMap (·.queued)) ++ (s.caches.migrations.filter (·.moved)).flatMap (·.queued)).filter left
    let s := { s with caches := { s.caches with
      homeQ := s.caches.homeQ.map drop
      appendPages := s.caches.appendPages.map (fun g => { g with queued := g.queued.map drop })
      migrations := s.caches.migrations.map (fun m => { m with queued := m.queued.map drop }) } }
    let s := again.foldl (fun (s : State) r => s.send r.req) s
    lines.foldl (fun (s : State) l => s.homeGoesOn l) s

end Sys2Proof.Machine
end

