-- ==== Sys2Proof/Machine/Translate.lean ====
section
/-! DEFINITION. Address translation (R210 to R214, R363 to R365), leases (R213), and the instruction fetch (R449). -/

namespace Sys2Proof.Machine

/-- The physical ranges of R211. -/
inductive Phys
  | hbm
  | device
  | host
  | reserved
  deriving DecidableEq, Repr

/-- Which range a physical address lies in (R211). -/
def physOf (pa : Nat) : Phys :=
  if pa < 0x10000000000 then .hbm
  else if 0x4000000000000 ≤ pa ∧ pa < 0x4000100000000 then .device
  else if 0x8000000000000 ≤ pa ∧ pa < 0x10000000000000 then .host
  else .reserved

/-- A translation: the frame, the page's size, its class, its home die, the physical address of the leaf. -/
structure Leaf where
  pa : Nat
  size : Nat
  cls : BitVec 3
  home : BitVec 6
  pte : BitVec 52
  deriving DecidableEq, Repr

/-- The page sizes a class allows (R215). -/
def classSizeOk (cls : BitVec 3) (level : Nat) : Bool :=
  cls == 0 || cls == 1 || cls == 5 || level == 4

/-- The page size a leaf's level gives (R364). -/
def levelSize : Nat → Nat
  | 2 => 0x40000000
  | 3 => 0x200000
  | _ => 0x10000

/-- A leaf entry at a level, if it is well formed (R364, R214, R409). -/
def leafOf (e : Word) (level : Nat) (pte : Nat) : Option Leaf :=
  let pa := (e.extractLsb' 16 36).toNat * 0x10000
  let cls := e.extractLsb' 55 3
  if level < 2 then none
  else if e.extractLsb' 52 3 ≠ 0 ∨ e.extractLsb' 2 14 ≠ 0 then none
  else if cls = 7 ∨ !classSizeOk cls level then none
  else if pa % levelSize level ≠ 0 then none
  else match physOf pa with
    | .reserved => none
    | .host => if cls = 0 ∨ cls = 6 then some ⟨pa, levelSize level, cls, e.extractLsb' 58 6, BitVec.ofNat 52 pte⟩ else none
    | .device => if cls = 6 then some ⟨pa, levelSize level, cls, e.extractLsb' 58 6, BitVec.ofNat 52 pte⟩ else none
    | .hbm => some ⟨pa, levelSize level, cls, e.extractLsb' 58 6, BitVec.ofNat 52 pte⟩

/-- The index of a virtual address at a level (R364). -/
def levelIndex (va : Nat) : Nat → Nat
  | 1 => va / 2 ^ 39 % 512
  | 2 => va / 2 ^ 30 % 512
  | 3 => va / 2 ^ 21 % 512
  | _ => va / 2 ^ 16 % 32

/-- The next table of a well-formed pointer entry at a level's table, where its table may lie (R364). -/
def tableNext (table : Nat) (e : Word) : Option Nat :=
  if physOf table = .reserved ∨ physOf table = .device ∨ e.getLsbD 0 = false ∨ e.getLsbD 1 then none
  else if e.extractLsb' 52 12 ≠ 0 ∨ e.extractLsb' 2 6 ≠ 0 then none
  else some ((e.extractLsb' 8 44).toNat * 256)

/-- The walk from a table at a level, with `n` levels left (R364); `rd` reads a word of a table. A pointer may name a table
that is not aligned to its size: the rule does not call it malformed, and the walk uses it as it stands (DESIGN CHOICE, log
entry 117). -/
def walkFrom (rd : Nat → Word) (va : Nat) : Nat → Nat → Nat → Option Leaf
  | 0, _, _ => none
  | n + 1, level, table =>
    let at_ := table + 8 * levelIndex va level
    let e := rd at_
    if physOf table = .reserved ∨ physOf table = .device then none
    else if e.getLsbD 0 && e.getLsbD 1 then leafOf e level at_
    else match tableNext table e with
      | none => none
      | some t => walkFrom rd va n (level + 1) t

/-- The ASID table entry of an address space (R363). -/
def State.asidEntry (s : State) (a : BitVec 16) : Word × Word := (lookup? s.tables.asids a).getD (0, 0)

/-- The root of the tables of a job (R363). -/
def State.rootOf (s : State) (a : BitVec 16) : Nat := ((s.asidEntry a).1.extractLsb' 12 40).toNat * 4096

/-- The die of a core's index (R13). -/
def dieOfCore (c : BitVec 15) : BitVec 6 :=
  BitVec.ofNat 6 (if c.toNat < 16384 then c.toNat / 256 else (c.toNat - 16384) / 8)

/-- The die a TLB lies on. -/
def TlbUnit.die : TlbUnit → BitVec 6
  | .instr c => dieOfCore c
  | .data c => dieOfCore c
  | .l2 d _ => d

/-- The leaf a TLB holds of an address (R365). -/
def State.cachedLeaf (s : State) (u : TlbUnit) (a : BitVec 16) (va : Nat) : Option Leaf :=
  (s.caches.tlbs.find? (fun e => decide (e.unit = u) && e.asid == a
      && decide (e.va.toNat ≤ va) && decide (va < e.va.toNat + e.size.toNat))).bind
    (fun e => leafOf e.leaf (if e.size.toNat = 0x40000000 then 2 else if e.size.toNat = 0x200000 then 3 else 4) e.leafPA.toNat)

/-- The class of an APPEND or SEALED page is judged at its home (R229, R230, R365): a leaf read before a seal or before a
free has completed stands for the page as it is now. -/
def State.judged (s : State) (l : Leaf) : Leaf :=
  if l.cls = 2 ∨ l.cls = 3 then
    match s.caches.appendPages.find? (fun g => decide (g.page.toNat * 65536 = l.pa)) with
    | some g => { l with cls := if g.isSealed then 3 else 2 }
    | none => l
  else l

-- Mapped stash lines (R220).

/-- The line base of a key. -/
def lineOf (k : Nat) : Nat := k / 64 * 64

/-- The map entry that covers a stash offset. -/
def State.stashMapOf (s : State) (d : BitVec 6) (p : BitVec 5) (o : Nat) : Option StashMap :=
  s.caches.stashMaps.find? (fun m => m.die == d && m.pool == p && decide (m.off.toNat ≤ o) && decide (o < m.off.toNat + m.len.toNat))

/-- The leaf of the global line that a mapped stash offset stands for, with the line's address: by the L2 TLB of its pool and
tables as memory holds them. -/
def State.stashLeaf (s : State) (d : BitVec 6) (p : BitVec 5) (o : Nat) : Option (Leaf × Nat) :=
  (s.stashMapOf d p o).bind (fun m =>
    let va := m.base.toNat + (lineOf o - m.off.toNat)
    (match s.cachedLeaf (.l2 d p) m.asid va with
      | some l => some l
      | none => walkFrom (Memory.read64 s.mem) va 4 1 (s.rootOf m.asid)).map (fun l => (l, l.pa + va % l.size)))

/-- The physical line a mapped stash offset stands for. -/
def State.stashGlobal (s : State) (d : BitVec 6) (p : BitVec 5) (o : Nat) : Option Nat := (s.stashLeaf d p o).map (·.2)

/-- The mapped stash line that holds newer data of a physical line than its home (R220). -/
def State.dirtyStash (s : State) (line : Nat) : Option StashLine :=
  s.caches.stashLines.find? (fun r => r.dirty && decide (s.stashGlobal r.die r.pool r.off.toNat = some line))

/-- The bytes of a NORMAL or CONST line as its home would give them after its probes: a Dirty mapped stash line supplies
them (R220). -/
def State.homeBytes (s : State) (pa n : Nat) : List Byte :=
  match s.dirtyStash (lineOf pa) with
  | some r => Memory.getMany s.mem (keysFrom (stashKey r.die r.pool r.off.toNat + pa % 64) n)
  | none => Memory.getMany s.mem (keysFrom pa n)

-- Walks (R22, R364, R365).

/-- The word of a table that a walker reads, with .u at its home (R365). -/
def State.tableWord (s : State) (k : Nat) : Word := BitVec.ofNat 64 (natOfBytes (s.homeBytes k 8))

/-- The walk of an address of a job (R364). -/
def State.walk (s : State) (a : BitVec 16) (va : Nat) : Option Leaf := walkFrom s.tableWord va 4 1 (s.rootOf a)

/-- The first line of the tables of a walk that its home cannot serve now. -/
def State.walkStopFrom (s : State) (va : Nat) : Nat → Nat → Nat → Option Nat
  | 0, _, _ => none
  | n + 1, level, table =>
    let at_ := table + 8 * levelIndex va level
    if physOf table = .reserved ∨ physOf table = .device then none
    else if s.homeShut (lineOf at_) (s.homeOf (BitVec.ofNat 52 at_)) then some (lineOf at_)
    else match tableNext table (s.tableWord at_) with
      | none => none
      | some t => s.walkStopFrom va n (level + 1) t

/-- The line at which the walker of an address waits: its home sleeps, or has a transaction on it (R22, R295, R365; log entry
114). -/
def State.walkStop (s : State) (a : BitVec 16) (va : Nat) : Option Nat := s.walkStopFrom va 4 1 (s.rootOf a)

/-- A walker that waits wakes the layer of the home it needs (R22). -/
def State.rouseWalk (s : State) (a : BitVec 16) (va : Nat) : State :=
  match s.walkStop a va with
  | some l => if isHbm (BitVec.ofNat 52 l) then s.rouse (s.homeOf (BitVec.ofNat 52 l)) else s
  | none => s

/-- The leaf of an address by way of some TLBs, in order, and a walk that nothing holds up (R365). -/
def State.leafVia (s : State) (us : List TlbUnit) (a : BitVec 16) (va : Nat) : Option Leaf :=
  (match us.findSome? (fun u => s.cachedLeaf u a va) with
    | some l => some l
    | none => if (s.walkStop a va).isSome then none else s.walk a va).map s.judged

/-- The translation of an address waits for its walker. -/
def State.walkWaits (s : State) (us : List TlbUnit) (a : BitVec 16) (va : Nat) : Bool :=
  us.all (fun u => (s.cachedLeaf u a va).isNone) && (s.walkStop a va).isSome

/-- The leaf of an address as the L2 TLB of a pool and its walkers give it. -/
def State.leafOfVa (s : State) (d : BitVec 6) (p : BitVec 5) (a : BitVec 16) (va : Nat) : Option Leaf :=
  s.leafVia [.l2 d p] a va

/-- The address space of a thread's job: LAUNCHID [27:12] (R116). -/
def Thread.asid (t : Thread) : BitVec 16 := t.launchid.extractLsb' 12 16

/-- The TLBs that serve the data accesses of a thread (R365). -/
def Thread.dataTlbs (t : Thread) : List TlbUnit := [.data (coreOf t.hwid), .l2 (dieOf t.hwid) (poolOf t.hwid)]

/-- The leaf of an address of a thread's job. -/
def State.leaf? (s : State) (t : Thread) (va : Nat) : Option Leaf := s.leafVia t.dataTlbs t.asid va

/-- What a check reports that must wait for a walker: no cause of the machine (R389), so that nothing is raised. -/
def walkCode : BitVec 7 := 0x7F

/-- What a check reports of an address of a thread without a leaf: LEASE (R214), or that its walker waits (R22). -/
def State.noLeaf (s : State) (t : Thread) (va : Nat) : BitVec 7 × Word :=
  (if s.walkWaits t.dataTlbs t.asid va then walkCode else 0x04, BitVec.ofNat 64 va)

/-- Each byte of a 64 KiB-aligned unit lies under one lease with every right the access needs (R213): leases are multiples
of 64 KiB, so one byte decides for its unit. -/
def leased (ls : List LeaseC) (va : Nat) (r w : Bool) : Bool :=
  ls.any (fun l => (!r || l.r) && (!w || l.w) && decide (l.base.toNat ≤ va) && decide (va < l.base.toNat + l.len.toNat))

/-- The virtual ranges of R210. -/
inductive Space
  | job
  | stash (off : Nat)
  | arg (off : Nat)
  | bad
  deriving DecidableEq, Repr

/-- Which range the `n` bytes at an address lie in; an access that leaves its range is bad (R210). -/
def spaceOf (va : Nat) (n : Nat) : Space :=
  if va + n ≤ 0x800000000000 then .job
  else if 0x800000000000 ≤ va ∧ va + n ≤ 0x800000100000 then .stash (va - 0x800000000000)
  else if 0x800000100000 ≤ va ∧ va + n ≤ 0x800000900000 then .arg (va - 0x800000100000)
  else .bad

/-- POOLBn as a byte offset (R116, R217). -/
def poolB (w : Word) : Nat := (w.extractLsb' 12 9).toNat * 4096

-- Instruction fetch (R449, R402, R144).

/-- The TLBs that serve the fetches of a thread, the core's instruction TLB first (R365). -/
def Thread.fetchTlbs (t : Thread) : List TlbUnit := [.instr (coreOf t.hwid), .l2 (dieOf t.hwid) (poolOf t.hwid)]

/-- The leaf a fetch goes by. -/
def State.fetchLeaf (s : State) (t : Thread) (va : Nat) : Option Leaf := s.leafVia t.fetchTlbs t.asid va

/-- The physical address a fetch reads, if the page accepts fetches (R449). -/
def State.fetchPA (s : State) (t : Thread) (va : Nat) : Option Nat :=
  if va + 4 ≤ 0x800000000000 then
    match s.fetchLeaf t va with
    | some l => if l.cls = 0 ∨ l.cls = 5 then some (l.pa + va % l.size) else none
    | none => none
  else none

/-- The I-cache block that holds an address for a thread (R144). -/
def State.iblock? (s : State) (t : Thread) (pa : Nat) : Option IBlock :=
  s.caches.iblocks.find? (fun b => b.die == dieOf t.hwid && b.pool == poolOf t.hwid && b.pa.toNat == pa / 32 * 32)

/-- The four bytes a class I-cache holds of an address, or those the home gives (R144). -/
def State.fetchBytes (s : State) (t : Thread) (pa : Nat) : List Byte :=
  match s.iblock? t pa with
  | some b => bytesOfNat 4 (b.bytes.toNat / 2 ^ (8 * (pa % 32)))
  | none => s.homeBytes pa 4

/-- The word at the pc of a thread, if it can be fetched. -/
def State.fetchWord (s : State) (t : Thread) : Option (BitVec 32) :=
  (s.fetchPA t t.pc.toNat).map (fun pa => BitVec.ofNat 32 (natOfBytes (s.fetchBytes t pa)))

/-- The word of the current instruction as stored in memory, which TVAL and the fault record quote (R191, R389, R400). -/
def State.insn (s : State) : BitVec 32 := (s.fetchWord s.th).getD 0

/-- The current instruction raises a cause, or waits for the walker of an address. -/
def State.raise (s : State) (code : BitVec 7) (tval : Word) : State :=
  if code = walkCode then s.rouseWalk s.th.asid tval.toNat else s.raiseWith code tval s.insn

/-- A meaning that ends in a cause of its own instruction. -/
def State.trap (s : State) (code : BitVec 7) (tval : Word) : Out := .next (s.raise code tval)

/-- ILLEGAL at the current instruction, for a check that needs the thread's kind (R111). -/
def State.illegal (s : State) : Out := s.trap 0x01 (s.insn.zeroExtend 64)

/-- TVAL of a PERM with a reason code (R191, R334, R376): the instruction word and the reason. -/
def State.reasonTval (s : State) (reason : BitVec 8) : Word :=
  BitVec.ofNat 64 (s.insn.toNat * 2 ^ 32 + reason.toNat)

/-- PERM with a reason code. -/
def State.perm (s : State) (reason : BitVec 8) : Out := s.trap 0x05 (s.reasonTval reason)

/-- Finish a checked meaning: its cause, or the next state. -/
def State.finish (s : State) : Chk State → Out
  | .ok s' => .next s'
  | .error (c, v) => s.trap c v

-- HMOD and HIMM fields of the current group (R63, R64).

/-- The HMOD payload before the current instruction, 0 without one. -/
def Thread.hmod (t : Thread) : BitVec 22 := (t.pfx.bind (·.hmod)).getD 0

/-- The element width in bits that HMOD ew selects (R64). -/
def Thread.ew (t : Thread) : Nat :=
  match t.hmod.extractLsb' 20 2 with
  | 0 => 32
  | 1 => 16
  | 2 => 8
  | _ => 64

/-- HMOD keep. -/
def Thread.keep (t : Thread) : Bool := t.hmod.getLsbD 19

/-- HMOD sat. -/
def Thread.sat (t : Thread) : Bool := t.hmod.getLsbD 10

/-- The scope of an ordered access: HMOD's, or MODULE (R55). -/
def Thread.hscope (t : Thread) : BitVec 3 := if t.hmod.getLsbD 9 then t.hmod.extractLsb' 16 3 else 5

/-- The request type of an instruction without the field: HMOD's, or owned (R240). -/
def Thread.hrq (t : Thread) : BitVec 2 := if t.hmod.getLsbD 11 then t.hmod.extractLsb' 12 2 else 0

/-- An immediate of `w` bits widened by HIMM, sign-extended (R52, R63): the whole as an integer. -/
def Thread.imm (t : Thread) (w : Nat) (x : BitVec w) : Int :=
  match t.pfx.bind (·.himm) with
  | some h => (h ++ x).toInt
  | none => x.toInt

end Sys2Proof.Machine
end

