-- ==== Sys2Proof/Machine/Scalar.lean ====
section
/-! DEFINITION. The scalar integer instructions (R125 to R131): each computes on raw 64-bit values and writes its
destination with tail 00, but for MOV. -/

namespace Sys2Proof.Machine

/-- A register-register operation (R126). -/
def State.int2 (s : State) (d a b : BitVec 6) (f : Word → Word → Word) : Out := (s.ws d (f (s.rs a) (s.rs b))).retire

/-- A one-source operation (R126). -/
def State.int1 (s : State) (d a : BitVec 6) (f : Word → Word) : Out := (s.ws d (f (s.rs a))).retire

/-- An immediate form (R129): the 14-bit field, or the 36-bit value of R63, sign-extended. -/
def State.intI (s : State) (d a : BitVec 6) (i : BitVec 14) (f : Word → Word → Word) : Out :=
  (s.ws d (f (s.rs a) (BitVec.ofInt 64 (s.th.imm 14 i)))).retire

/-- 1 or 0. -/
def flag (b : Bool) : Word := if b then 1 else 0

/-- sh6: the low six bits of a shift amount (R126). -/
def sh6 (x : Word) : Nat := (x.extractLsb' 0 6).toNat

/-- sh5: the low five bits of a shift amount (R126). -/
def sh5 (x : Word) : Nat := (x.extractLsb' 0 5).toNat

/-- The low word sign-extended (R126). -/
def sextW (x : BitVec 32) : Word := x.signExtend 64

/-- DIV (R126, R127): the quotient truncated towards zero; -1 by a zero divisor. -/
def divS (x y : Word) : Word := if y = 0 then -1 else BitVec.ofInt 64 (x.toInt.tdiv y.toInt)

/-- DIVU (R127). -/
def divU (x y : Word) : Word := if y = 0 then -1 else x / y

/-- REM (R126, R127): the remainder has the sign of the dividend, which a zero divisor returns. -/
def remS (x y : Word) : Word := if y = 0 then x else BitVec.ofInt 64 (x.toInt.tmod y.toInt)

/-- REMU (R127). -/
def remU (x y : Word) : Word := if y = 0 then x else x % y

/-- Leading zero bits (R126). -/
def clzW (x : Word) : Nat := ((List.range 64).find? (fun i => x.getLsbD (63 - i))).getD 64

/-- Trailing zero bits (R126). -/
def ctzW (x : Word) : Nat := ((List.range 64).find? (fun i => x.getLsbD i)).getD 64

/-- One bits (R126). -/
def popcW (x : Word) : Nat := ((List.range 64).filter (fun i => x.getLsbD i)).length

/-- Bit i moved to bit 63 - i (R126). -/
def brevW (x : Word) : Word := x.reverse

/-- Byte i moved to byte 7 - i (R126). -/
def bswapW (x : Word) : Word := BitVec.ofNat 64 (natOfBytes (bytesOfNat 8 x.toNat).reverse)

/-- The low bits of a width code: 8, 16 or 32 (R128). -/
def widthOf (w : BitVec 6) : Nat := if w = 0 then 8 else if w = 1 then 16 else 32

/-- SEXT (R126). -/
def sextN (n : Nat) (x : Word) : Word := (x.setWidth n).signExtend 64

/-- ZEXT (R126). -/
def zextN (n : Nat) (x : Word) : Word := (x.setWidth n).zeroExtend 64

/-- ADD (R126). -/
def execAdd (d a b : BitVec 6) (s : State) : Out := s.int2 d a b (fun x y => x + y)

/-- SUB (R126). -/
def execSub (d a b : BitVec 6) (s : State) : Out := s.int2 d a b (fun x y => x - y)

/-- AND (R126). -/
def execAnd (d a b : BitVec 6) (s : State) : Out := s.int2 d a b (fun x y => x &&& y)

/-- OR (R126). -/
def execOr (d a b : BitVec 6) (s : State) : Out := s.int2 d a b (fun x y => x ||| y)

/-- XOR (R126). -/
def execXor (d a b : BitVec 6) (s : State) : Out := s.int2 d a b (fun x y => x ^^^ y)

/-- ANDN (R126). -/
def execAndn (d a b : BitVec 6) (s : State) : Out := s.int2 d a b (fun x y => x &&& ~~~y)

/-- ORN (R126). -/
def execOrn (d a b : BitVec 6) (s : State) : Out := s.int2 d a b (fun x y => x ||| ~~~y)

/-- XNOR (R126). -/
def execXnor (d a b : BitVec 6) (s : State) : Out := s.int2 d a b (fun x y => ~~~(x ^^^ y))

/-- SHL (R126). -/
def execShl (d a b : BitVec 6) (s : State) : Out := s.int2 d a b (fun x y => x <<< sh6 y)

/-- SHR (R126). -/
def execShr (d a b : BitVec 6) (s : State) : Out := s.int2 d a b (fun x y => x >>> sh6 y)

/-- SRA (R126). -/
def execSra (d a b : BitVec 6) (s : State) : Out := s.int2 d a b (fun x y => x.sshiftRight (sh6 y))

/-- ROL (R126). -/
def execRol (d a b : BitVec 6) (s : State) : Out := s.int2 d a b (fun x y => x.rotateLeft (sh6 y))

/-- ROR (R126). -/
def execRor (d a b : BitVec 6) (s : State) : Out := s.int2 d a b (fun x y => x.rotateRight (sh6 y))

/-- MIN (R126). -/
def execMin (d a b : BitVec 6) (s : State) : Out := s.int2 d a b (fun x y => if x.slt y then x else y)

/-- MAX (R126). -/
def execMax (d a b : BitVec 6) (s : State) : Out := s.int2 d a b (fun x y => if x.slt y then y else x)

/-- MINU (R126). -/
def execMinu (d a b : BitVec 6) (s : State) : Out := s.int2 d a b (fun x y => if x.ult y then x else y)

/-- MAXU (R126). -/
def execMaxu (d a b : BitVec 6) (s : State) : Out := s.int2 d a b (fun x y => if x.ult y then y else x)

/-- SLT (R126). -/
def execSlt (d a b : BitVec 6) (s : State) : Out := s.int2 d a b (fun x y => flag (x.slt y))

/-- SLTU (R126). -/
def execSltu (d a b : BitVec 6) (s : State) : Out := s.int2 d a b (fun x y => flag (x.ult y))

/-- SEQ (R126). -/
def execSeq (d a b : BitVec 6) (s : State) : Out := s.int2 d a b (fun x y => flag (x == y))

/-- SNE (R126). -/
def execSne (d a b : BitVec 6) (s : State) : Out := s.int2 d a b (fun x y => flag (x != y))

/-- MUL (R126). -/
def execMul (d a b : BitVec 6) (s : State) : Out := s.int2 d a b (fun x y => x * y)

/-- MULH (R126). -/
def execMulh (d a b : BitVec 6) (s : State) : Out := s.int2 d a b (fun x y => BitVec.ofInt 64 (x.toInt * y.toInt / 2 ^ 64))

/-- MULHU (R126). -/
def execMulhu (d a b : BitVec 6) (s : State) : Out := s.int2 d a b (fun x y => BitVec.ofNat 64 (x.toNat * y.toNat / 2 ^ 64))

/-- DIV (R127). -/
def execDiv (d a b : BitVec 6) (s : State) : Out := s.int2 d a b (fun x y => divS x y)

/-- DIVU (R127). -/
def execDivu (d a b : BitVec 6) (s : State) : Out := s.int2 d a b (fun x y => divU x y)

/-- REM (R127). -/
def execRem (d a b : BitVec 6) (s : State) : Out := s.int2 d a b (fun x y => remS x y)

/-- REMU (R127). -/
def execRemu (d a b : BitVec 6) (s : State) : Out := s.int2 d a b (fun x y => remU x y)

/-- ADDW (R126). -/
def execAddw (d a b : BitVec 6) (s : State) : Out := s.int2 d a b (fun x y => sextW ((x + y).setWidth 32))

/-- SUBW (R126). -/
def execSubw (d a b : BitVec 6) (s : State) : Out := s.int2 d a b (fun x y => sextW ((x - y).setWidth 32))

/-- MULW (R126). -/
def execMulw (d a b : BitVec 6) (s : State) : Out := s.int2 d a b (fun x y => sextW (x.setWidth 32 * y.setWidth 32))

/-- SHLW (R126). -/
def execShlw (d a b : BitVec 6) (s : State) : Out := s.int2 d a b (fun x y => sextW (x.setWidth 32 <<< sh5 y))

/-- SHRW (R126). -/
def execShrw (d a b : BitVec 6) (s : State) : Out := s.int2 d a b (fun x y => sextW (x.setWidth 32 >>> sh5 y))

/-- SRAW (R126). -/
def execSraw (d a b : BitVec 6) (s : State) : Out := s.int2 d a b (fun x y => (sextW (x.setWidth 32)).sshiftRight (sh5 y))

/-- CLZ (R126). -/
def execClz (d a : BitVec 6) (s : State) : Out := s.int1 d a (fun x => BitVec.ofNat 64 (clzW x))

/-- CTZ (R126). -/
def execCtz (d a : BitVec 6) (s : State) : Out := s.int1 d a (fun x => BitVec.ofNat 64 (ctzW x))

/-- POPC (R126). -/
def execPopc (d a : BitVec 6) (s : State) : Out := s.int1 d a (fun x => BitVec.ofNat 64 (popcW x))

/-- BREV (R126). -/
def execBrev (d a : BitVec 6) (s : State) : Out := s.int1 d a (fun x => brevW x)

/-- BSWAP (R126). -/
def execBswap (d a : BitVec 6) (s : State) : Out := s.int1 d a (fun x => bswapW x)

/-- SEXT (R128). -/
def execSext (d a w : BitVec 6) (s : State) : Out := s.int1 d a (sextN (widthOf w))

/-- ZEXT (R128). -/
def execZext (d a w : BitVec 6) (s : State) : Out := s.int1 d a (zextN (widthOf w))

/-- MOV (R88, R125): the source image with its tail. -/
def execMov (d a : BitVec 6) (s : State) : Out := (s.wsImg d (s.th.getS a)).retire

/-- ADDI (R129). -/
def execAddi (d a : BitVec 6) (i : BitVec 14) (s : State) : Out := s.intI d a i (fun x y => x + y)

/-- ANDI (R129). -/
def execAndi (d a : BitVec 6) (i : BitVec 14) (s : State) : Out := s.intI d a i (fun x y => x &&& y)

/-- ORI (R129). -/
def execOri (d a : BitVec 6) (i : BitVec 14) (s : State) : Out := s.intI d a i (fun x y => x ||| y)

/-- XORI (R129). -/
def execXori (d a : BitVec 6) (i : BitVec 14) (s : State) : Out := s.intI d a i (fun x y => x ^^^ y)

/-- SLTI (R129). -/
def execSlti (d a : BitVec 6) (i : BitVec 14) (s : State) : Out := s.intI d a i (fun x y => flag (x.slt y))

/-- SLTIU (R129). -/
def execSltiu (d a : BitVec 6) (i : BitVec 14) (s : State) : Out := s.intI d a i (fun x y => flag (x.ult y))

/-- SHLI (R130). -/
def execShli (d a : BitVec 6) (i : BitVec 6) (s : State) : Out := s.int1 d a (fun x => x <<< i.toNat)

/-- SHRI (R130). -/
def execShri (d a : BitVec 6) (i : BitVec 6) (s : State) : Out := s.int1 d a (fun x => x >>> i.toNat)

/-- SRAI (R130). -/
def execSrai (d a : BitVec 6) (i : BitVec 6) (s : State) : Out := s.int1 d a (fun x => x.sshiftRight i.toNat)

/-- RORI (R130). -/
def execRori (d a : BitVec 6) (i : BitVec 6) (s : State) : Out := s.int1 d a (fun x => x.rotateRight i.toNat)

/-- k of LHI and PCHI (R131): the field, or payload and field, times 8192. -/
def Thread.hiImm (t : Thread) (i : BitVec 20) : Word := BitVec.ofInt 64 (t.imm 20 i * 8192)

/-- LHI (R131). -/
def execLhi (d : BitVec 6) (i : BitVec 20) (s : State) : Out := (s.ws d (s.th.hiImm i)).retire

/-- PCHI (R131): pc is the address of the PCHI word itself. -/
def execPchi (d : BitVec 6) (i : BitVec 20) (s : State) : Out := (s.ws d (s.th.pc + s.th.hiImm i)).retire

end Sys2Proof.Machine
end

