-- ==== Sys2Proof/Machine/Control.lean ====
section
/-! DEFINITION. Control instructions (R132 to R144), exception raising and return (R396, R397), and hints (R62 to R66). -/

namespace Sys2Proof.Machine

-- Branches and jumps.

/-- A pc-relative target of `k` words (R61), as a signed number. -/
def Thread.target (t : Thread) (k : Int) : Int := t.pc.toNat + 4 * k

/-- A target beyond 48 bits (R132). -/
def targetBad (x : Int) : Bool := decide (x < 0) || decide (2 ^ 48 ≤ x)

/-- A taken transfer to a signed target: FETCH when it is beyond 48 bits (R132). -/
def State.jumpTo (s : State) (x : Int) (f : Thread → Thread) : Out :=
  if targetBad x then s.trap 0x10 (BitVec.ofInt 64 x)
  else .next { s with th := (f s.th).jump (BitVec.ofInt 64 x) }

/-- BR (R132). -/
def State.branch (s : State) (taken : Bool) (o : BitVec 11) : Out :=
  if taken then s.jumpTo (s.th.target o.toInt) id else s.retire

/-- BEQ (R132). -/
def execBeq (a b : BitVec 6) (o : BitVec 11) (s : State) : Out := s.branch (s.rs a == s.rs b) o

/-- BNE (R132). -/
def execBne (a b : BitVec 6) (o : BitVec 11) (s : State) : Out := s.branch (s.rs a != s.rs b) o

/-- BLT (R132). -/
def execBlt (a b : BitVec 6) (o : BitVec 11) (s : State) : Out := s.branch ((s.rs a).slt (s.rs b)) o

/-- BGE (R132). -/
def execBge (a b : BitVec 6) (o : BitVec 11) (s : State) : Out := s.branch (!(s.rs a).slt (s.rs b)) o

/-- BLTU (R132). -/
def execBltu (a b : BitVec 6) (o : BitVec 11) (s : State) : Out := s.branch ((s.rs a).ult (s.rs b)) o

/-- BGEU (R132). -/
def execBgeu (a b : BitVec 6) (o : BitVec 11) (s : State) : Out := s.branch (!(s.rs a).ult (s.rs b)) o

/-- Write the link of a jump: the address of the next word (R133). -/
def Thread.link (t : Thread) (d : BitVec 6) : Thread := t.setS d ⟨t.pc + 4, 0⟩

/-- JAL (R133). -/
def execJal (d : BitVec 6) (o : BitVec 20) (s : State) : Out := s.jumpTo (s.th.target o.toInt) (·.link d)

/-- JALR (R133): alignment is checked before range; no link when it traps. -/
def execJalr (d a : BitVec 6) (i : BitVec 14) (s : State) : Out :=
  let x := s.rs a + BitVec.ofInt 64 (s.th.imm 14 i)
  if x.extractLsb' 0 2 ≠ 0 then s.trap 0x03 x
  else if x.extractLsb' 48 16 ≠ 0 then s.trap 0x10 x
  else .next { s with th := (s.th.link d).jump x }

-- The loop stack.

/-- LOOP (R134). -/
def execLoop (l a : BitVec 6) (i : BitVec 14) (s : State) : Out :=
  let t := s.th
  let e := t.pc + 4 * i.zeroExtend 64
  if l.toNat ≠ t.depth then s.trap 0x11 t.ldepth
  else if 0 < l.toNat ∧ (loopAddr (four t.le (l.toNat - 1))).toNat < e.toNat then s.trap 0x11 t.ldepth
  else if s.rs a = 0 then .next { s with th := t.jump (e + 4) }
  else
    State.retire { s with th := { t with
      lb := t.lb.setIfInBounds l.toNat (loopAddr (t.pc + 4))
      le := t.le.setIfInBounds l.toNat (loopAddr e)
      ln := t.ln.setIfInBounds l.toNat (s.rs a)
      ldepth := BitVec.ofNat 64 (l.toNat + 1) } }

/-- LBRK (R136): the innermost level closes and the step is made for its end. -/
def execLbrk (s : State) : Out :=
  let t := s.th
  if t.depth = 0 then s.trap 0x11 0
  else
    let k := t.depth - 1
    let t' := { t.count.endGroup with ln := t.ln.setIfInBounds k 0, ldepth := BitVec.ofNat 64 k }
    .next { s with th := loopEnd (loopAddr (four t.le k)) 4 t' }

-- Control registers.

/-- The grace period of a launch in microseconds (R25): 0 selects 1,000. -/
def Launch.grace (r : Launch) : Nat :=
  let g := ((r.packet.headD 0).extractLsb' 49 15).toNat
  if g = 0 then 1000 else g

/-- Periods of the nominal clock in a microsecond (R118: 2.7 GHz). -/
def cyclesPerUs : Nat := 2700

/-- The last cycle of a grace period (R45). -/
def graceEnd (r : Launch) (since : Nat) : Nat := since + r.grace * cyclesPerUs

/-- PREEMPT (R119): PEND from the cycle after the request, GLEFT the microseconds left rounded up, at least 1. -/
def State.preemptReg (s : State) (t : Thread) : Word :=
  match s.gangOf t with
  | none => 0
  | some (r, g) =>
    match g.preempt with
    | none => 0
    | some c =>
      if c < s.cycle then
        let left := (graceEnd r c - s.cycle + (cyclesPerUs - 1)) / cyclesPerUs
        BitVec.ofNat 64 (1 + 65536 * (min (max left 1) 0xFFFF))
      else 0

/-- The value of a control register, if the number is assigned and the thread has it (R110, R111, R139). -/
def State.readCtl (s : State) (n : BitVec 14) : Option Word :=
  let t := s.th
  match n.toNat with
  | 0x000 => some t.fcsr
  | 0x010 => some (four t.lb 0)
  | 0x011 => some (four t.lb 1)
  | 0x012 => some (four t.lb 2)
  | 0x013 => some (four t.lb 3)
  | 0x014 => some (four t.le 0)
  | 0x015 => some (four t.le 1)
  | 0x016 => some (four t.le 2)
  | 0x017 => some (four t.le 3)
  | 0x018 => some (four t.ln 0)
  | 0x019 => some (four t.ln 1)
  | 0x01A => some (four t.ln 2)
  | 0x01B => some (four t.ln 3)
  | 0x01C => some t.ldepth
  | 0x020 => some t.tvec
  | 0x021 => some t.tpc
  | 0x022 => some t.tcause
  | 0x023 => some t.tval
  | 0x024 => some t.tseq
  | 0x025 => some t.repleft
  | 0x026 => some t.valid
  | 0x028 => some (four t.tsave 0)
  | 0x029 => some (four t.tsave 1)
  | 0x02A => some (four t.tsave 2)
  | 0x02B => some (four t.tsave 3)
  | 0x030 => some t.taskid
  | 0x031 => some t.gangid
  | 0x032 => some t.launchid
  | 0x033 => some t.geomdim
  | 0x034 => some t.geompos
  | 0x035 => some t.argp
  | 0x040 => some (t.hwid.zeroExtend 64)
  | 0x041 => some (BitVec.ofNat 64 s.cycle)
  | 0x042 => some t.instret
  | 0x050 => some t.poolb1
  | 0x051 => some t.poolb2
  | 0x052 => some t.poolb3
  | 0x060 => some t.shipto
  | 0x061 => if isB t.hwid then some ((s.bcore (bcoreOf t.hwid)).gshare.zeroExtend 64) else none
  | 0x062 => some (s.preemptReg t)
  | _ => none

/-- FCSR after a write (R112): reserved bits are dropped; a rounding mode above 4 is ignored. -/
def fcsrWrite (old v : Word) : Word :=
  let w := v &&& 0x1FFF
  if 4 < (v.extractLsb' 10 3).toNat then (w &&& 0x3FF) ||| (old &&& 0x1C00) else w

/-- LDEPTH after a write (R114): a depth above 4 is ignored. -/
def ldepthWrite (old v : Word) : Word := if 4 < (v.extractLsb' 0 3).toNat then old else v &&& 7

/-- A thread after MOVTC to a register of its own (R140); a read-only register keeps its value (R6). -/
def Thread.writeCtl (t : Thread) (n : BitVec 14) (v : Word) : Thread :=
  match n.toNat with
  | 0x000 => { t with fcsr := fcsrWrite t.fcsr v }
  | 0x010 => { t with lb := t.lb.setIfInBounds 0 (loopAddr v) }
  | 0x011 => { t with lb := t.lb.setIfInBounds 1 (loopAddr v) }
  | 0x012 => { t with lb := t.lb.setIfInBounds 2 (loopAddr v) }
  | 0x013 => { t with lb := t.lb.setIfInBounds 3 (loopAddr v) }
  | 0x014 => { t with le := t.le.setIfInBounds 0 (loopAddr v) }
  | 0x015 => { t with le := t.le.setIfInBounds 1 (loopAddr v) }
  | 0x016 => { t with le := t.le.setIfInBounds 2 (loopAddr v) }
  | 0x017 => { t with le := t.le.setIfInBounds 3 (loopAddr v) }
  | 0x018 => { t with ln := t.ln.setIfInBounds 0 v }
  | 0x019 => { t with ln := t.ln.setIfInBounds 1 v }
  | 0x01A => { t with ln := t.ln.setIfInBounds 2 v }
  | 0x01B => { t with ln := t.ln.setIfInBounds 3 v }
  | 0x01C => { t with ldepth := ldepthWrite t.ldepth v }
  | 0x020 => { t with tvec := loopAddr v }
  | 0x021 => { t with tpc := loopAddr v }
  | 0x022 => { t with tcause := v &&& 0xFF }
  | 0x023 => { t with tval := v }
  | 0x024 => { t with tseq := v &&& 0xFFFF }
  | 0x025 => { t with repleft := v &&& 0x7F }
  | 0x026 => { t with valid := v &&& 0xFF }
  | 0x028 => { t with tsave := t.tsave.setIfInBounds 0 v }
  | 0x029 => { t with tsave := t.tsave.setIfInBounds 1 v }
  | 0x02A => { t with tsave := t.tsave.setIfInBounds 2 v }
  | 0x02B => { t with tsave := t.tsave.setIfInBounds 3 v }
  | _ => t

/-- GSHARE.W after a write (R119): the whole value is compared with 16. -/
def gshareOf (v : Word) : BitVec 5 := if 16 < v.toNat then 16 else v.extractLsb' 0 5

/-- MOVC (R139). -/
def execMovc (d : BitVec 6) (i : BitVec 14) (s : State) : Out :=
  match s.readCtl i with
  | none => s.illegal
  | some v => (s.ws d v).retire

/-- MOVTC (R140). -/
def execMovtc (a : BitVec 6) (i : BitVec 14) (s : State) : Out :=
  match s.readCtl i with
  | none => s.illegal
  | some _ =>
    if i = 0x061 then
      if s.th.priv then
        let b := bcoreOf s.th.hwid
        (s.putBCore b { s.bcore b with gshare := gshareOf (s.rs a) }).retire
      else s.trap 0x05 0x061
    else State.retire { s with th := s.th.writeCtl i (s.rs a) }

-- Thread control.

/-- The conditions of a task boundary at YIELD (R42). -/
def Thread.atBoundary (t : Thread) : Bool :=
  t.depth == 0 && !t.anyPending && t.fork.isNone && t.repleft == 0

/-- YIELD (R141): at a boundary with a request pending the task begins to stop; else a NOP. -/
def execYield (a : BitVec 6) (s : State) : Out :=
  if s.preemptPending s.th && s.th.atBoundary then
    .next ({ s with th := { s.th with wait := .stopping (s.rs a) } }.send (.taskStop s.th.hwid))
  else s.retire

/-- VREL (R143): the registers read 0 with tail 00. -/
def execVrel (f : BitVec 1) (a b : BitVec 6) (s : State) : Out :=
  let ks := (List.range (b.toNat + 1 - a.toNat)).map (fun k => BitVec.ofNat 6 (a.toNat + k))
  State.retire { s with th := ks.foldl (fun t k => if f = 0 then t.setS k ⟨0, 0⟩ else t.setV k ⟨0, 0⟩) s.th }

/-- FENCEI (R144): it waits until every store of the thread is performed, then the I-cache of the thread's class, or of its
B-core, holds nothing. -/
def execFencei (s : State) : Out :=
  if s.th.storesOut || s.beatsOut s.th.hwid then .next s
  else State.retire { s with caches := { s.caches with
    iblocks := s.caches.iblocks.filter (fun b => !(b.die == dieOf s.th.hwid && b.pool == poolOf s.th.hwid)) } }

-- Raising and returning (R396, R397).

/-- TRAP (R397). -/
def execTrap (a : BitVec 6) (s : State) : Out := s.trap 0x0E (s.rs a)

/-- BRK (R397). -/
def execBrk (c : BitVec 6) (s : State) : Out := s.trap 0x0F (c.zeroExtend 64)

/-- ERET (R396). -/
def execEret (s : State) : Out := .next { s with th := exceptionReturn s.th }

-- Hints (R62 to R66, R41).

/-- A word of the group before its instruction: it counts and the pc moves on (R62, R67). -/
def State.prefixWord (s : State) (f : Pfx → Pfx) : Out :=
  let t := s.th
  let p := f (t.pfx.getD ⟨t.pc, none, none, none, false⟩)
  .next { s with th := { t.count with pfx := some p, pc := t.pc + 4 } }

/-- NOP and the reserved kinds (R62, R69). -/
def execNopHint (_x : BitVec 22) (s : State) : Out := s.retire

/-- HIMM (R63). -/
def execHimm (i : BitVec 22) (s : State) : Out := s.prefixWord (fun p => { p with himm := some i })

/-- The payload of an HMOD word (R64). -/
def hmodPayload (e : BitVec 2) (k : BitVec 1) (sc : BitVec 3) (h g : BitVec 1) (q : BitVec 2) (v t w : BitVec 1) : BitVec 22 :=
  e ++ k ++ sc ++ h ++ g ++ q ++ v ++ t ++ w ++ 0#9

/-- HMOD (R64). -/
def execHmod (e : BitVec 2) (k : BitVec 1) (sc : BitVec 3) (h g : BitVec 1) (q : BitVec 2) (v t w : BitVec 1) (s : State) : Out :=
  s.prefixWord (fun p => { p with hmod := some (hmodPayload e k sc h g q v t w) })

/-- REPLEFT when a group's first repeat is to begin (R65): a resumption keeps it. -/
def repStart (left : Word) (n : Nat) : Word :=
  if left.toNat ≠ 0 ∧ left.toNat ≤ n then left else BitVec.ofNat 64 n

/-- REP (R65). -/
def execRep (n : BitVec 6) (x y z : BitVec 3) (s : State) : Out :=
  let p : BitVec 22 := n ++ x ++ y ++ z ++ 0#7
  let s := { s with th := { s.th with repleft := repStart s.th.repleft (repCount p) } }
  s.prefixWord (fun q => { q with rep := some p })

/-- Two threads are of one gang and bound in one class, or on the B-cores of one quadrant (R41, R269). -/
def gangMates (t u : Thread) : Bool := t.lrec == u.lrec && t.gangid == u.gangid && sameInstance 2 t.hwid u.hwid

/-- A thread does not hold up a REALIGN wait at an address: it waits there, stopped at a boundary, or ended (R41). -/
def Thread.realigned (t : Thread) (pc : Word) : Bool :=
  match t.wait with
  | .realign p _ _ => p == pc
  | .stopped => true
  | _ => t.ended

/-- The first case of R41: when every mate of a thread has come to its REALIGN, all that wait there resume. -/
def State.realignSettle (s : State) (t : Thread) : State :=
  let mates := s.threads.filter (fun u => gangMates t u)
  mates.foldl (fun (s : State) u =>
    match u.wait with
    | .realign pc _ _ =>
      if mates.all (fun x => x.realigned pc) then
        s.mapThreads (fun x => if gangMates t x then (match x.wait with
          | .realign p _ _ => if p = pc then { x with wait := .none } else x
          | _ => x) else x)
      else s
    | _ => s) s

/-- REALIGN (R41): a nonzero timeout stops the thread before the next instruction, unless its mates are there already. A
pre-emption request that stands already when the hint issues does not end the wait: the spec names only a request that
arrives during it (DESIGN CHOICE, log entry 95). -/
def execRealign (t : BitVec 16) (s : State) : Out :=
  let u := s.th.retire
  if t = 0 then .next { s with th := u }
  else
    let u := { u with wait := .realign s.th.pc t s.cycle }
    .next (State.realignSettle { s with th := u } u)

/-- REALIGN_TIMEOUT (R41): t cycles have passed since the thread stopped, and it resumes alone. -/
def execRealignTimeout (h : BitVec 17) (s : State) : Out :=
  match s.thread? h with
  | some t =>
    match t.wait with
    | .realign _ n since => .next (if since + n.toNat ≤ s.cycle then s.putThread { t with wait := .none } else s)
    | _ => .next s
  | none => .next s

/-- HSCHED (R66): a preference that affects timing only; code 3 is a NOP. -/
def execHsched (p : BitVec 2) (s : State) : Out :=
  State.retire { s with th := if p = 3 then s.th else { s.th with hsched := p } }

end Sys2Proof.Machine
end

