-- ==== Sys2Proof/Machine/Tiers.lean ====
section
/-! DEFINITION. The tiers that track the holders of lines: home directories, die filters, class filters and mapped stash
lines, their probes, and the transition of a line's state at its home (R22, R220, R222, R225, R289 to R301).

The bytes of a tracked line lie once in the model, in memory: the data that an owner returns are there already (log entry
96). -/

namespace Sys2Proof.Machine

-- Agents.

/-- Who accesses memory: the die and pool it is made on, the address space, the core within the pool (the L-core of a
class; 0 for a B-core), whether the pool has lines for an L1 (R217, R222), and who stands behind its requests at homes. An
engine keeps no line. -/
structure Agent where
  die : BitVec 6
  pool : BitVec 5
  asid : BitVec 16
  core : BitVec 4
  l1 : Bool
  who : Option Waiter
  deriving DecidableEq, Repr

/-- The agent a thread is. -/
def Thread.agent (t : Thread) : Agent :=
  ⟨dieOf t.hwid, poolOf t.hwid, t.asid, if isB t.hwid then 0 else t.hwid.extractLsb' 2 4, decide (poolB t.poolb2 < poolB t.poolb3),
    some (.core t.hwid)⟩

/-- The agent that a thread's store on its way is. -/
def Thread.storer (t : Thread) : Agent := { t.agent with who := some (.store t.hwid) }

/-- An engine that works for a thread (R450). -/
def Thread.engine (t : Thread) : Agent := ⟨dieOf t.hwid, poolOf t.hwid, t.asid, 0, false, some (.engine t.hwid)⟩

/-- An agent works for an engine, which keeps no line and installs none (R302). -/
def Agent.isEngine (ag : Agent) : Bool := match ag.who with | some (.engine _) => true | _ => false

/-- A pool keeps the lines it takes in: no thread bound there has an empty L1 range (R222). -/
def State.poolKeeps (s : State) (d : BitVec 6) (p : BitVec 5) : Bool :=
  !s.threads.any (fun t => dieOf t.hwid == d && poolOf t.hwid == p && decide (poolB t.poolb3 ≤ poolB t.poolb2))

-- The home directory (R290).

/-- The state of a line: 0 U, 1 S, 2 O, 3 P. A P mark lies in the line's metadata (R298). -/
def State.lineState (s : State) (l : BitVec 52) : BitVec 2 :=
  if s.caches.poison.contains l then 3 else BitVec.ofNat 2 ((s.dirOf l).ls.toNat / 2 ^ (2 * lineIdx l))

/-- The die that owns a line. -/
def State.lineOwner (s : State) (l : BitVec 52) : BitVec 6 := BitVec.ofNat 6 ((s.dirOf l).owner.toNat / 2 ^ (6 * lineIdx l))

/-- Replace a field of `w` bits at bit `lo`. -/
def setField {n : Nat} (x : BitVec n) (lo w v : Nat) : BitVec n :=
  (x &&& ~~~(BitVec.ofNat n ((2 ^ w - 1) * 2 ^ lo))) ||| BitVec.ofNat n (v % 2 ^ w * 2 ^ lo)

/-- Put an entry: with every line in state U its die vector is clear, and with nothing in progress it is no entry. -/
def State.putDir (s : State) (e : DirEntry) : State :=
  let e := if e.ls = 0 then { e with dv := 0, owner := 0 } else e
  let rest := s.caches.dir.filter (fun x => x.region != e.region)
  { s with caches := { s.caches with dir := if e.ls = 0 ∧ e.busy = 0 then rest else e :: rest } }

/-- A line's next state; entering P sets its mark, leaving P clears its marks (R301). -/
def State.setLine (s : State) (l : BitVec 52) (v : Nat) : State :=
  let e := s.dirOf l
  let s := s.putDir { e with ls := setField e.ls (2 * lineIdx l) 2 v }
  if v = 3 then { s with caches := { s.caches with poison := l :: s.caches.poison.filter (· != l) } }
  else if s.caches.poison.contains l then
    { s with caches := { s.caches with
      poison := s.caches.poison.filter (· != l)
      badSectors := s.caches.badSectors.filter (fun x => !decide (x.toNat / 64 = l.toNat / 64)) } }
  else s

/-- DV[d] of a line's region. -/
def State.setDv (s : State) (l : BitVec 52) (d : BitVec 6) (v : Bool) : State :=
  let e := s.dirOf l
  s.putDir { e with dv := setField e.dv d.toNat 1 (if v then 1 else 0) }

/-- OWNER of a line. -/
def State.setOwner (s : State) (l : BitVec 52) (d : BitVec 6) : State :=
  let e := s.dirOf l
  s.putDir { e with owner := setField e.owner (6 * lineIdx l) 6 d.toNat }

/-- BUSY of a line. -/
def State.setBusy (s : State) (l : BitVec 52) (v : Bool) : State :=
  let e := s.dirOf l
  s.putDir { e with busy := setField e.busy (lineIdx l) 1 (if v then 1 else 0) }

/-- A die owns a line. -/
def State.dieOwns (s : State) (l : BitVec 52) (d : BitVec 6) : Bool := s.lineState l == 2 && s.lineOwner l == d

-- Die filters and class filters (R291, R292).

/-- A pool's entry of a line. -/
def State.classEntry (s : State) (d : BitVec 6) (p : BitVec 5) (l : BitVec 52) : Option ClassFilter :=
  s.caches.classF.find? (fun e => e.die == d && e.pool == p && e.line == l)

/-- Change or drop the class filter entries of a die for a line. -/
def State.eachHolder (s : State) (d : BitVec 6) (l : BitVec 52) (f : ClassFilter → Option ClassFilter) : State :=
  { s with caches := { s.caches with classF := s.caches.classF.filterMap (fun c =>
      if c.die == d && c.line == l then f c else some c) } }

/-- The pools of a die whose filter bits are set (R291). -/
def DieFilter.holds (e : DieFilter) (p : BitVec 5) : Bool :=
  if p.toNat < 16 then e.cv.getLsbD p.toNat else e.bv.getLsbD (p.toNat - 16)

/-- The die filter entry of a region on a die. -/
def State.dieEntry (s : State) (d : BitVec 6) (l : BitVec 52) : Option DieFilter :=
  s.caches.dieF.find? (fun e => e.die == d && e.region == regionOfLine l)

/-- A pool holds a recorded line of a region. -/
def State.poolHolds (s : State) (d : BitVec 6) (p : BitVec 5) (l : BitVec 52) : Bool :=
  s.caches.classF.any (fun e => e.die == d && e.pool == p && regionOfLine e.line == regionOfLine l)

/-- The local L2 slice of a die holds lines of a region as the die's cache (R223): SWM die copies, and recorded lines homed
elsewhere, which reached their pools through it. -/
def State.sliceHolds (s : State) (d : BitVec 6) (l : BitVec 52) : Bool :=
  s.caches.dieCopies.any (fun c => c.die == d && regionOfLine c.line == regionOfLine l)
    || (!s.homeOn d l && s.caches.classF.any (fun e => e.die == d && regionOfLine e.line == regionOfLine l))

/-- Put a die filter entry. -/
def State.putDieF (s : State) (e : DieFilter) : State :=
  { s with caches := { s.caches with dieF := e :: s.caches.dieF.filter (fun x => !(x.die == e.die && x.region == e.region)) } }

/-- The die filter entry of a region on a die, made where there is none, with the slice's bit as it stands. -/
def State.noteSlice (s : State) (d : BitVec 6) (l : BitVec 52) : State :=
  let e := (s.dieEntry d l).getD ⟨d, regionOfLine l, s.homeOf l, false, 0, 0⟩
  s.putDieF { e with l2 := s.sliceHolds d l }

/-- The bits of pools that hold no line of the region are cleared, and so is the slice's; an entry with none set goes. -/
def State.trimDie (s : State) (d : BitVec 6) (l : BitVec 52) : State × Bool :=
  match s.dieEntry d l with
  | none => (s, true)
  | some e =>
    let cv := (List.range 16).foldl (fun x k => if s.poolHolds d (BitVec.ofNat 5 k) l then x else setField x k 1 0) e.cv
    let bv := (List.range 8).foldl (fun x k => if s.poolHolds d (BitVec.ofNat 5 (16 + k)) l then x else setField x k 1 0) e.bv
    let l2 := s.sliceHolds d l
    let rest := s.caches.dieF.filter (fun x => !(x.die == d && x.region == regionOfLine l))
    let gone := decide (cv = 0 ∧ bv = 0) && !l2
    ({ s with caches := { s.caches with dieF := if gone then rest else { e with cv, bv, l2 } :: rest } }, gone)

/-- The line buffer of a core in a class filter's CORE field (R292). -/
def coreBit (p : BitVec 5) (k : BitVec 4) : BitVec 16 := if p.toNat < 16 then 1#16 <<< k.toNat else 1

/-- A pool's entry of a line as given, with the line buffers it had, and the bits of its die's filter (R289, R291, R292).
A recorded copy takes the place of an unrecorded one. -/
def State.record (s : State) (c : ClassFilter) : State :=
  let old := ((s.classEntry c.die c.pool c.line).map (·.core)).getD 0
  let e := (s.dieEntry c.die c.line).getD ⟨c.die, regionOfLine c.line, s.homeOf c.line, false, 0, 0⟩
  let e := if c.pool.toNat < 16 then { e with cv := setField e.cv c.pool.toNat 1 1 } else { e with bv := setField e.bv (c.pool.toNat - 16) 1 1 }
  let s := { s with caches := { s.caches with
    copies := s.caches.copies.filter (fun x => x.isConst || !(x.die == c.die && x.pool == c.pool && x.line == c.line))
    classF := { c with core := c.core ||| old } :: s.caches.classF.filter (fun x => !(x.die == c.die && x.pool == c.pool && x.line == c.line)) } }
  (s.putDieF e).noteSlice c.die c.line

/-- A pool's entry of a line goes. -/
def State.unrecord (s : State) (d : BitVec 6) (p : BitVec 5) (l : BitVec 52) : State :=
  s.eachHolder d l (fun c => if c.pool = p then none else some c)

/-- A pool returns a line it owns, and the home takes it (R294, R298): PUTO at once. -/
def State.returnLine (s : State) (d : BitVec 6) (p : BitVec 5) (l : BitVec 52) : State :=
  let owned := (s.classEntry d p l).any (fun c => c.state == 2)
  let s := s.unrecord d p l
  if owned && s.dieOwns l d then (s.setLine l 0).homeCount l 0x0020 else s

-- Mapped stash lines (R220).

/-- Copy `n` bytes from one key to another. -/
def State.copyBytes (s : State) (src dst n : Nat) : State :=
  { s with mem := Memory.setMany s.mem ((keysFrom dst n).zip (Memory.getMany s.mem (keysFrom src n))) }

/-- Write zero to `n` bytes. -/
def State.zeroBytes (s : State) (k n : Nat) : State :=
  { s with mem := Memory.setMany s.mem ((keysFrom k n).map (fun x => (x, 0))) }

/-- Write a mapped line back if it is dirty: its global line gets its bytes. -/
def State.stashWriteBack (s : State) (r : StashLine) : State :=
  if r.dirty then
    match s.stashGlobal r.die r.pool r.off.toNat with
    | some g => s.copyBytes (stashKey r.die r.pool r.off.toNat) g 64
    | none => s
  else s

/-- Forget a mapped line. -/
def State.dropStashLine (s : State) (r : StashLine) : State :=
  { s with caches := { s.caches with stashLines := s.caches.stashLines.filter (fun x => !(x.die == r.die && x.pool == r.pool && x.off == r.off)) } }

/-- A probed stash line supplies its data and turns Absent, which holds zero (R220). -/
def State.stashProbed (s : State) (r : StashLine) : State :=
  ((s.stashWriteBack r).dropStashLine r).zeroBytes (stashKey r.die r.pool r.off.toNat) 64

/-- A probe for a global line: every mapped stash line of it turns Absent (R220). -/
def State.probeStash (s : State) (line : Nat) : State :=
  (s.caches.stashLines.filter (fun r => decide (s.stashGlobal r.die r.pool r.off.toNat = some line))).foldl
    (fun (s : State) r => s.stashProbed r) s

/-- The mapped stash lines of a die that stand for a line turn Absent (R220). -/
def State.probeStashOn (s : State) (d : BitVec 6) (l : Nat) : State :=
  (s.caches.stashLines.filter (fun r => r.die == d && decide (s.stashGlobal r.die r.pool r.off.toNat = some l))).foldl
    (fun (s : State) r => s.stashProbed r) s

/-- A mapped stash line leaves the map: a Dirty one is written back, the line keeps its data, its pool owns the global line
no more (R220). -/
def State.stashLeave (s : State) (r : StashLine) : State :=
  let g := s.stashGlobal r.die r.pool r.off.toNat
  let s := (s.stashWriteBack r).dropStashLine r
  match g with
  | some l => s.returnLine r.die r.pool (BitVec.ofNat 52 l)
  | none => s

-- Probes at a die (R297).

/-- INV at a die: the shared copies of its pools go, but for the requesting pool's; the answer's NONE. -/
def State.dieInv (s : State) (d : BitVec 6) (l : BitVec 52) (keep : BitVec 5 → Bool) : State × Bool :=
  match s.dieEntry d l with
  | none => (s.probeStashOn d l.toNat, true)
  | some e => ((s.eachHolder d l (fun c => if c.state = 1 ∧ e.holds c.pool ∧ !keep c.pool then none else some c)).probeStashOn d l.toNat).trimDie d l

/-- RECALL at a die: the owner returns the line and keeps nothing; the answer's NONE. -/
def State.dieRecall (s : State) (d : BitVec 6) (l : BitVec 52) : State × Bool :=
  ((s.eachHolder d l (fun c => if c.state = 2 then none else some c)).probeStashOn d l.toNat).trimDie d l

/-- DOWN at a die: the owner returns the line and keeps it shared, a mapped stash line not at all (R220); the answer's
NONE. -/
def State.dieDown (s : State) (d : BitVec 6) (l : BitVec 52) : State × Bool :=
  ((s.eachHolder d l (fun c =>
    if c.state = 2 then (if c.stash then none else some { c with state := 1, dirty := false }) else some c)).probeStashOn d l.toNat).trimDie d l

-- The transitions of R294.

/-- What a request asks of a line's home (R293): a shared copy, ownership, data without a record, a masked write (by a pool
whose copy it has updated in place; of the whole line), an atomic. -/
inductive Ask
  | gets
  | geto (full : Bool)
  | geti
  | wrm (inPlace full : Bool)
  | atom
  deriving DecidableEq, Repr

/-- What a request needs before it completes: INV to dies, RECALL or DOWN to the owner (R294). -/
inductive Probe
  | none
  | inv (dies : BitVec 64)
  | recall (d : BitVec 6)
  | down (d : BitVec 6)
  deriving DecidableEq, Repr

/-- The probes that R294 gives for a request in a line's present state. -/
def State.probeFor (s : State) (a : Ask) (l : BitVec 52) : Probe :=
  match (s.lineState l).toNat, a with
  | 1, .gets | 1, .geti => .none
  | 1, _ => .inv (s.dirOf l).dv
  | 2, .gets | 2, .geti => .down (s.lineOwner l)
  | 2, _ => .recall (s.lineOwner l)
  | _, _ => .none

/-- A request meets a line in state P that it cannot bring back to use (R294, R301). -/
def State.askPoisoned (s : State) (a : Ask) (l : BitVec 52) : Bool :=
  s.lineState l == 3 && (match a with | .geto true | .wrm _ true => false | _ => true)

/-- The line's next state with DV and OWNER, its probes answered (R294). -/
def State.transition (s : State) (a : Ask) (l : BitVec 52) (d : BitVec 6) : State :=
  match a with
  | .gets => (s.setLine l 1).setDv l d true
  | .geto _ => ((s.setLine l 2).setOwner l d).setDv l d true
  | .geti => if s.lineState l = 2 then s.setLine l 1 else s
  | .wrm true _ => if s.lineState l = 1 then s else s.setLine l 0
  | _ => s.setLine l 0

/-- A die's answer to a probe: with NONE set DV[d] is cleared (R297). -/
def State.noteAnswer (s : State) (l : BitVec 52) (d : BitVec 6) (none : Bool) : State :=
  if none then (s.setDv l d false).homeCount l 0x0022 else s

/-- The probes of a request and their answers, all at once. -/
def State.settleLine (s : State) (pr : Probe) (l : BitVec 52) (keep : BitVec 6 → BitVec 5 → Bool) : State :=
  match pr with
  | .none => s
  | .inv dies => ((List.range 64).filter (fun d => dies.getLsbD d)).foldl (fun (s : State) k =>
      let d := BitVec.ofNat 6 k
      let x := s.dieInv d l (keep d)
      x.1.noteAnswer l d x.2) s
  | .recall d => let x := s.dieRecall d l; x.1.noteAnswer l d x.2
  | .down d => let x := s.dieDown d l; x.1.noteAnswer l d x.2

/-- The pool whose copy a request's INVs spare (R294): the requester's, of a GETO and of a .w WRM. -/
def Ask.spares (a : Ask) : Bool := match a with | .geto _ | .wrm true _ => true | _ => false

/-- A request served in one step at its home (R294). -/
def State.transact (s : State) (a : Ask) (l : BitVec 52) (d : BitVec 6) (p : BitVec 5) : State :=
  let s := s.homeCount l 0x0020
  (s.settleLine (s.probeFor a l) l (fun e q => a.spares && e == d && q == p)).transition a l d

-- Accesses of pools (R222, R225, R226).

/-- The place is a line tracked at its home: of a NORMAL page, and of an SWM page for its HOME die and for .u accesses
(R225, R289). -/
def Place.tracked (p : Place) (d : BitVec 6) : Bool := p.cls == 0 || (p.cls == 1 && (p.home == d || p.rq == 3))

/-- An access of class `cls` acts on a die's own copy of an SWM line (R225, R226, R450). -/
def Place.onDieCopy (p : Place) (d : BitVec 6) : Bool := p.cls == 1 && p.home != d && p.rq != 3

/-- The copy a pool holds of a line (R221, R222). -/
def State.copyOf (s : State) (ag : Agent) (line : Nat) (isConst : Bool) : Option LineCopy :=
  s.caches.copies.find? (fun c => c.die == ag.die && c.pool == ag.pool && decide (c.line.toNat = line) && c.isConst == isConst)

/-- A die's copy of an SWM line (R225). -/
def State.dieCopyOf (s : State) (d : BitVec 6) (line : Nat) : Option DieCopy :=
  s.caches.dieCopies.find? (fun c => c.die == d && decide (c.line.toNat = line))

/-- The line of memory at a key. -/
def State.memLine (s : State) (line : Nat) : BitVec 512 := BitVec.ofNat 512 (Memory.readNat s.mem line 64)

/-- A pool's own copy of a line serves an access of a type with nothing asked of the home (R222): an owned line any .o
access and any load but .u, a shared one any load but .u, an unrecorded copy a .i load. -/
def State.poolServes (s : State) (ag : Agent) (l : Nat) (rq : BitVec 2) (write : Bool) : Bool :=
  ag.l1 && (match s.classEntry ag.die ag.pool (BitVec.ofNat 52 l) with
    | some e => !e.stash && (if write then e.state == 2 && rq == 0 else e.state != 0 && rq != 3)
    | none => !write && rq == 2 && (s.copyOf ag l false).isSome)

/-- A pool installs an unrecorded copy of a line (R222). -/
def State.install (s : State) (d : BitVec 6) (p : BitVec 5) (l : BitVec 52) (bytes : BitVec 512) : State :=
  { s with caches := { s.caches with
      copies := ⟨d, p, l, false, bytes⟩ :: s.caches.copies.filter (fun c => !(c.die == d && c.pool == p && c.line == l && !c.isConst)) } }

/-- The line buffer of a core holds a line its pool holds; an owner's write makes it DIRTY (R292). -/
def State.buffered (s : State) (ag : Agent) (l : BitVec 52) (dirty : Bool) : State :=
  s.eachHolder ag.die l (fun c => if c.pool = ag.pool then some { c with core := c.core ||| coreBit ag.pool ag.core, dirty := c.dirty || dirty } else some c)

/-- A tracked line before an access of a pool (R222, R294): the pool's own copy, or a request to the home with what the pool
keeps of its answer. -/
def State.touchLine (s : State) (ag : Agent) (l : Nat) (rq : BitVec 2) (write full : Bool) : State :=
  let x : BitVec 52 := BitVec.ofNat 52 l
  let c (st : BitVec 2) (dirty : Bool) : ClassFilter := ⟨ag.die, ag.pool, x, false, dirty, st, coreBit ag.pool ag.core⟩
  if s.poolServes ag l rq write then s.buffered ag x write
  else if write then
    if rq = 0 then
      let s := s.transact (.geto full) x ag.die ag.pool
      if ag.l1 then s.record (c 2 true) else (s.unrecord ag.die ag.pool x).setLine x 0
    else s.transact (.wrm (rq == 1 && (s.classEntry ag.die ag.pool x).isSome) full) x ag.die ag.pool
  else if rq = 2 ∨ rq = 3 then
    let s := s.transact .geti x ag.die ag.pool
    if rq = 2 ∧ ag.l1 then s.install ag.die ag.pool x (s.memLine l) else s
  else
    let s := s.transact .gets x ag.die ag.pool
    if ag.l1 then s.record (c 1 false) else s

/-- A read or store miss on a die fetches an SWM line from its home (R226). -/
def State.fetchDieCopy (s : State) (d : BitVec 6) (line : Nat) : State :=
  match s.dieCopyOf d line with
  | some _ => s
  | none =>
    ({ s with caches := { s.caches with dieCopies := ⟨d, BitVec.ofNat 52 line, s.memLine line, 0⟩ :: s.caches.dieCopies } } : State).noteSlice d (BitVec.ofNat 52 line)

/-- An SWM line off its HOME die before an access (R222, R225): the die's classes and B-core pools are kept coherent by the
die's own filters. -/
def State.touchDie (s : State) (ag : Agent) (l : Nat) (rq : BitVec 2) (write : Bool) : State :=
  let x : BitVec 52 := BitVec.ofNat 52 l
  let c (st : BitVec 2) (dirty : Bool) : ClassFilter := ⟨ag.die, ag.pool, x, false, dirty, st, coreBit ag.pool ag.core⟩
  let hit := s.poolServes ag l rq write
  let s := s.fetchDieCopy ag.die l
  if hit then s.buffered ag x write
  else if write then
    let mine (e : ClassFilter) : Bool := e.pool == ag.pool && ag.l1
    if rq = 0 then
      let s := (s.eachHolder ag.die x (fun _ => none))
      if ag.l1 then s.record (c 2 true) else (s.trimDie ag.die x).1
    else ((s.eachHolder ag.die x (fun e => if mine e ∧ rq = 1 then some { e with state := 1, dirty := false } else none)).trimDie ag.die x).1
  else
    let s := s.eachHolder ag.die x (fun e => if e.state = 2 then some { e with state := 1, dirty := false } else some e)
    if rq = 2 then
      match s.dieCopyOf ag.die l with
      | some d => if ag.l1 then s.install ag.die ag.pool x d.bytes else s
      | none => s
    else if ag.l1 then s.record (c 1 false) else s

/-- An access to a mapped stash line that is Absent fetches it owned, and the class filter records the stash as its holder;
`write` leaves it Dirty (R220). -/
def State.stashTouch (s : State) (d : BitVec 6) (p : BitVec 5) (o : Nat) (write : Bool) : State :=
  match s.stashGlobal d p o with
  | none => s
  | some g =>
    let off := BitVec.ofNat 20 (lineOf o)
    let x : BitVec 52 := BitVec.ofNat 52 g
    match s.caches.stashLines.find? (fun x => x.die == d && x.pool == p && x.off == off) with
    | some r =>
      if write && !r.dirty then
        let s := (s.dropStashLine r).eachHolder d x (fun c => if c.pool = p ∧ c.stash then some { c with dirty := true } else some c)
        { s with caches := { s.caches with stashLines := { r with dirty := true } :: s.caches.stashLines } }
      else s
    | none =>
      let s := (((s.probeStash g).transact (.geto false) x d p).record ⟨d, p, x, true, write, 2, 0⟩).copyBytes g (stashKey d p (lineOf o)) 64
      { s with caches := { s.caches with stashLines := ⟨d, p, off, write⟩ :: s.caches.stashLines } }

/-- An access from outside the pools in one step at its home (R220, R294, R408): mapped stash lines give way and, where the
line is tracked, its state makes its transition. -/
def State.atHome (s : State) (tracked : Bool) (a : Ask) (l : BitVec 52) (d : BitVec 6) (p : BitVec 5) : State :=
  let s := s.probeStash l.toNat
  if tracked then s.transact a l d p else s

/-- The lines a place touches, in order. -/
def Place.lines (p : Place) : List Nat :=
  (List.range ((p.key + p.n - 1) / 64 + 1 - p.key / 64)).map (fun i => lineOf p.key + 64 * i)

/-- The home lines an access asks something of their homes for, each with its home die. -/
def State.homeNeeds (s : State) (ag : Agent) (p : Place) (write : Bool) : List (Nat × BitVec 6) :=
  match p.cls.toNat with
  | 4 | 6 | 8 => []
  | 7 =>
    let o := p.key % 2 ^ 20
    p.lines.filterMap (fun l =>
      let ol := l - lineOf p.key + lineOf o
      if s.caches.stashLines.any (fun x => x.die == ag.die && x.pool == ag.pool && decide (x.off.toNat = ol)) then none
      else (s.stashLeaf ag.die ag.pool ol).map (fun x => (x.2, x.1.home)))
  | 3 => (p.lines.filter (fun l => !s.caches.replicas.contains (ag.die, BitVec.ofNat 52 l))).map (fun l => (l, p.home))
  | 5 => (p.lines.filter (fun l => ag.isEngine || (s.copyOf ag l true).isNone)).map (fun l => (l, p.home))
  | _ =>
    if p.onDieCopy ag.die then (p.lines.filter (fun l => (s.dieCopyOf ag.die l).isNone)).map (fun l => (l, p.home))
    else if p.tracked ag.die then (p.lines.filter (fun l => !s.poolServes ag l p.rq write)).map (fun l => (l, p.home))
    else p.lines.map (fun l => (l, p.home))

/-- The die and line of the write-back of an SWM line's dirty bytes by the die's slice, on its way home or answered with POISON
(R226, R301; log entry 108). -/
def putbLine : Instr → Option (BitVec 6 × BitVec 52)
  | .putb m _ _ => some (m.die, m.line)
  | .poisonMsg m => if m.rq = 1 ∧ 24 ≤ m.pool.toNat then some (m.die, m.line) else none
  | _ => none

/-- Such a write-back with a property has not ended yet. -/
def State.putbAny (s : State) (f : BitVec 6 × BitVec 52 → Bool) : Bool :=
  s.pending.any (fun e => (putbLine e).any f) || s.caches.homeQ.any (fun r => (putbLine r.req).any f)
    || s.caches.txs.any (fun x => (putbLine x.req).any f)

/-- The dirty bytes that a die has sent home of an SWM line have not been merged there (R226). -/
def State.putbOut (s : State) (d : BitVec 6) (l : BitVec 52) : Bool := s.putbAny (fun x => x.1 == d && x.2 == l)

/-- A die has no copy of an SWM line, whose bytes it has sent home and which are not merged there yet. -/
def State.copyLeft (s : State) (ag : Agent) (p : Place) : Bool :=
  p.onDieCopy ag.die && p.lines.any (fun l => (s.dieCopyOf ag.die l).isNone && s.putbOut ag.die (BitVec.ofNat 52 l))

/-- An access waits at a home. -/
def State.homeWaits (s : State) (ag : Agent) (ps : List Place) (write : Bool) : Bool :=
  s.linesHeld ag.who (ps.flatMap (fun p => s.homeNeeds ag p write)) || ps.any (s.copyLeft ag)

/-- The request that stands for an access to a line in its home's queue (R293). -/
def Place.request (p : Place) (ag : Agent) (l : Nat) (write : Bool) : Instr :=
  let m (rq : BitVec 2) : CohMsg := ⟨BitVec.ofNat 52 l, ag.die, ag.pool, rq, 0⟩
  if p.cls = 7 then .geto (m 0) false
  else if !p.tracked ag.die then .getu (m 3)
  else if !write && ag.isEngine then .getu (m 3)
  else if write then (if p.rq = 0 then .geto (m 0) (decide (p.key ≤ l) && decide (l + 64 ≤ p.key + p.n)) else .wrm (m p.rq) 0 0)
  else match p.rq.toNat with
    | 2 => .geti (m 2)
    | 3 => .getu (m 3)
    | _ => .gets (m p.rq)

/-- A waiting access takes its place at its homes, and wakes their layers (R22, R295); `ask` is the request that stands for
it. -/
def State.rouseFor (s : State) (ag : Agent) (ask : Place → Nat → Instr) (ps : List Place) (write : Bool) : State :=
  let past := (ps.flatMap (fun p => s.homeNeeds ag p write)).any (fun x => s.firstFor ag.who x.1)
  ps.foldl (fun (s : State) p => (s.homeNeeds ag p write).foldl (fun (s : State) x =>
    if s.homeHolds ag.who past x.1 x.2 then s.queueUp ⟨ask p x.1, ag.who⟩ x.1 x.2 else s) s) s

/-- As `rouseFor`, for loads, stores and engines. -/
def State.rouseHomes (s : State) (ag : Agent) (ps : List Place) (write : Bool) : State :=
  s.rouseFor ag (fun p l => p.request ag l write) ps write

end Sys2Proof.Machine
end

