-- ==== Sys2Proof/Machine/Operands.lean ====
section
/-! DEFINITION. Memory operands: the checks of R238 in their order, what a checked unit of an access reads, and what it
writes, by page class and request type (R213, R215, R219 to R231, R233, R451). -/

namespace Sys2Proof.Machine

/-- What an access asks for (the columns of R215). -/
inductive Acc
  /-- A scalar load of 1 to 8 bytes. -/
  | load
  /-- Any other load. -/
  | wideLoad
  /-- A scalar store of 1 to 8 bytes. -/
  | store
  /-- Any other store. -/
  | wideStore
  | amo
  | append
  | sealing
  | tailq
  | bst
  | bamo
  | acquire
  | release
  | linez
  /-- A read or write of an engine, or of a tile on the MATRIX path. -/
  | engRead
  | engWrite
  deriving DecidableEq, Repr

/-- The rights an access needs: R and W (R213, R253, R255, R256, R260, R262, R263, R265). -/
def Acc.rights : Acc → Bool × Bool
  | .load | .wideLoad | .tailq | .acquire | .engRead => (true, false)
  | .store | .wideStore | .bst | .release | .linez | .engWrite => (false, true)
  | .amo | .append | .sealing | .bamo => (true, true)

/-- The cause with which a class refuses an access, if it does (R215, R236). -/
def Acc.refusal (a : Acc) (cls : BitVec 3) : Option (BitVec 7) :=
  match a with
  | .load => none
  | .wideLoad => if cls = 6 then some 0x05 else none
  | .store => if cls = 2 ∨ cls = 3 then some 0x06 else if cls = 4 ∨ cls = 5 then some 0x05 else none
  | .wideStore | .amo | .release =>
    if cls = 2 ∨ cls = 3 then some 0x06 else if cls = 0 ∨ cls = 1 then none else some 0x05
  | .append => if cls = 2 then none else if cls = 3 then some 0x06 else some 0x05
  | .sealing | .tailq => if cls = 2 ∨ cls = 3 then none else some 0x05
  | .bst | .bamo => if cls = 4 then none else some 0x05
  | .acquire => if cls = 0 ∨ cls = 1 then none else some 0x05
  | .linez | .engWrite => if cls = 0 ∨ cls = 1 then none else if cls = 2 ∨ cls = 3 then some 0x06 else some 0x05
  | .engRead => if cls = 0 ∨ cls = 1 ∨ cls = 3 ∨ cls = 5 then none else some 0x05

/-- The accesses the stash window takes (R219); the others raise PERM there. -/
def Acc.inStash : Acc → Bool
  | .load | .wideLoad | .store | .wideStore | .amo | .engRead | .engWrite => true
  | _ => false

/-- The accesses the argument window takes (R451). -/
def Acc.inArgs : Acc → Bool
  | .load | .wideLoad => true
  | _ => false

/-- An access cut at a 64 KiB boundary; no access crosses two. -/
def splitPages (va n : Nat) : List (Nat × Nat) :=
  if va / 65536 = (va + n - 1) / 65536 then [(va, n)]
  else [(va, 65536 - va % 65536), (va + (65536 - va % 65536), n - (65536 - va % 65536))]

/-- The first page offset of a BELL page within the window: PA [19:16] names it (R233). -/
def bellOff (pa : Nat) : Nat := pa % 2 ^ 20

/-- The place of a piece on a translated page. -/
def placeOf (l : Leaf) (die : BitVec 6) (va n : Nat) (rq : BitVec 2) : Place :=
  let pa := l.pa + va % l.size
  ⟨if l.cls = 4 then bellMirrorKey die (bellOff l.pa + va % l.size) else pa, n, l.cls.zeroExtend 4, l.home, rq,
    BitVec.ofNat 64 va⟩

/-- Leases and translation of the pieces of an access (check 3 of R238): the lowest faulting byte is reported. -/
def State.leaseCheck (s : State) (t : Thread) (r w : Bool) : List (Nat × Nat) → Chk (List (Nat × Nat × Leaf))
  | [] => .ok []
  | (va, n) :: rest =>
    if !leased t.leases va r w then .error (0x04, BitVec.ofNat 64 va)
    else match s.leaf? t va with
      | none => .error (s.noLeaf t va)
      | some l => (s.leaseCheck t r w rest).map (fun x => (va, n, l) :: x)

/-- The page class of the pieces (check 4): PERM reports the first byte refused, SEALED the effective address. -/
def classCheck (a : Acc) (ea : Word) : List (Nat × Nat × Leaf) → Chk Unit
  | [] => .ok ()
  | (va, _, l) :: rest =>
    match a.refusal l.cls with
    | some c => .error (c, if c = 0x06 then ea else BitVec.ofNat 64 va)
    | none => classCheck a ea rest

/-- A core access to a host range that the boundary filter refuses: PERM with the address (R412). -/
def State.filterCheck (s : State) (part : BitVec 4) : List (Nat × Nat × Leaf) → Chk Unit
  | [] => .ok ()
  | (va, n, l) :: rest =>
    let pa := l.pa + va % l.size
    if physOf pa = .host then
      match (List.range n).find? (fun i => !s.hostAllowed part (pa + i)) with
      | some i => .error (0x05, BitVec.ofNat 64 (va + i))
      | none => s.filterCheck part rest
    else s.filterCheck part rest

/-- Checks 3 and 4 of R238 on the `n` bytes at `ea`: the units of the access, or the cause and its TVAL. -/
def State.checkUnit (s : State) (t : Thread) (ea : Word) (n : Nat) (a : Acc) (rq : BitVec 2) : Chk (List Place) :=
  match spaceOf ea.toNat n with
  | .bad => .error (0x04, ea)
  | .stash o =>
    if !a.inStash then .error (0x05, ea)
    else if o + n ≤ poolB t.poolb1 then .ok [⟨stashKey (dieOf t.hwid) (poolOf t.hwid) o, n, 7, dieOf t.hwid, rq, ea⟩]
    else .error (0x05, if o < poolB t.poolb1 then BitVec.ofNat 64 (0x800000000000 + poolB t.poolb1) else ea)
  | .arg o =>
    if a.inArgs && decide (128 * t.lrec.toNat ≤ o) && decide (o + n ≤ 128 * t.lrec.toNat + 128) then
      .ok [⟨o - 128 * t.lrec.toNat, n, 8, 0, rq, ea⟩]
    else .error (0x05, ea)
  | .job =>
    match s.leaseCheck t a.rights.1 a.rights.2 (splitPages ea.toNat n) with
    | .error e => .error e
    | .ok ps =>
      match (classCheck a ea ps).bind (fun _ => s.filterCheck t.part ps) with
      | .error e => .error e
      | .ok _ => .ok (ps.map (fun p => placeOf p.2.2 (dieOf t.hwid) p.1 p.2.1 rq))

/-- Check 2 of R238, then checks 3 and 4. -/
def State.checkAccess (s : State) (t : Thread) (ea : Word) (n align : Nat) (a : Acc) (rq : BitVec 2) : Chk (List Place) :=
  if ea.toNat % align ≠ 0 then .error (0x03, ea) else s.checkUnit t ea n a rq

-- Copies of lines.

/-- Byte `k` of a 512-bit line. -/
def lineByte (b : BitVec 512) (k : Nat) : Byte := BitVec.ofNat 8 (b.toNat / 2 ^ (8 * k))

/-- A 512-bit line with byte `k` replaced. -/
def setLineByte (b : BitVec 512) (k : Nat) (v : Byte) : BitVec 512 :=
  (b &&& ~~~(0xFF#512 <<< (8 * k))) ||| (v.zeroExtend 512 <<< (8 * k))

/-- A place covers a line whole. -/
def Place.whole (p : Place) (l : Nat) : Bool := decide (p.key ≤ l) && decide (l + 64 ≤ p.key + p.n)

/-- A die's L2 holds a replica of a line of a SEALED page (R231). -/
def State.replicate (s : State) (d : BitVec 6) (l : Nat) : State :=
  if s.caches.replicas.contains (d, BitVec.ofNat 52 l) then s
  else { s with caches := { s.caches with replicas := (d, BitVec.ofNat 52 l) :: s.caches.replicas } }

/-- What an access does to the tiers, at some lines of a place, before it reads or writes (R220, R222, R226, R231, R294): its
places in the queues of their homes are taken up. The reads of an engine are GETUs, which leave no copy of an SWM line on the die
and no replica (R302). -/
def State.prepareLines (s : State) (ag : Agent) (p : Place) (write : Bool) (ls : List Nat) : State :=
  let s := s.takeTurn ag.who ((s.homeNeeds ag p write).map (·.1))
  if p.cls = 7 then
    let o := p.key % 2 ^ 20
    ls.foldl (fun s l => s.stashTouch ag.die ag.pool (l - lineOf p.key + lineOf o) write) s
  else if p.onDieCopy ag.die then if ag.isEngine && !write then s else ls.foldl (fun s l => s.touchDie ag l p.rq write) s
  else if p.tracked ag.die then
    ls.foldl (fun s l => (s.probeStash l).touchLine ag l (if ag.isEngine && !write then 3 else p.rq) write (p.whole l)) s
  else if p.cls = 3 then if ag.isEngine then s else ls.foldl (fun s l => s.replicate ag.die l) s
  else s

/-- As `prepareLines`, for the lines of a place. -/
def State.prepare (s : State) (ag : Agent) (p : Place) (write : Bool) : State := s.prepareLines ag p write p.lines

/-- What one request of several places does to the tiers: each line is asked for once (R296). -/
def State.prepareOnce (s : State) (ag : Agent) (write : Bool) : List Nat → List Place → State
  | _, [] => s
  | seen, p :: r => (s.prepareLines ag p write (p.lines.filter (fun l => !seen.contains l))).prepareOnce ag write (seen ++ p.lines) r

/-- The bytes of a launch's argument block (R29): the payload, then zero. -/
def argByte (args : List Word) (o : Nat) : Byte := BitVec.ofNat 8 ((args.getD (o / 8) 0).toNat / 2 ^ (8 * (o % 8)))

/-- The byte an access reads at a key of its place (R221, R222, R225, R229, R451). -/
def State.peek (s : State) (ag : Agent) (args : List Word) (p : Place) (k : Nat) : Byte :=
  let copied (isConst : Bool) (other : Byte) : Byte :=
    match s.copyOf ag (lineOf k) isConst with
    | some c => lineByte c.bytes (k % 64)
    | none => other
  if p.cls = 8 then argByte args k
  else if p.cls = 5 then (if ag.isEngine then Memory.get s.mem k else copied true (Memory.get s.mem k))
  else if p.onDieCopy ag.die then
    let b := match s.dieCopyOf ag.die (lineOf k) with
      | some c => lineByte c.bytes (k % 64)
      | none => Memory.get s.mem k
    if p.rq = 2 then copied false b else b
  else if (p.cls = 0 ∨ p.cls = 1) ∧ p.rq = 2 then copied false (Memory.get s.mem k)
  else if p.cls = 2 then
    match s.appendPage? k with
    | some g => if k % 65536 < g.done.toNat then Memory.get s.mem k else 0
    | none => 0
  else Memory.get s.mem k

/-- Patch the unrecorded copies that the agent's own pool holds of a byte, and one on its way to it (R222, R271). -/
def State.patchCopies (s : State) (ag : Agent) (k : Nat) (v : Byte) : State :=
  { s with
    caches := { s.caches with copies := s.caches.copies.map (fun c =>
      if !c.isConst && c.die == ag.die && c.pool == ag.pool && decide (c.line.toNat = lineOf k) then
        { c with bytes := setLineByte c.bytes (k % 64) v } else c) }
    pending := s.pending.map (fun e => match e with
      | .dataMsg m false n b =>
        if m.rq = 2 ∧ m.die = ag.die ∧ m.pool = ag.pool ∧ m.line.toNat = lineOf k then
          .dataMsg m false n (setLineByte b (k % 64) v)
        else .dataMsg m false n b
      | e => e) }

/-- Write one byte of a place (R222, R225, R226). -/
def State.poke (s : State) (ag : Agent) (p : Place) (k : Nat) (v : Byte) : State :=
  if p.onDieCopy ag.die then
    let s := { s with caches := { s.caches with dieCopies := s.caches.dieCopies.map (fun (c : DieCopy) =>
      if c.die == ag.die && decide (c.line.toNat = lineOf k) then
        { c with bytes := setLineByte c.bytes (k % 64) v, dirty := c.dirty ||| (1#64 <<< (k % 64)) } else c) } }
    s.patchCopies ag k v
  else
    let s := { s with mem := Memory.set s.mem k v }
    if p.cls = 0 ∨ (p.cls = 1 ∧ p.home = ag.die) then s.patchCopies ag k v else s

/-- Write the bytes of a place in order. -/
def State.pokeAll (s : State) (ag : Agent) (p : Place) : Nat → List Byte → State
  | _, [] => s
  | k, b :: r => (s.poke ag p k b).pokeAll ag p (k + 1) r

/-- The places of an access cover a unit of `n` bytes at a key. -/
def covers (ps : List Place) (key n : Nat) : Bool :=
  (keysFrom key n).all (fun k => ps.any (fun p => decide (p.key ≤ k) && decide (k < p.key + p.n)))

/-- A write of whole lines and sectors clears their marks, and a line in state P is that no more (R301, R419). -/
def State.clearMarks (s : State) (ps : List Place) : State :=
  if s.caches.poison.isEmpty && s.caches.badSectors.isEmpty then s
  else
    let s := (s.caches.poison.filter (fun l => covers ps l.toNat 64)).foldl (fun (s : State) l => s.setLine l 0) s
    { s with caches := { s.caches with badSectors := s.caches.badSectors.filter (fun l => !covers ps l.toNat 32) } }

/-- Perform a write to a place. -/
def State.writePlace (s : State) (ag : Agent) (p : Place) (bs : List Byte) : State :=
  (s.prepare ag p true).pokeAll ag p p.key bs

/-- The arguments of a thread's launch. -/
def State.argsOf (s : State) (t : Thread) : List Word :=
  match s.launch? t.lrec with
  | some r => r.args
  | none => []

/-- The stores a thread has issued and that are not yet performed, oldest first. -/
def Thread.ownStores (t : Thread) : List HeldStore := t.buf ++ t.held

/-- The byte that stores not yet performed leave at a key, the youngest first (R271, R315). -/
def heldByte (held : List HeldStore) (k : Nat) : Option Byte :=
  held.foldl (fun acc h => h.writes.foldl (fun acc w =>
    if w.1.key ≤ k ∧ k < w.1.key + w.1.n ∧ w.1.cls ≠ 6 then some (w.2.getD (k - w.1.key) 0) else acc) acc) none

/-- The bytes a thread reads at a place: its own stores first (R271). -/
def State.placeBytes (s : State) (t : Thread) (p : Place) : List Byte :=
  (keysFrom p.key p.n).map (fun k =>
    match if p.cls = 8 then none else heldByte t.ownStores k with
    | some b => b
    | none => s.peek t.agent (s.argsOf t) p k)

/-- Read a place for a thread. -/
def State.readPlace (s : State) (t : Thread) (p : Place) : State × List Byte :=
  let s' := s.prepare t.agent p false
  (s', s'.placeBytes t p)

/-- Read the places of one access in order. -/
def State.readPlaces (s : State) (t : Thread) : List Place → State × List Byte
  | [] => (s, [])
  | p :: r =>
    let (s, b) := s.readPlace t p
    let (s, c) := s.readPlaces t r
    (s, b ++ c)

/-- Read the places of one request (R296). -/
def State.readOnce (s : State) (t : Thread) (ps : List Place) : State × List Byte :=
  let s := s.prepareOnce t.agent false [] ps
  (s, ps.flatMap (s.placeBytes t))

/-- Hand the bytes of an access out to its places. -/
def spread : List Place → List Byte → List (Place × List Byte)
  | [], _ => []
  | p :: r, bs => (p, bs.take p.n) :: spread r (bs.drop p.n)

-- Check 5 of R238 (R301, R420).

/-- The home line of a place is read or changed: not a die copy that is already there, not a stash byte that is. -/
def State.homeLines (s : State) (ag : Agent) (p : Place) : List (Nat × Word) :=
  let va (l : Nat) : Word := p.va - BitVec.ofNat 64 (p.key % 64) + BitVec.ofNat 64 (l - lineOf p.key)
  if p.cls = 8 ∨ p.cls = 6 ∨ p.cls = 4 then []
  else if p.cls = 7 then
    let o := p.key % 2 ^ 20
    p.lines.filterMap (fun l =>
      let ol := l - lineOf p.key + lineOf o
      if s.caches.stashLines.any (fun x => x.die == ag.die && x.pool == ag.pool && decide (x.off.toNat = ol)) then none
      else (s.stashGlobal ag.die ag.pool ol).map (fun g => (g, va l)))
  else if p.onDieCopy ag.die then
    (p.lines.filter (fun l => (s.dieCopyOf ag.die l).isNone)).map (fun l => (l, va l))
  else p.lines.map (fun l => (l, va l))

/-- The sector of a line fails its check (R401, R420), by the first sector the access touches. -/
def State.badSector (s : State) (p : Place) (l : Nat) : Option Nat :=
  ([l, l + 32].filter (fun x => decide (p.key < x + 32) && decide (x < p.key + p.n) || p.cls == 7)).find?
    (fun x => s.caches.badSectors.any (fun y => decide (y.toNat = x)))

/-- Check 5: POISON or CHECK, unless the access is a write that covers the line or the sector (R301, R419). -/
def State.dataCheck (s : State) (ag : Agent) (ps : List Place) (write : Bool) : Chk Unit :=
  if s.caches.poison.isEmpty && s.caches.badSectors.isEmpty then .ok ()
  else
    let ls := ps.flatMap (fun p => (s.homeLines ag p).map (fun x => (p, x)))
    match ls.find? (fun x => s.caches.poison.any (fun y => decide (y.toNat = x.2.1)) && !(write && covers ps x.2.1 64)) with
    | some (_, _, va) => .error (0x07, va)
    | none =>
      match ls.findSome? (fun x => ((s.badSector x.1 x.2.1).filter (fun q => !(write && covers ps q 32))).map
          (fun q => x.2.2 + BitVec.ofNat 64 (q - x.2.1))) with
      | some va => .error (0x08, va)
      | none => .ok ()

-- Waits of a load on its data.

/-- A thread's bell writes that its local mirror has not applied (R234, R282). -/
def State.bellPending (s : State) (h : BitVec 17) : Bool :=
  s.queues.bellQ.any (fun q => q.beats.any (fun b => b.hwid == h && b.op.toNat ≤ 4))
    || s.queues.mirrorQ.any (fun w => w.beat.hwid == h && w.die == dieOf h && decide (w.beat.op.toNat ≤ 4))

/-- A load of a place waits: bytes of an APPEND page reserved and not yet written (R229), a bell word behind the thread's
own bell writes (R282). -/
def State.placeWaits (s : State) (t : Thread) (p : Place) : Bool :=
  match p.cls.toNat with
  | 2 =>
    match s.appendPage? p.key with
    | some g => (keysFrom p.key p.n).any (fun k => decide (g.done.toNat ≤ k % 65536) && decide (k % 65536 < g.reserve.toNat))
    | none => false
  | 4 => s.bellPending t.hwid
  | _ => false

/-- The slice that serves an access to a place of a page (R17, R212, R225). -/
def State.slicesOf (s : State) (d : BitVec 6) (p : Place) : List (BitVec 7 × BitVec 4) :=
  if p.cls.toNat = 4 ∨ 6 ≤ p.cls.toNat then []
  else p.lines.map (fun l =>
    let x := s.sliceOf (BitVec.ofNat 52 l)
    if p.onDieCopy d then (d.zeroExtend 7, x.2) else x)

/-- A load served from an unrecorded copy of its pool is served at no slice (R273). -/
def State.fromCopy (s : State) (ag : Agent) (p : Place) : Bool :=
  p.rq == 2 && p.lines.all (fun l => (s.classEntry ag.die ag.pool (BitVec.ofNat 52 l)).isNone && s.poolServes ag l 2 false)

/-- An access of an L-core thread comes behind an older store of its own that is still on its way, of the same request type and
to the same slice (R17, R273). -/
def State.behindStores (s : State) (t : Thread) (ps : List Place) : Bool :=
  !isB t.hwid && t.buf.any (fun h => h.writes.any (fun w => ps.any (fun p =>
    w.1.rq == p.rq && (s.slicesOf (dieOf t.hwid) w.1).any (fun x => (s.slicesOf (dieOf t.hwid) p).contains x))))

/-- A load of a checked access waits, for its bytes, behind the thread's stores or at a home. -/
def State.loadWaits (s : State) (t : Thread) (ps : List Place) : Bool :=
  ps.any (s.placeWaits t) || s.behindStores t (ps.filter (fun p => !s.fromCopy t.agent p)) || s.homeWaits t.agent ps false

-- Acquire (R276, R262).

/-- Does a region of `n` bytes at a virtual address hold a physical line? -/
def State.regionHolds (s : State) (t : Thread) (base n line : Nat) : Bool :=
  (List.range ((base % 65536 + n + 65535) / 65536)).any (fun i =>
    let page := base / 65536 * 65536 + i * 65536
    match s.leaf? t page with
    | none => false
    | some l =>
      let pa := l.pa + page % l.size
      decide (pa ≤ line) && decide (line < pa + 65536) && decide (base < page + (line - pa) + 64) && decide (page + (line - pa) < base + n))

/-- Discard the unrecorded .i copies of a thread's pool that satisfy a condition, those on their way to it included. -/
def State.discardCopies (s : State) (t : Thread) (f : Nat → Bool) : State :=
  { s with
    caches := { s.caches with copies := s.caches.copies.filter (fun c =>
      c.isConst || !(c.die == dieOf t.hwid && c.pool == poolOf t.hwid) || !f c.line.toNat) }
    pending := s.pending.filter (fun e => match e with
      | .dataMsg m false _ _ => !(m.rq == 2 && m.die == dieOf t.hwid && m.pool == poolOf t.hwid && f m.line.toNat)
      | _ => true) }

/-- An acquire on the object at an address, or the unbound form (R276): the copies of the bound regions go, or all. -/
def State.acquireOn (s : State) (t : Thread) (obj : Option Word) : State :=
  match obj with
  | none => s.discardCopies t (fun _ => true)
  | some x =>
    let bs := t.bindings.filter (fun b => b.obj == x)
    if bs.isEmpty then s.discardCopies t (fun _ => true)
    else s.discardCopies t (fun l => bs.any (fun b => s.regionHolds t b.base.toNat (b.count.toNat * 512) l))

/-- The current thread observes the fills of the registers that satisfy a condition: each is an acquire of what its operation
wrote (R281, R337; log entry 84). -/
def State.observe (s : State) (f : Dst → Bool) : State :=
  if s.th.unseen.any f then
    let s := s.discardCopies s.th (fun _ => true)
    { s with th := { s.th with unseen := s.th.unseen.filter (fun d => !f d) } }
  else s

/-- The aligned 8-byte word that holds an address (R241). -/
def objOf (x : Word) : Word := x &&& ~~~7#64

/-- An atomic of a scope other than THREAD is an acquire on the word that holds its address (R250). -/
def State.acquireAt (s : State) (t : Thread) (scope : BitVec 3) (x : Word) : State :=
  if scope = 0 then s else s.acquireOn t (some (objOf x))

end Sys2Proof.Machine
end

