-- ==== Sys2Proof/Machine/Device.lean ====
section
/-! DEFINITION. Device control space: what its registers read and what a write does, by writer (R350 to R352, R363,
R366 to R369, R372, R386, R387, R407). Offsets are those of R407. -/

namespace Sys2Proof.Machine

/-- Who writes a register of control space (R350, R386, R407). -/
inductive Writer
  | host
  | thread (priv : Bool)
  deriving DecidableEq, Repr

/-- The writer may write what only the host driver writes (R350). -/
def Writer.isHost : Writer → Bool
  | .host => true
  | .thread _ => false

/-- The writer may reach performance windows and doorbells (R386, R407). -/
def Writer.trusted : Writer → Bool
  | .host => true
  | .thread p => p

/-- Replace `n` bytes of a word at byte `o`. -/
def mergeBytes (old : Word) (o n v : Nat) : Word :=
  let m := (2 ^ (8 * n) - 1) * 2 ^ (8 * o)
  (old &&& ~~~BitVec.ofNat 64 m) ||| (BitVec.ofNat 64 (v * 2 ^ (8 * o)) &&& BitVec.ofNat 64 m)

/-- The `n` bytes of a word at byte `o`. -/
def takeBytes (w : Word) (o n : Nat) : Nat := w.toNat / 2 ^ (8 * o) % 2 ^ (8 * n)

-- Performance windows (R386, R387).

/-- An offset of a die's window names a select register (a multiple of 16 below 0x4880). -/
def perfPair (o : Nat) : Bool := o % 16 == 0 && decide (o < 0x4880)

/-- TIMER: the nominal clock divided by 27 (R388). -/
def State.timer (s : State) : Word := BitVec.ofNat 64 (s.cycle / 27)

/-- The pair at an offset of a die's window. R387 gives a reset value to the select registers alone: a count register starts at 0
as well (DESIGN CHOICE, log entry 113). -/
def State.perf? (s : State) (d : BitVec 6) (o : Nat) : Perf :=
  (s.counters.perf.find? (fun p => p.die == d && p.off.toNat == o)).getD ⟨d, BitVec.ofNat 16 o, 0, 0⟩

/-- Put a pair back. -/
def State.putPerf (s : State) (p : Perf) : State :=
  { s with counters := { s.counters with
      perf := p :: s.counters.perf.filter (fun x => !(x.die == p.die && x.off == p.off)) } }

/-- The bits of a select register that software writes: EN, TMASK, EVENT (R387). -/
def perfSelMask : Word := 0x80F000000000FFFF

/-- A select register after a write: OVF is cleared by a written 1, reserved bits stay 0 (R387). -/
def perfSelect (old v : Word) : Word :=
  (v &&& perfSelMask) ||| (old &&& ~~~v &&& 0x4000000000000000)

/-- A register of a window. -/
def State.perfRead (s : State) (d : BitVec 6) (o : Nat) : Word :=
  if o = 0x4880 then s.timer
  else if perfPair o then (s.perf? d o).select
  else if perfPair (o - 8) ∧ 8 ≤ o then (s.perf? d (o - 8)).count
  else 0

/-- Write a register of a window; TIMER is read-only. -/
def State.perfWrite (s : State) (d : BitVec 6) (o : Nat) (v : Word) : State :=
  if o = 0x4880 then s
  else if perfPair o then let p := s.perf? d o; s.putPerf { p with select := perfSelect p.select v }
  else if perfPair (o - 8) ∧ 8 ≤ o then let p := s.perf? d (o - 8); s.putPerf { p with count := v }
  else s

/-- The counters of a thread's core: 64 bytes for each L-core, 128 for each B-core (R386). -/
def State.perfCore (s : State) (h : BitVec 17) (code : BitVec 16) (n : Nat) : State :=
  let lo := if isB h then 0x4000 + 128 * ((bcoreOf h).toNat % 8) else 64 * ((coreOf h).toNat % 256)
  s.perfCount (dieOf h) lo (lo + if isB h then 128 else 64) code (some (h.toNat % 4)) n

/-- The counters of a B-core for an event of no thread. -/
def State.perfBCore (s : State) (b : BitVec 9) (code : BitVec 16) : State :=
  let lo := 0x4000 + 128 * (b.toNat % 8)
  s.perfCount (BitVec.ofNat 6 (b.toNat / 8)) lo (lo + 128) code none 1

-- Tables (R351, R352, R363, R366 to R369).

/-- The queue table entry of a queue (R351). -/
def State.queueEntry (s : State) (q : BitVec 8) : Word × Word :=
  ((s.tables.queues.find? (fun e => e.1 == q)).map (·.2)).getD (0, 0)

/-- Put a queue table entry. -/
def State.putQueue (s : State) (q : BitVec 8) (w0 w1 : Word) : State :=
  { s with tables := { s.tables with queues := (q, w0, w1) :: s.tables.queues.filter (·.1 != q) } }

/-- The base of a queue. -/
def queueBase (w0 : Word) : Nat := (w0.extractLsb' 12 40).toNat * 4096

/-- The slots of a queue. -/
def queueSlots (w0 : Word) : Nat := 2 ^ (w0.extractLsb' 0 5).toNat

/-- RSV and RIDX of a queue (R325). -/
def State.queueIdx (s : State) (w0 : Word) : Word × Word :=
  (Memory.read64 s.mem (queueBase w0), Memory.read64 s.mem (queueBase w0 + 8))

/-- The queue's words lie in HBM or host memory (R351). -/
def queueBaseOk (w0 : Word) : Bool :=
  match physOf (queueBase w0) with
  | .hbm => true
  | .host => true
  | _ => false

/-- A host write of a queue table word (R351): refused where it would be wrong or change a queue in use. An entry whose LOGS is 0
has no slots and is no queue in use, whatever the words at its BASE hold (DESIGN CHOICE, log entry 123). -/
def State.writeQueue (s : State) (q : BitVec 8) (word : Nat) (v : Word) : State :=
  let (w0, w1) := s.queueEntry q
  if word = 1 then (if v.extractLsb' 16 48 ≠ 0 then s else s.putQueue q w0 v)
  else
    let logs := (v.extractLsb' 0 5).toNat
    let moved := v.extractLsb' 12 40 ≠ w0.extractLsb' 12 40 ∨ v.extractLsb' 0 5 ≠ w0.extractLsb' 0 5
      ∨ v.extractLsb' 56 6 ≠ w0.extractLsb' 56 6
    if v.extractLsb' 52 4 ≠ 0 ∨ v.extractLsb' 5 7 ≠ 0 then s
    else if v.getLsbD 63 ∧ (logs = 0 ∨ 16 < logs ∨ !queueBaseOk v) then s
    else if moved ∧ w0.extractLsb' 0 5 ≠ 0 ∧ (s.queueIdx w0).1 ≠ (s.queueIdx w0).2 then s
    else s.putQueue q v w1

/-- A write of word 0 or 1 of an ASID table entry: the bits R363 does not list stay zero. -/
def State.writeAsid (s : State) (a : BitVec 16) (word : Nat) (v : Word) : State :=
  let (w0, w1) := s.asidEntry a
  let e := if word = 0 then (v &&& 0x000FFFFFFFFFF000, w1) else (w0, v &&& 0xC00000000000000F)
  { s with tables := { s.tables with asids := assoc s.tables.asids a e } }

/-- The partition words of a die (R352, R366). -/
def State.partEntry (s : State) (d : BitVec 6) : Word × Word :=
  ((s.tables.parts.find? (fun e => e.1 == d)).map (·.2)).getD (0, 0)

/-- The partition of a pool of a die (R366). -/
def State.partOf (s : State) (d : BitVec 6) (p : BitVec 5) : BitVec 4 :=
  let (w0, w1) := s.partEntry d
  if p.toNat < 16 then BitVec.ofNat 4 (w0.toNat / 2 ^ (4 * p.toNat)) else BitVec.ofNat 4 (w1.toNat / 2 ^ (4 * (p.toNat - 16)))

/-- A write of the partition table. -/
def State.writePart (s : State) (d : BitVec 6) (word : Nat) (v : Word) : State :=
  let (w0, w1) := s.partEntry d
  let e := if word = 0 then (v, w1) else (w0, v &&& 0xFFFFFFFF)
  { s with tables := { s.tables with parts := (d, e.1, e.2) :: s.tables.parts.filter (·.1 != d) } }

/-- The entry of BELLTAB that a slot has at reset (R367). -/
def belltabReset (slot : BitVec 8) : BitVec 16 :=
  if slot = 0 then 0x8000 else BitVec.ofNat 16 (16384 + ((slot.toNat - 1) % 8) * 2048)

/-- BELLTAB in the current frame (R367). -/
def State.belltab (s : State) (st : BitVec 3) (slot : BitVec 8) : BitVec 16 :=
  ((s.tables.belltab.find? (fun e => e.1 == st && e.2.1 == slot)).map (·.2.2)).getD (belltabReset slot)

/-- A write to BELLTAB waits for the frame boundary; slot 0 is fixed (R352, R367). `part` marks a write of PART by the timetable
core, else KIND and LAYER are written. KIND 3 is reserved, and no rule says what a write of it does: it is ignored, LAYER too
(DESIGN CHOICE, log entry 120). -/
def State.writeBelltab (s : State) (st : BitVec 3) (slot : BitVec 8) (v : BitVec 16) (part : Bool) : State :=
  if slot = 0 ∨ (!part ∧ v.extractLsb' 14 2 = 3) then s
  else { s with tables := { s.tables with bellPend := s.tables.bellPend ++ [(st, slot, v, part)] } }

/-- An entry after a write that waited (R352). -/
def belltabMerge (old v : BitVec 16) (part : Bool) : BitVec 16 :=
  if part then (old &&& 0xFFF0) ||| (v &&& 0xF) else (old &&& 0xF) ||| (v &&& 0xF800)

/-- The writes that wait for a stack's frame boundary apply in arrival order (R367). -/
def State.applyBelltab (s : State) (st : BitVec 3) : State :=
  let s := (s.tables.bellPend.filter (·.1 == st)).foldl (fun (s : State) e =>
    { s with tables := { s.tables with
        belltab := (st, e.2.1, belltabMerge (s.belltab st e.2.1) e.2.2.1 e.2.2.2)
          :: s.tables.belltab.filter (fun x => !(x.1 == st && x.2.1 == e.2.1)) } }) s
  { s with tables := { s.tables with bellPend := s.tables.bellPend.filter (·.1 != st) } }

/-- A layer and partition own a slot of their stack's frame (R265, R380). -/
def State.ownsBellSlot (s : State) (d : BitVec 6) (part : BitVec 4) : Bool :=
  (List.range 256).any (fun i =>
    let e := s.belltab (stackOf d) (BitVec.ofNat 8 i)
    e.extractLsb' 14 2 == 1 && e.extractLsb' 11 3 == layerOf d && e.extractLsb' 0 4 == part)

/-- A confluence entry from its OP, FMT and OFMT. -/
def confWord (op fmt ofmt : Nat) : BitVec 16 := BitVec.ofNat 16 (0x8000 + op * 2048 + fmt * 128 + ofmt * 8)

/-- The confluence operation table at reset (R368). -/
def confReset (i : BitVec 8) : BitVec 16 :=
  match i.toNat with
  | 0 => confWord 0 9 0
  | 1 => confWord 0 11 0
  | 2 => confWord 6 1 0
  | 3 => confWord 6 3 0
  | 4 => confWord 6 0 0
  | 5 => confWord 1 9 0
  | 6 => confWord 1 1 0
  | 7 => confWord 2 1 0
  | 8 => confWord 4 12 0
  | 9 => confWord 5 12 0
  | 10 => confWord 7 1 4
  | 11 => confWord 7 1 8
  | _ => 0

/-- A confluence operation table entry (R368). -/
def State.confEntry (s : State) (i : BitVec 8) : BitVec 16 := (lookup? s.tables.conf i).getD (confReset i)

/-- The combinations R368 allows, of an entry that is not VALID as of one that is (log entry 97). -/
def confOk (e : BitVec 16) : Bool :=
  let op := (e.extractLsb' 11 4).toNat
  let fmt := (e.extractLsb' 7 4).toNat
  let ofmt := (e.extractLsb' 3 4).toNat
  let isInt := decide (9 ≤ fmt)
  let isFp := decide (fmt ≤ 3)
  e.extractLsb' 0 3 == 0 &&
  (match op with
    | 0 | 3 | 4 | 5 => isInt && ofmt == 0
    | 1 | 2 => (isInt || isFp) && ofmt == 0
    | 6 => isFp && ofmt == 0
    | 7 => fmt == 1 && decide (4 ≤ ofmt) && decide (ofmt ≤ 8)
    | _ => false)

/-- A host write of a confluence entry; a combination outside the table is refused (R352, R368). -/
def State.writeConf (s : State) (i : BitVec 8) (v : BitVec 16) : State :=
  if confOk v then { s with tables := { s.tables with conf := assoc s.tables.conf i v } } else s

/-- The thresholds of MCQMIG at reset (R369). -/
def mcqmigReset (level : BitVec 2) : BitVec 32 :=
  match level with
  | 0 => 65536
  | 1 => 16384
  | 2 => 4096
  | _ => 1024

/-- A threshold of a die (R369). -/
def State.mcqmig (s : State) (d : BitVec 6) (level : BitVec 2) : BitVec 32 :=
  ((s.tables.mcqmig.find? (fun e => e.1 == d && e.2.1 == level)).map (·.2.2)).getD (mcqmigReset level)

/-- A write of a threshold. -/
def State.writeMcqmig (s : State) (d : BitVec 6) (level : BitVec 2) (v : BitVec 32) : State :=
  { s with tables := { s.tables with
      mcqmig := (d, level, v) :: s.tables.mcqmig.filter (fun e => !(e.1 == d && e.2.1 == level)) } }

/-- Write the frame home table. -/
def State.writeFrameHome (s : State) (f : BitVec 24) (v : BitVec 8) : State :=
  { s with tables := { s.tables with frameHome := assoc s.tables.frameHome f v } }

-- Completion counters (R372).

/-- A counter's entry, all zero at reset. -/
def State.ctr (s : State) (c : BitVec 12) : Counter :=
  (s.counters.done.find? (fun x => x.cid == c)).getD ⟨c, 0, 0, 0, 0⟩

/-- Put a counter's entry. -/
def State.putCtr (s : State) (c : Counter) : State :=
  { s with counters := { s.counters with done := c :: s.counters.done.filter (·.cid != c.cid) } }

/-- VALID. -/
def Counter.valid (c : Counter) : Bool := c.w1.getLsbD 63

/-- LEVEL: 0 launch, 1 graph, 2 phase, 3 job. -/
def Counter.level (c : Counter) : BitVec 2 := c.w1.extractLsb' 61 2

/-- CLOSED. -/
def Counter.closed (c : Counter) : Bool := c.w1.getLsbD 60

/-- STATE: 0 IDLE, 1 ACTIVE, 2 DONE. -/
def Counter.state (c : Counter) : BitVec 2 := c.w1.extractLsb' 58 2

/-- CANC. -/
def Counter.canc (c : Counter) : Bool := c.w1.getLsbD 57

/-- ASID. -/
def Counter.asid (c : Counter) : BitVec 16 := c.w1.extractLsb' 32 16

/-- ENDED. -/
def Counter.ended (c : Counter) : BitVec 24 := c.w1.extractLsb' 0 24

/-- EXPECT. -/
def Counter.expect (c : Counter) : BitVec 24 := c.w2.extractLsb' 0 24

/-- Word 1 with one bit set. -/
def Counter.setBit (c : Counter) (k : Nat) : Counter := { c with w1 := c.w1 ||| (1#64 <<< k) }

/-- Set STATE. -/
def Counter.setState (c : Counter) (v : BitVec 2) : Counter :=
  { c with w1 := (c.w1 &&& 0xF3FFFFFFFFFFFFFF) ||| (v.zeroExtend 64 <<< 58) }

/-- Set ENDED. -/
def Counter.setEnded (c : Counter) (v : BitVec 24) : Counter :=
  { c with w1 := (c.w1 &&& 0xFFFFFFFFFF000000) ||| v.zeroExtend 64 }

/-- Set EXPECT. -/
def Counter.setExpect (c : Counter) (v : BitVec 24) : Counter := { c with w2 := v.zeroExtend 64 }

/-- The bits of word 1 that the host driver writes besides STATE: VALID, LEVEL, CLOSED, ASID. -/
def ctrW1Mask : Word := 0xF000FFFF00000000

/-- A host write of a word of a counter entry (R372). Words 0 and 3 are read-only. -/
def Counter.hostWrite (c : Counter) (word : Nat) (v : Word) : Counter :=
  let active := c.valid && c.state == 1
  match word with
  | 1 =>
    if active then (if v.getLsbD 60 then c.setBit 60 else c)
    else
      let w1 := v &&& ctrW1Mask
      { c with w1 := w1, status := 0, donecyc := 0
               w2 := if 2 ≤ (w1.extractLsb' 61 2).toNat then 0 else c.w2 }
  | 2 => if active then c else { c with w2 := v &&& 0xFFFFFF }
  | _ => c

/-- The words of an entry. -/
def Counter.word (c : Counter) (k : Nat) : Word :=
  match k with
  | 0 => c.status
  | 1 => c.w1
  | 2 => c.w2
  | _ => c.donecyc

/-- A phase or job counter that the host driver closes may complete (R374); the completion is a matter of the counter's
own event. -/
def State.writeCtr (s : State) (c : BitVec 12) (word : Nat) (v : Word) : State := s.putCtr ((s.ctr c).hostWrite word v)

-- Doorbells (R407, R326).

/-- The reader of a queue. -/
def State.reader (s : State) (q : BitVec 8) : Reader :=
  (s.queues.readers.find? (fun r => r.q == q)).getD ⟨q, false, 0, 0, false⟩

/-- Put a reader back. -/
def State.putReader (s : State) (r : Reader) : State :=
  { s with queues := { s.queues with readers := r :: s.queues.readers.filter (·.q != r.q) } }

/-- A write of any value to a doorbell wakes the queue's reader (R407). -/
def State.ring (s : State) (q : BitVec 8) : State :=
  (s.putReader { s.reader q with awake := true }).send (.launchPacket q)

-- The registers of control space (R407).

/-- A 64-bit word of four table entries of 16 bits. -/
def quad16 (f : Nat → BitVec 16) : Word := f 3 ++ f 2 ++ f 1 ++ f 0

/-- The offset in control space that a BAR0 offset is an alias of (R407); one that is none reads zero there too. -/
def bar0Off (o : Nat) : Nat :=
  if o < 0x1000 then 0x5022000 + o else if o < 0x1800 then 0x5021000 + (o - 0x1000) else 0x5023000

/-- The 8-byte word at an aligned offset: none where the spec states no value for a read (doorbells, a performance window to
a thread without the privilege). -/
def State.devWord (s : State) (w : Writer) (o : Nat) : Option Word :=
  if o < 0x400000 then (if w.trusted then some (s.perfRead (BitVec.ofNat 6 (o / 65536)) (o % 65536)) else none)
  else if 0x1000000 ≤ o ∧ o < 0x2000000 then
    let f (k : Nat) := s.frameHomeOf (BitVec.ofNat 24 (o - 0x1000000 + k))
    some (f 7 ++ f 6 ++ f 5 ++ f 4 ++ f 3 ++ f 2 ++ f 1 ++ f 0)
  else if 0x4000000 ≤ o ∧ o < 0x4100000 then
    let e := s.asidEntry (BitVec.ofNat 16 ((o - 0x4000000) / 16))
    some (if o % 16 = 0 then e.1 else e.2)
  else if 0x5000000 ≤ o ∧ o < 0x5020000 then some ((s.ctr (BitVec.ofNat 12 ((o - 0x5000000) / 32))).word (o % 32 / 8))
  else if 0x5020000 ≤ o ∧ o < 0x5021000 then
    let e := s.queueEntry (BitVec.ofNat 8 ((o - 0x5020000) / 16))
    some (if o % 16 = 0 then e.1 else e.2)
  else if 0x5021000 ≤ o ∧ o < 0x5021800 then none
  else if 0x5022000 ≤ o ∧ o < 0x5023000 then some (BitVec.ofNat 64 (Memory.readNat s.boundary.mailbox (o - 0x5022000) 8))
  else if 0x5030000 ≤ o ∧ o < 0x5030400 then
    let e := s.partEntry (BitVec.ofNat 6 ((o - 0x5030000) / 16))
    some (if o % 16 = 0 then e.1 else e.2)
  else if 0x5031000 ≤ o ∧ o < 0x5032000 then
    some (quad16 (fun k => s.belltab (BitVec.ofNat 3 ((o - 0x5031000) / 512)) (BitVec.ofNat 8 ((o - 0x5031000) / 2 + k))))
  else if 0x5032000 ≤ o ∧ o < 0x5032200 then
    some (quad16 (fun k => s.confEntry (BitVec.ofNat 8 ((o - 0x5032000) / 2 + k))))
  else if 0x5033000 ≤ o ∧ o < 0x5033400 then
    let d := BitVec.ofNat 6 ((o - 0x5033000) / 16)
    let l := (o - 0x5033000) % 16 / 4
    some (s.mcqmig d (BitVec.ofNat 2 (l + 1)) ++ s.mcqmig d (BitVec.ofNat 2 l))
  else some 0

/-- Write 16-bit entries: those wholly inside the access. -/
def write16 (f : State → Nat → BitVec 16 → State) (s : State) (o n v : Nat) : State :=
  (List.range (n / 2)).foldl (fun s k => f s (o / 2 + k) (BitVec.ofNat 16 (v / 2 ^ (16 * k)))) s

/-- A write of `n` bytes at an offset (R350, R352, R407): refused and without effect where the writer is not one of the
table's. A narrower write to an 8-byte register leaves its other bytes (DEDUCED from R352). No rule names a thread as a writer of
the host mailbox: its store there is without effect (DEDUCED, log entry 80). -/
def State.devWrite (s : State) (w : Writer) (o n v : Nat) : State :=
  let o8 := o / 8 * 8
  let merged := mergeBytes ((s.devWord .host o8).getD 0) (o % 8) n v
  if o < 0x400000 then
    let old := s.perfRead (BitVec.ofNat 6 (o / 65536)) (o8 % 65536)
    let isSel := perfPair (o8 % 65536)
    -- an unwritten OVF byte clears nothing
    let keepOvf := if o % 8 + n = 8 then merged else merged &&& 0xBFFFFFFFFFFFFFFF
    if w.trusted then s.perfWrite (BitVec.ofNat 6 (o / 65536)) (o8 % 65536)
      (if isSel then keepOvf else mergeBytes old (o % 8) n v) else s
  else if 0x5021000 ≤ o ∧ o < 0x5021800 then
    if w.trusted then s.ring (BitVec.ofNat 8 ((o - 0x5021000) / 8)) else s
  else if !w.isHost then s
  else if 0x5022000 ≤ o ∧ o < 0x5023000 then
    { s with boundary := { s.boundary with mailbox := Memory.writeNat s.boundary.mailbox (o - 0x5022000) n v } }
  else if 0x1000000 ≤ o ∧ o < 0x2000000 then
    (List.range n).foldl (fun s k => s.writeFrameHome (BitVec.ofNat 24 (o - 0x1000000 + k)) (BitVec.ofNat 8 (v / 2 ^ (8 * k)))) s
  else if 0x4000000 ≤ o ∧ o < 0x4100000 then s.writeAsid (BitVec.ofNat 16 ((o - 0x4000000) / 16)) (o % 16 / 8) merged
  else if 0x5000000 ≤ o ∧ o < 0x5020000 then s.writeCtr (BitVec.ofNat 12 ((o - 0x5000000) / 32)) (o % 32 / 8) merged
  else if 0x5020000 ≤ o ∧ o < 0x5021000 then s.writeQueue (BitVec.ofNat 8 ((o - 0x5020000) / 16)) (o % 16 / 8) merged
  else if 0x5030000 ≤ o ∧ n < 2 then s
  else if 0x5030000 ≤ o ∧ o < 0x5030400 then s.writePart (BitVec.ofNat 6 ((o - 0x5030000) / 16)) (o % 16 / 8) merged
  else if 0x5031000 ≤ o ∧ o < 0x5032000 then
    write16 (fun s i x => s.writeBelltab (BitVec.ofNat 3 (i / 256)) (BitVec.ofNat 8 i) x false) s (o - 0x5031000) n v
  else if 0x5032000 ≤ o ∧ o < 0x5032200 then
    write16 (fun s i x => s.writeConf (BitVec.ofNat 8 i) x) s (o - 0x5032000) n v
  else if 0x5033000 ≤ o ∧ o < 0x5033400 then
    let d := BitVec.ofNat 6 ((o - 0x5033000) / 16)
    let l := (o - 0x5033000) % 16 / 4
    if n = 8 then (s.writeMcqmig d (BitVec.ofNat 2 l) (BitVec.ofNat 32 v)).writeMcqmig d (BitVec.ofNat 2 (l + 1)) (BitVec.ofNat 32 (v / 2 ^ 32))
    else s.writeMcqmig d (BitVec.ofNat 2 l) ((mergeBytes ((s.mcqmig d (BitVec.ofNat 2 l)).zeroExtend 64) (o % 4) n v).extractLsb' 0 32)
  else s

/-- Free bytes, drawn afresh (log entry 6). -/
def State.freshNat (s : State) : Nat → State × Nat
  | 0 => (s, 0)
  | n + 1 =>
    let (s', r) := State.freshNat { s with free := s.free + 1 } n
    (s', (Config.freeByte s.free).toNat + 256 * r)

/-- A read of `n` bytes at an offset. R352 names accesses of 2, 4 and 8 bytes: a read of one byte gives that byte (DESIGN CHOICE,
log entry 122). -/
def State.devRead (s : State) (w : Writer) (o n : Nat) : State × Nat :=
  match s.devWord w (o / 8 * 8) with
  | some x => (s, takeBytes x (o % 8) n)
  | none => s.freshNat n

end Sys2Proof.Machine
end

