-- ==== Sys2Proof/Machine/Flags.lean ====
section
/-! DEFINITION. Floating-point formats, images, rounding and flags (R78, R79, R85 to R98).

Arithmetic is exact on natural numbers: a finite value is a sign, a significand `m` and an exponent `e`, worth `m * 2^e`;
a result whose exact value has no finite binary form carries a sticky bit, so that it lies strictly between `m * 2^e` and
`(m + 1) * 2^e`. -/

namespace Sys2Proof.Machine

/-- A set of IEEE flags in the order of FCSR[4:0]: NV, DZ, OF, UF, NX from high to low (R112). -/
abbrev Flags := BitVec 5

/-- Invalid operation. -/
def fNV : Flags := 16
/-- Division by zero. -/
def fDZ : Flags := 8
/-- Overflow. -/
def fOF : Flags := 4
/-- Underflow. -/
def fUF : Flags := 2
/-- Inexact. -/
def fNX : Flags := 1

/-- A floating-point format (R78, R79): width, precision, exponent range, largest finite significand, whether it has
infinities, and its canonical quiet NaN if it has one. -/
structure Fmt where
  w : Nat
  p : Nat
  emin : Int
  emax : Int
  maxm : Nat
  hasInf : Bool
  qnan : Option Nat
  deriving DecidableEq, Repr

/-- F64. -/
def F64 : Fmt := ⟨64, 53, -1022, 1023, 9007199254740991, true, some 0x7FF8000000000000⟩
/-- F32. -/
def F32 : Fmt := ⟨32, 24, -126, 127, 16777215, true, some 0x7FC00000⟩
/-- F16. -/
def F16 : Fmt := ⟨16, 11, -14, 15, 2047, true, some 0x7E00⟩
/-- BF16. -/
def BF16 : Fmt := ⟨16, 8, -126, 127, 255, true, some 0x7FC0⟩
/-- E4M3. -/
def E4M3 : Fmt := ⟨8, 4, -6, 8, 14, false, some 0x7F⟩
/-- E5M2. -/
def E5M2 : Fmt := ⟨8, 3, -14, 15, 7, true, some 0x7E⟩
/-- E3M2. -/
def E3M2 : Fmt := ⟨6, 3, -2, 4, 7, false, none⟩
/-- E2M3. -/
def E2M3 : Fmt := ⟨6, 4, 0, 2, 15, false, none⟩
/-- E2M1. -/
def E2M1 : Fmt := ⟨4, 2, 0, 2, 3, false, none⟩

/-- The floating-point format of a 4-bit code 0 to 8 (R56). -/
def fmtOf (c : BitVec 4) : Fmt :=
  match c.toNat with
  | 0 => F64
  | 1 => F32
  | 2 => F16
  | 3 => BF16
  | 4 => E4M3
  | 5 => E5M2
  | 6 => E3M2
  | 7 => E2M3
  | _ => E2M1

/-- The format of a 2-bit fmt field (R56). -/
def fmt2 (t : BitVec 2) : Fmt := fmtOf (t.zeroExtend 4)

/-- What an encoding of a format stands for (R78, R79). A NaN keeps its fraction; `sig` tells a signalling one. -/
inductive Num
  | nan (neg : Bool) (frac : Nat) (sig : Bool)
  | inf (neg : Bool)
  | fin (neg : Bool) (m : Nat) (e : Int)
  deriving DecidableEq, Repr

/-- The largest exponent field. -/
def Fmt.top (f : Fmt) : Nat := 2 ^ (f.w - f.p) - 1

/-- The sign bit's weight. -/
def Fmt.signBit (f : Fmt) (neg : Bool) : Nat := if neg then 2 ^ (f.w - 1) else 0

/-- The exponent of the last place of subnormal numbers. -/
def Fmt.qmin (f : Fmt) : Int := f.emin - ((f.p : Int) - 1)

/-- Read an encoding (R78, R79). -/
def Fmt.num (f : Fmt) (bits : Nat) : Num :=
  let b := bits % 2 ^ f.w
  let neg := decide (2 ^ (f.w - 1) ≤ b)
  let x := b % 2 ^ (f.w - 1) / 2 ^ (f.p - 1)
  let fr := b % 2 ^ (f.p - 1)
  if f.hasInf && x == f.top then
    if fr = 0 then .inf neg else .nan neg fr (decide (fr < 2 ^ (f.p - 2)))
  else if f.qnan.isSome && x == f.top && fr == 2 ^ (f.p - 1) - 1 then .nan neg fr false
  else if x = 0 then .fin neg fr f.qmin
  else .fin neg (2 ^ (f.p - 1) + fr) (f.qmin + ((x : Int) - 1))

/-- The encoding of `m * 2^q`, where `q` is the exponent of the last place (R78). -/
def Fmt.enc (f : Fmt) (neg : Bool) (m : Nat) (q : Int) : Nat :=
  f.signBit neg + (if m < 2 ^ (f.p - 1) then m else (q - f.qmin + 1).toNat * 2 ^ (f.p - 1) + (m - 2 ^ (f.p - 1)))

/-- ±maxf. -/
def Fmt.maxf (f : Fmt) (neg : Bool) : Nat := f.enc neg f.maxm (f.emax - ((f.p : Int) - 1))

/-- An infinity. -/
def Fmt.infBits (f : Fmt) (neg : Bool) : Nat := f.signBit neg + f.top * 2 ^ (f.p - 1)

/-- The canonical quiet NaN, or +0 in a format without NaNs (R79, R98). -/
def Fmt.canon (f : Fmt) : Nat := f.qnan.getD 0

/-- A NaN with its quiet bit set, sign and payload kept (R97). -/
def Fmt.quiet (f : Fmt) (neg : Bool) (frac : Nat) : Nat :=
  f.signBit neg + f.top * 2 ^ (f.p - 1) + (frac ||| 2 ^ (f.p - 2))

/-- The overflow result of R92. -/
def Fmt.overflow (f : Fmt) (rm : BitVec 3) (neg : Bool) : Nat :=
  let toInf := match rm.toNat with
    | 1 => false
    | 2 => !neg
    | 3 => neg
    | _ => true
  if f.hasInf && toInf then f.infBits neg else f.maxf neg

/-- Whether a magnitude with discarded bits `g`, `s` and last kept bit `lsb` goes up (R91). -/
def roundsUp (rm : BitVec 3) (neg lsb g s : Bool) : Bool :=
  match rm.toNat with
  | 0 => g && (s || lsb)
  | 2 => !neg
  | 3 => neg
  | 4 => g
  | _ => false

/-- A magnitude cut to the precision of a format: what is kept and the exponent of its last place, guard, sticky, and
whether the exact magnitude lies below 2^emin. -/
structure Cut where
  m : Nat
  q : Int
  g : Bool
  s : Bool
  tiny : Bool
  deriving DecidableEq, Repr

/-- Cut `m * 2^e`, plus something below one more unit when `st`. -/
def Fmt.cut (f : Fmt) (m : Nat) (e : Int) (st : Bool) : Cut :=
  if m = 0 then ⟨0, f.qmin, false, st, true⟩
  else
    let ex := e + (Nat.log2 m : Int)
    let q := max ex f.emin - ((f.p : Int) - 1)
    let tiny := decide (ex < f.emin)
    if q ≤ e then ⟨m * 2 ^ (e - q).toNat, q, false, st, tiny⟩
    else
      let k := (q - e).toNat
      ⟨m / 2 ^ k, q, m.testBit (k - 1), m % 2 ^ (k - 1) != 0 || st, tiny⟩

/-- A cut magnitude is above maxf. -/
def Fmt.above (f : Fmt) (m : Nat) (q : Int) : Bool :=
  let qt := f.emax - ((f.p : Int) - 1)
  if qt ≤ q then decide (f.maxm < m * 2 ^ (q - qt).toNat) else decide (f.maxm * 2 ^ (qt - q).toNat < m)

/-- Round a cut magnitude (R91, R92, R95): the encoding and the flags. `ovf` forces the overflow of R91's last case. -/
def Fmt.roundCut (f : Fmt) (rm : BitVec 3) (neg : Bool) (c : Cut) (ovf : Bool) : Nat × Flags :=
  if !c.g && !c.s && !ovf && !f.above c.m c.q then (f.enc neg c.m c.q, 0)
  else
    let r := if roundsUp rm neg (c.m % 2 == 1) c.g c.s then c.m + 1 else c.m
    if ovf || f.above r c.q then (f.overflow rm neg, fOF ||| fNX)
    else (f.enc neg r c.q, fNX ||| (if c.tiny then fUF else 0))

/-- Round an exact value to a format (R88, R92, R95). -/
def Fmt.round (f : Fmt) (rm : BitVec 3) (neg : Bool) (m : Nat) (e : Int) (st : Bool) : Nat × Flags :=
  f.roundCut rm neg (f.cut m e st) false

/-- The two tail bits of a cut. -/
def Cut.tail (c : Cut) : Nat := (if c.g then 2 else 0) + (if c.s then 1 else 0)

/-- The round-to-odd image of an exact value (R87): encoding and tail. -/
def Fmt.rto (f : Fmt) (neg : Bool) (m : Nat) (e : Int) (st : Bool) : Nat × Nat :=
  let c := f.cut m e st
  if f.above c.m c.q then (f.maxf neg, 3) else (f.enc neg c.m c.q, c.tail)

/-- Does an image have the encoding of ±maxf and tail 11 (R90)? -/
def Fmt.isMax11 (f : Fmt) (bits tail : Nat) : Bool := tail == 3 && bits % 2 ^ (f.w - 1) == f.maxf false

/-- round(img, m) of R91: the value with tail 00, and the flags. -/
def Fmt.roundImg (f : Fmt) (rm : BitVec 3) (bits tail : Nat) : Nat × Flags :=
  let b := bits % 2 ^ f.w
  if tail % 4 = 0 then (b, 0)
  else match f.num b with
    | .fin neg m q =>
      f.roundCut rm neg ⟨m, q, (tail % 4).testBit 1, (tail % 4).testBit 0, decide (m < 2 ^ (f.p - 1))⟩ (f.isMax11 b (tail % 4))
    | _ => (b, 0)

/-- The real value a raw image stands for, as a significand with two more bits (R90). -/
def Fmt.imgVal (f : Fmt) (bits tail : Nat) : Num :=
  match f.num bits with
  | .fin neg m q => if f.isMax11 (bits % 2 ^ f.w) (tail % 4) then .fin neg ((m + 1) * 4) (q - 2) else .fin neg (m * 4 + tail % 4) (q - 2)
  | n => n

/-- The grid point an image is, which the exact compares order (R90). -/
def Fmt.gridVal (f : Fmt) (bits tail : Nat) : Num :=
  match f.num bits with
  | .fin neg m q => .fin neg (m * 4 + tail % 4) (q - 2)
  | n => n

/-- What an operation computes exactly: an encoding that needs no rounding, or a value to be rounded or kept. -/
inductive Ex
  | enc (bits : Nat)
  | val (neg : Bool) (m : Nat) (e : Int) (st : Bool)
  deriving DecidableEq, Repr

/-- Write an exact result under R88: rounded with tail 00, or kept. The last component holds all flags. -/
def Fmt.deliver (f : Fmt) (rm : BitVec 3) (keep : Bool) (r : Ex × Flags) : Nat × Nat × Flags :=
  match r.1 with
  | .enc b => (b, 0, r.2)
  | .val neg m e st =>
    if keep then
      let (b, t) := f.rto neg m e st
      (b, t, r.2)
    else
      let (b, g) := f.round rm neg m e st
      (b, 0, r.2 ||| g)

-- NaNs (R97).

/-- Is it a NaN? -/
def Num.isNan : Num → Bool
  | .nan _ _ _ => true
  | _ => false

/-- Is it a signalling NaN? -/
def Num.isSig : Num → Bool
  | .nan _ _ s => s
  | _ => false

/-- NV when an operand signals. -/
def sigFlags (xs : List Num) : Flags := if xs.any Num.isSig then fNV else 0

/-- The NaN a list of operands gives: the first, quieted (R97). -/
def Fmt.firstNan (f : Fmt) : List Num → Option Nat
  | [] => none
  | .nan neg fr _ :: _ => some (f.quiet neg fr)
  | _ :: r => f.firstNan r

/-- Apply an operation to operands of which none is a NaN; else the NaN of R97. -/
def Fmt.nanOr (f : Fmt) (xs : List Num) (k : Ex × Flags) : Ex × Flags :=
  match f.firstNan xs with
  | some b => (.enc b, sigFlags xs)
  | none => k

/-- An invalid operation (R97). -/
def Fmt.invalid (f : Fmt) : Ex × Flags := (.enc f.canon, fNV)

-- FPTRAP and FCSR (R165).

/-- The flags trap (R165). -/
def flagsTrap (enables : BitVec 5) (fl : Flags) : Bool := enables &&& fl != 0

end Sys2Proof.Machine
end

