-- ==== Sys2Proof/Machine/Float.lean ====
section
/-! DEFINITION. Floating-point operations as functions on encodings (R97 to R99, R168 to R175). -/

namespace Sys2Proof.Machine

/-- A signed significand over 2^e. -/
def signed (neg : Bool) (m : Nat) : Int := if neg then -(m : Int) else m

/-- The sign of an exact zero sum of terms of opposite signs (R168). -/
def zeroSign (rm : BitVec 3) : Bool := rm == 3

/-- The exact sum of two finite values. -/
def addFin (rm : BitVec 3) (n1 : Bool) (m1 : Nat) (e1 : Int) (n2 : Bool) (m2 : Nat) (e2 : Int) : Ex :=
  let e := min e1 e2
  let x := signed n1 (m1 * 2 ^ (e1 - e).toNat) + signed n2 (m2 * 2 ^ (e2 - e).toNat)
  if x = 0 then .val (if n1 = n2 then n1 else zeroSign rm) 0 e false
  else .val (decide (x < 0)) x.natAbs e false

/-- x + y on values that are no NaNs (R168). -/
def Fmt.addNum (f : Fmt) (rm : BitVec 3) (x y : Num) : Ex × Flags :=
  match x, y with
  | .inf a, .inf b => if a = b then (.enc (f.infBits a), 0) else f.invalid
  | .inf a, _ => (.enc (f.infBits a), 0)
  | _, .inf b => (.enc (f.infBits b), 0)
  | .fin n1 m1 e1, .fin n2 m2 e2 => (addFin rm n1 m1 e1 n2 m2 e2, 0)
  | _, _ => f.invalid

/-- The negation of a value that is no NaN. -/
def Num.neg : Num → Num
  | .inf a => .inf (!a)
  | .fin n m e => .fin (!n) m e
  | n => n

/-- The sign of a value. -/
def Num.sign : Num → Bool
  | .nan a _ _ => a
  | .inf a => a
  | .fin a _ _ => a

/-- x × y on values that are no NaNs (R168). -/
def Fmt.mulNum (f : Fmt) (x y : Num) : Ex × Flags :=
  let n := x.sign != y.sign
  match x, y with
  | .inf _, .fin _ m _ => if m = 0 then f.invalid else (.enc (f.infBits n), 0)
  | .fin _ m _, .inf _ => if m = 0 then f.invalid else (.enc (f.infBits n), 0)
  | .fin _ m1 e1, .fin _ m2 e2 => (.val n (m1 * m2) (e1 + e2) false, 0)
  | _, _ => (.enc (f.infBits n), 0)

/-- x ÷ y on values that are no NaNs (R168). -/
def Fmt.divNum (f : Fmt) (x y : Num) : Ex × Flags :=
  let n := x.sign != y.sign
  match x, y with
  | .inf _, .inf _ => f.invalid
  | .inf _, _ => (.enc (f.infBits n), 0)
  | _, .inf _ => (.val n 0 f.qmin false, 0)
  | .fin _ m1 e1, .fin _ m2 e2 =>
    if m2 = 0 then (if m1 = 0 then f.invalid else (.enc (f.infBits n), fDZ))
    else if m1 = 0 then (.val n 0 f.qmin false, 0)
    else
      let k := f.p + 4 + Nat.log2 m2
      (.val n (m1 * 2 ^ k / m2) (e1 - e2 - k) (m1 * 2 ^ k % m2 != 0), 0)
  | _, _ => f.invalid

/-- The integer square root by bits, from bit `k - 1` down. -/
def isqrtFrom (n : Nat) : Nat → Nat → Nat
  | 0, r => r
  | k + 1, r => if (r + 2 ^ k) * (r + 2 ^ k) ≤ n then isqrtFrom n k (r + 2 ^ k) else isqrtFrom n k r

/-- The integer square root. -/
def isqrt (n : Nat) : Nat := isqrtFrom n (Nat.log2 n / 2 + 1) 0

/-- √x (R168). -/
def Fmt.sqrtNum (f : Fmt) (x : Num) : Ex × Flags :=
  match x with
  | .fin n m e =>
    if m = 0 then (.val n 0 f.qmin false, 0)
    else if n then f.invalid
    else
      let k := 2 * (f.p + 3)
      let k := if (e - k) % 2 = 0 then k else k + 1
      let y := m * 2 ^ k
      let r := isqrt y
      (.val false r ((e - k) / 2) (r * r != y), 0)
  | .inf n => if n then f.invalid else (.enc (f.infBits false), 0)
  | _ => f.invalid

/-- ±(x × y) ± z rounded once (R168): `np` negates the product, `nz` the addend. -/
def Fmt.fmaNum (f : Fmt) (rm : BitVec 3) (np nz : Bool) (x y z : Num) : Ex × Flags :=
  let bad := match x, y with
    | .inf _, .fin _ m _ => m == 0
    | .fin _ m _, .inf _ => m == 0
    | _, _ => false
  match f.firstNan [x, y, z] with
  | some b => (.enc b, sigFlags [x, y, z] ||| (if bad then fNV else 0))
  | none =>
    if bad then f.invalid
    else
      let s := (x.sign != y.sign) != np
      let z := if nz then z.neg else z
      match x, y with
      | .fin _ m1 e1, .fin _ m2 e2 => f.addNum rm (.fin s (m1 * m2) (e1 + e2)) z
      | _, _ => f.addNum rm (.inf s) z

/-- Compare two finite values: negative, zero or positive as x is below, at or above y. -/
def cmpFin (n1 : Bool) (m1 : Nat) (e1 : Int) (n2 : Bool) (m2 : Nat) (e2 : Int) : Int :=
  let e := min e1 e2
  signed n1 (m1 * 2 ^ (e1 - e).toNat) - signed n2 (m2 * 2 ^ (e2 - e).toNat)

/-- x < y on values that are no NaNs. -/
def Num.lt (x y : Num) : Bool :=
  match x, y with
  | .inf a, .inf b => a && !b
  | .inf a, _ => a
  | _, .inf b => !b
  | .fin n1 m1 e1, .fin n2 m2 e2 => decide (cmpFin n1 m1 e1 n2 m2 e2 < 0)
  | _, _ => false

/-- x = y on values that are no NaNs. -/
def Num.eqv (x y : Num) : Bool :=
  match x, y with
  | .inf a, .inf b => a == b
  | .fin n1 m1 e1, .fin n2 m2 e2 => decide (cmpFin n1 m1 e1 n2 m2 e2 = 0)
  | _, _ => false

/-- FMIN and FMAX (R99): -0 lies below +0; a lone NaN gives way. Returns the encoding and the flags. -/
def Fmt.minmax (f : Fmt) (isMax : Bool) (a b : Nat) : Nat × Flags :=
  let x := f.num a
  let y := f.num b
  let fl := sigFlags [x, y]
  if x.isNan && y.isNan then ((f.firstNan [x, y]).getD 0, fl)
  else if x.isNan then (b, fl)
  else if y.isNan then (a, fl)
  else
    let aLow := x.lt y || (x.eqv y && x.sign)
    (if aLow != isMax then a else b, fl)

/-- A value rounded to an integer in a mode: the magnitude and whether it is inexact. -/
def intRound (rm : BitVec 3) (neg : Bool) (m : Nat) (e : Int) : Nat × Bool :=
  if 0 ≤ e then (m * 2 ^ e.toNat, false)
  else
    let k := (-e).toNat
    let t := m / 2 ^ k
    let g := m.testBit (k - 1)
    let s := m % 2 ^ (k - 1) != 0
    (if roundsUp rm neg (t % 2 == 1) g s && (g || s) then t + 1 else t, g || s)

/-- FRND (R172) on an encoding. -/
def Fmt.rnd (f : Fmt) (rm : BitVec 3) (a : Nat) : Nat × Flags :=
  match f.num a with
  | .nan neg fr sig => (f.quiet neg fr, if sig then fNV else 0)
  | .inf _ => (a, 0)
  | .fin neg m e =>
    let (t, inexact) := intRound rm neg m e
    if inexact then ((f.round rm neg t 0 false).1, fNX) else (a, 0)

/-- The class word of R171 without its TAILED bit. -/
def Fmt.classWord (f : Fmt) (a : Nat) : Nat :=
  match f.num a with
  | .nan neg _ sig => (if neg then 8 else 0) + (if sig then 5 else 4)
  | .inf neg => (if neg then 8 else 0) + 3
  | .fin neg m _ => (if neg then 8 else 0) + (if m = 0 then 0 else if m < 2 ^ (f.p - 1) then 1 else 2)

/-- What a compare asks (R170). -/
inductive Cmp
  | eq
  | lt
  | le
  | un
  | ne
  deriving DecidableEq, Repr

/-- A compare's answer and its NV (R170, R178). -/
def Cmp.run (c : Cmp) (x y : Num) : Bool × Flags :=
  let nan := x.isNan || y.isNan
  let sig := sigFlags [x, y]
  match c with
  | .eq => (!nan && x.eqv y, sig)
  | .lt => (!nan && x.lt y, if nan then fNV else 0)
  | .le => (!nan && (x.lt y || x.eqv y), if nan then fNV else 0)
  | .un => (nan, sig)
  | .ne => (nan || !x.eqv y, sig)

-- Conversions (R97, R98, R175).

/-- A NaN carried from format `f` to format `g` (R97, R98). -/
def convNan (f g : Fmt) (neg : Bool) (fr : Nat) (sig : Bool) : Nat × Flags :=
  match g.qnan with
  | none => (0, fNV)
  | some c =>
    let fl : Flags := if sig then fNV else 0
    if !g.hasInf then (g.signBit neg + c, fl)
    else
      let fr := if f.p ≤ g.p then fr * 2 ^ (g.p - f.p) else fr / 2 ^ (f.p - g.p)
      (g.quiet neg fr, fl)

/-- A floating-point value converted to format `g` (R98, R175): encoding, tail, flags. -/
def convFF (f g : Fmt) (rm : BitVec 3) (keep : Bool) (v : Num) : Nat × Nat × Flags :=
  match v with
  | .nan neg fr sig =>
    let (b, fl) := convNan f g neg fr sig
    (b, 0, fl)
  | .inf neg => if g.hasInf then (g.infBits neg, 0, 0) else (g.maxf neg, 0, fNV)
  | .fin neg m e => g.deliver rm keep (.val neg m e false, 0)

/-- An integer format (R56): width and sign. -/
def intFmt (c : BitVec 4) : Nat × Bool :=
  match c.toNat with
  | 9 => (32, true)
  | 10 => (32, false)
  | 11 => (64, true)
  | 12 => (64, false)
  | 13 => (16, true)
  | 14 => (8, true)
  | _ => (8, false)

/-- A floating-point value converted to an integer (R98): the integer and the flags. -/
def convFI (rm : BitVec 3) (w : Nat) (sg : Bool) (v : Num) : Int × Flags :=
  let hi : Int := if sg then 2 ^ (w - 1) - 1 else 2 ^ w - 1
  let lo : Int := if sg then -(2 ^ (w - 1)) else 0
  match v with
  | .nan _ _ _ => (hi, fNV)
  | .inf neg => (if neg then lo else hi, fNV)
  | .fin neg m e =>
    let (t, inexact) := intRound rm neg m e
    let x := signed neg t
    if hi < x then (hi, fNV) else if x < lo then (lo, fNV) else (x, if inexact then fNX else 0)

/-- The integer a container holds. -/
def intOf (w : Nat) (sg : Bool) (bits : Nat) : Int :=
  let b := bits % 2 ^ w
  if sg && decide (2 ^ (w - 1) ≤ b) then (b : Int) - 2 ^ w else b

/-- The format code is floating-point. -/
def isFpCode (c : BitVec 4) : Bool := decide (c.toNat ≤ 8)

/-- The container width of a format in a vector register (R180). -/
def containerWidth (c : BitVec 4) : Nat :=
  match c.toNat with
  | 0 | 11 | 12 => 64
  | 1 | 9 | 10 => 32
  | 2 | 3 | 13 => 16
  | _ => 8

/-- FCVT on one element (R175): `rm` is the field, `dyn` the snapshot. The result is the destination's bits (an integer
as its two's complement in the container width), the tail and the flags. -/
def convert (src dst : BitVec 4) (rm dyn : BitVec 3) (bits tail : Nat) : Nat × Nat × Flags :=
  let m := if rm = 6 then dyn else rm
  if isFpCode src then
    let f := fmtOf src
    if isFpCode dst then
      let g := fmtOf dst
      if src ≠ dst ∧ !widens src dst then convFF f g m (rm == 7) (f.imgVal (bits % 2 ^ f.w) tail)
      else
        let (b, fl) := f.roundImg m (bits % 2 ^ f.w) tail
        let (c, t, fl') := convFF f g m false (f.num b)
        (c, t, fl ||| fl')
    else
      let (b, fl) := f.roundImg m (bits % 2 ^ f.w) tail
      let (w, sg) := intFmt dst
      let (x, fl') := convFI m w sg (f.num b)
      ((x % 2 ^ w).toNat, 0, fl ||| fl')
  else
    let (w, sg) := intFmt src
    let x := intOf w sg bits
    (fmtOf dst).deliver m false (.val (decide (x < 0)) x.natAbs 0 false, 0)

end Sys2Proof.Machine
end

