-- ==== Sys2Proof/Machine/Transcend.lean ====
section
/-! DEFINITION. The transcendentals (R174), correctly rounded by interval arithmetic on scaled naturals.

An interval holds bounds at scale 2^N. Every result that R174 does not list as special is irrational, so it never lies on
a point the rounding distinguishes; bounds whose roundings agree give the result. If they disagree at the last precision
the opaque choice of Config stands for the correct rounding (log entry 9). -/

namespace Sys2Proof.Machine

/-- Bounds of a nonnegative real at a scale. -/
structure Itv where
  lo : Nat
  hi : Nat
  deriving DecidableEq, Repr

/-- A sum. -/
def Itv.add (a b : Itv) : Itv := ⟨a.lo + b.lo, a.hi + b.hi⟩

/-- A difference, clipped at 0. -/
def Itv.sub (a b : Itv) : Itv := ⟨a.lo - b.hi, a.hi - b.lo⟩

/-- A product at scale 2^n. -/
def Itv.mul (n : Nat) (a b : Itv) : Itv := ⟨a.lo * b.lo / 2 ^ n, a.hi * b.hi / 2 ^ n + 1⟩

/-- A quotient by a positive natural. -/
def Itv.divN (a : Itv) (k : Nat) : Itv := ⟨a.lo / k, a.hi / k + 1⟩

/-- A quotient at scale 2^n. -/
def Itv.div (n : Nat) (a b : Itv) : Itv := ⟨a.lo * 2 ^ n / b.hi, a.hi * 2 ^ n / b.lo + 1⟩

/-- A multiple. -/
def Itv.scale (a : Itv) (k : Nat) : Itv := ⟨a.lo * k, a.hi * k⟩

/-- The even and odd terms of a power series in `y` whose k-th term is the one before times `y` over `d k`; the upper
bounds take in what the terms left out add. -/
def facSeries (n : Nat) (y : Itv) (d : Nat → Nat) : Nat → Nat → Itv → Itv × Itv → Itv × Itv
  | 0, _, t, (p, q) => (⟨p.lo, p.hi + 2 * t.hi + 2⟩, ⟨q.lo, q.hi + 2 * t.hi + 2⟩)
  | c + 1, k, t, (p, q) =>
    let acc := if k % 2 = 0 then (p.add t, q) else (p, q.add t)
    facSeries n y d c (k + 1) ((t.mul n y).divN (d k)) acc

/-- The even and odd terms of the sum of `z * y^k / (2k + 1)`. -/
def oddSeries (n : Nat) (y : Itv) : Nat → Nat → Itv → Itv × Itv → Itv × Itv
  | 0, _, z, (p, q) => (⟨p.lo, p.hi + 2 * z.hi + 2⟩, ⟨q.lo, q.hi + 2 * z.hi + 2⟩)
  | c + 1, k, z, (p, q) =>
    let t := z.divN (2 * k + 1)
    let acc := if k % 2 = 0 then (p.add t, q) else (p, q.add t)
    oddSeries n y c (k + 1) (z.mul n y) acc

/-- 1 at scale 2^n. -/
def one (n : Nat) : Itv := ⟨2 ^ n, 2 ^ n⟩

/-- A ratio of naturals at scale 2^n. -/
def ratio (n a b : Nat) : Itv := ⟨a * 2 ^ n / b, a * 2 ^ n / b + 1⟩

/-- Bounds of atanh (a ÷ b), a ÷ b at most 1/3. -/
def atanhI (n a b : Nat) : Itv :=
  let z := ratio n a b
  let (p, q) := oddSeries n (z.mul n z) (n / 3 + 4) 0 z (⟨0, 0⟩, ⟨0, 0⟩)
  p.add q

/-- Bounds of atan (1 ÷ b). -/
def atanI (n b : Nat) : Itv :=
  let z := ratio n 1 b
  let (p, q) := oddSeries n (z.mul n z) (n / 4 + 4) 0 z (⟨0, 0⟩, ⟨0, 0⟩)
  p.sub q

/-- Bounds of ln 2. -/
def ln2I (n : Nat) : Itv := (atanhI n 1 3).scale 2

/-- Bounds of π. -/
def piI (n : Nat) : Itv := ((atanI n 5).scale 16).sub ((atanI n 239).scale 4)

/-- Bounds of e^u, u at most 1. -/
def expI (n : Nat) (u : Itv) : Itv :=
  let (p, q) := facSeries n u (fun k => k + 1) (n / 4 + 16) 0 (one n) (⟨0, 0⟩, ⟨0, 0⟩)
  p.add q

/-- `m * 2^e` at scale 2^n. -/
def fixI (n m : Nat) (e : Int) : Itv :=
  if 0 ≤ e + n then ⟨m * 2 ^ (e + n).toNat, m * 2 ^ (e + n).toNat⟩
  else ⟨m / 2 ^ (-(e + n)).toNat, m / 2 ^ (-(e + n)).toNat + 1⟩

/-- Bounds of a result: its magnitude lies in [lo * 2^e, (hi + 1) * 2^e). -/
structure Bounds where
  lo : Nat
  hi : Nat
  e : Int
  deriving DecidableEq, Repr

/-- The precisions tried. -/
def precisions : List Nat := [128, 256, 512]

/-- The correctly rounded result from bounds at rising precision. -/
def Fmt.fromBounds (f : Fmt) (rm : BitVec 3) (keep neg : Bool) (op bits : Nat) (g : Nat → Bounds) : Nat × Nat × Flags :=
  let at_ (n : Nat) (upper : Bool) := f.deliver rm keep (.val neg (if upper then (g n).hi else (g n).lo) (g n).e true, 0)
  match precisions.find? (fun n => at_ n true == at_ n false) with
  | some n => at_ n true
  | none => at_ 512 (Config.hardCase op f.w bits)

/-- The transcendental operations (R174). -/
inductive Trans
  | exp2
  | log2
  | sinpi
  | cospi
  | rsqrt
  | tanh
  deriving DecidableEq, Repr

/-- A number for each, for the free choice. -/
def Trans.code : Trans → Nat
  | .exp2 => 0
  | .log2 => 1
  | .sinpi => 2
  | .cospi => 3
  | .rsqrt => 4
  | .tanh => 5

/-- ⌊± m * 2^e⌋. -/
def floorDy (neg : Bool) (m : Nat) (e : Int) : Int :=
  if 0 ≤ e then signed neg (m * 2 ^ e.toNat) else signed neg m / 2 ^ (-e).toNat

/-- Bounds of 2^x for a fraction of x that is not 0: `i` is ⌊x⌋. -/
def exp2Bounds (neg : Bool) (m : Nat) (e i : Int) (n : Nat) : Bounds :=
  let v := floorDy neg m (e + n)
  let fr := (v - i * 2 ^ n).toNat
  let u := (Itv.mk fr (fr + 1)).mul n (ln2I n)
  let r := expI n u
  ⟨max r.lo (2 ^ n), min r.hi (2 ^ (n + 1) - 1), i - n⟩

/-- FEXP2 of a finite nonzero value. -/
def Fmt.exp2 (f : Fmt) (rm : BitVec 3) (keep : Bool) (bits : Nat) (neg : Bool) (m : Nat) (e : Int) : Nat × Nat × Flags :=
  let i := floorDy neg m e
  let whole := decide (0 ≤ e) || m % 2 ^ (-e).toNat == 0
  if f.emax + 2 ≤ i then f.deliver rm keep (.val false 1 (f.emax + 2) true, 0)
  else if i < f.qmin - 4 then f.deliver rm keep (.val false 0 0 true, 0)
  else if whole then f.deliver rm keep (.val false 1 i false, 0)
  else f.fromBounds rm keep false Trans.exp2.code bits (exp2Bounds neg m e i)

/-- Bounds of |log2 (m * 2^e)| and its sign, for m no power of two. -/
def log2Bounds (m : Nat) (e : Int) (n : Nat) : Bounds :=
  let l := Nat.log2 m
  let k := e + l
  let y := (Itv.scale (atanhI n (m - 2 ^ l) (m + 2 ^ l)) 2).div n (ln2I n)
  if 0 ≤ k then ⟨k.toNat * 2 ^ n + y.lo, k.toNat * 2 ^ n + y.hi, -(n : Int)⟩
  else ⟨(-k).toNat * 2 ^ n - y.hi, (-k).toNat * 2 ^ n - y.lo, -(n : Int)⟩

/-- FLOG2 of a finite nonzero positive value. -/
def Fmt.log2 (f : Fmt) (rm : BitVec 3) (keep : Bool) (bits m : Nat) (e : Int) : Nat × Nat × Flags :=
  let l := Nat.log2 m
  let k := e + l
  if m = 2 ^ l then f.deliver rm keep (.val (decide (k < 0)) k.natAbs 0 false, 0)
  else f.fromBounds rm keep (decide (k < 0)) Trans.log2.code bits (log2Bounds m e)

/-- Bounds of sin πt ÷ t, t at most 1/2. -/
def sincI (n m : Nat) (e : Int) : Itv :=
  let u := (fixI n m e).mul n (piI n)
  let (p, q) := facSeries n (u.mul n u) (fun k => (2 * k + 2) * (2 * k + 3)) (n / 6 + 12) 0 (one n) (⟨0, 0⟩, ⟨0, 0⟩)
  (p.sub q).mul n (piI n)

/-- Bounds of sin πt for t = m * 2^e in (0, 1/2). -/
def sinBounds (m : Nat) (e : Int) (n : Nat) : Bounds :=
  let g := sincI n m e
  ⟨m * g.lo, m * (g.hi + 1) - 1, e - n⟩

/-- Bounds of cos πt for t = m * 2^e in (0, 1/4]. -/
def cosBounds (m : Nat) (e : Int) (n : Nat) : Bounds :=
  let u := (fixI n m e).mul n (piI n)
  let (p, q) := facSeries n (u.mul n u) (fun k => (2 * k + 1) * (2 * k + 2)) (n / 6 + 12) 0 (one n) (⟨0, 0⟩, ⟨0, 0⟩)
  let r := p.sub q
  ⟨r.lo, min r.hi (2 ^ n - 1), -(n : Int)⟩

/-- FSINPI of a finite nonzero value. -/
def Fmt.sinpi (f : Fmt) (rm : BitVec 3) (keep : Bool) (bits : Nat) (neg : Bool) (m : Nat) (e : Int) : Nat × Nat × Flags :=
  if 0 ≤ e then (f.enc neg 0 f.qmin, 0, 0)
  else
    let one := 2 ^ (-e).toNat
    let x := m % (2 * one)
    let y := x % one
    if y = 0 then (f.enc neg 0 f.qmin, 0, 0)
    else
      let sg := neg != decide (one ≤ x)
      if 2 * y = one then f.deliver rm keep (.val sg 1 0 false, 0)
      else f.fromBounds rm keep sg Trans.sinpi.code bits (sinBounds (if one < 2 * y then one - y else y) e)

/-- FCOSPI of a finite value. -/
def Fmt.cospi (f : Fmt) (rm : BitVec 3) (keep : Bool) (bits m : Nat) (e : Int) : Nat × Nat × Flags :=
  let e' := min e 0
  let m' := m * 2 ^ (e - e').toNat
  let one := 2 ^ (-e').toNat
  let x := m' % (2 * one)
  let t := if one < x then 2 * one - x else x
  let sg := decide (one < 2 * t)
  let t := if sg then one - t else t
  if 2 * t = one then (f.enc false 0 f.qmin, 0, 0)
  else if t = 0 then f.deliver rm keep (.val sg 1 0 false, 0)
  else if 4 * t ≤ one then f.fromBounds rm keep sg Trans.cospi.code bits (cosBounds t e')
  else f.fromBounds rm keep sg Trans.cospi.code bits (sinBounds (one - 2 * t) (e' - 1))

/-- FRSQRT of a finite positive value. -/
def Fmt.rsqrt (f : Fmt) (rm : BitVec 3) (keep : Bool) (m : Nat) (e : Int) : Nat × Nat × Flags :=
  let m' := if e % 2 = 0 then m else 2 * m
  let e' := if e % 2 = 0 then e else e - 1
  let k := f.p + 4 + Nat.log2 m'
  let r := isqrt (2 ^ (2 * k) / m')
  f.deliver rm keep (.val false r (-(e' / 2) - k) (r * r * m' != 2 ^ (2 * k)), 0)

/-- A square taken `j` times. -/
def squareI (n : Nat) : Nat → Itv → Itv
  | 0, a => a
  | j + 1, a => squareI n j (a.mul n a)

/-- Bounds of tanh x for x = m * 2^e. -/
def tanhBounds (m : Nat) (e : Int) (n : Nat) : Bounds :=
  let x := e + Nat.log2 m
  if 6 ≤ x then ⟨2 ^ 180 - 1, 2 ^ 180 - 1, -180⟩
  else if 0 ≤ x then
    let r := squareI n 7 (expI n (fixI n m (e - 6)))
    ⟨(r.lo - 2 ^ n) * 2 ^ n / (r.lo + 2 ^ n), (r.hi - 2 ^ n) * 2 ^ n / (r.hi + 2 ^ n), -(n : Int)⟩
  else
    let u := fixI n m e
    let y := u.mul n u
    let (p, q) := facSeries n y (fun k => (2 * k + 2) * (2 * k + 3)) (n / 6 + 12) 0 (one n) (⟨0, 0⟩, ⟨0, 0⟩)
    let (c, d) := facSeries n y (fun k => (2 * k + 1) * (2 * k + 2)) (n / 6 + 12) 0 (one n) (⟨0, 0⟩, ⟨0, 0⟩)
    let g := (p.add q).div n (c.add d)
    ⟨m * g.lo, m * (min g.hi (2 ^ n - 1) + 1) - 1, e - n⟩

/-- A transcendental on a value read under R90 (R174). -/
def Fmt.trans (f : Fmt) (o : Trans) (rm : BitVec 3) (keep : Bool) (bits : Nat) : Nat × Nat × Flags :=
  match f.num bits with
  | .nan neg fr sig => (f.quiet neg fr, 0, if sig then fNV else 0)
  | .inf neg =>
    match o with
    | .exp2 => if neg then (f.enc false 0 f.qmin, 0, 0) else (f.infBits false, 0, 0)
    | .log2 => if neg then (f.canon, 0, fNV) else (f.infBits false, 0, 0)
    | .sinpi => (f.canon, 0, fNV)
    | .cospi => (f.canon, 0, fNV)
    | .rsqrt => if neg then (f.canon, 0, fNV) else (f.enc false 0 f.qmin, 0, 0)
    | .tanh => f.deliver rm keep (.val neg 1 0 false, 0)
  | .fin neg m e =>
    match o with
    | .exp2 => if m = 0 then f.deliver rm keep (.val false 1 0 false, 0) else f.exp2 rm keep bits neg m e
    | .log2 =>
      if m = 0 then (f.infBits true, 0, fDZ) else if neg then (f.canon, 0, fNV) else f.log2 rm keep bits m e
    | .sinpi => if m = 0 then (f.enc neg 0 f.qmin, 0, 0) else f.sinpi rm keep bits neg m e
    | .cospi => f.cospi rm keep bits m e
    | .rsqrt =>
      if m = 0 then (f.infBits neg, 0, fDZ) else if neg then (f.canon, 0, fNV) else f.rsqrt rm keep m e
    | .tanh => if m = 0 then (f.enc neg 0 f.qmin, 0, 0) else f.fromBounds rm keep neg Trans.tanh.code bits (tanhBounds m e)

end Sys2Proof.Machine
end

