-- ==== Sys2Proof/Machine/FpScalar.lean ====
section
/-! DEFINITION. Shipping (R305 to R307), and the scalar floating-point instructions and conversions (R165 to R176,
R182). -/

namespace Sys2Proof.Machine

-- Words, rebuilt from fields for guest packets (R50, R306).

/-- A format A word. -/
def wordA (op : Nat) (d a b : BitVec 6) (fn : Nat) : BitVec 32 :=
  BitVec.ofNat 32 (op * 2 ^ 26 + d.toNat * 2 ^ 20 + a.toNat * 2 ^ 14 + b.toNat * 2 ^ 8 + fn)

/-- The guest packet of an instruction the current thread ships (R306), and what the B-core learns beside it. -/
def State.packet (s : State) (insn : BitVec 32) (trapcap : Bool) (slots aside : List Slot) : GuestPkt :=
  let t := s.th
  { hwid := t.hwid, insn, rqv := t.hmod.getLsbD 11, rq := if t.hmod.getLsbD 11 then t.hmod.extractLsb' 12 2 else 0
    keep := t.keep, prio := t.prio, trapcap, shadow := t.inShadow, enables := t.enables, rm := t.rm, asid := t.asid
    seq := t.shipSeq, lrec := t.lrec, slots, aside }

/-- Ship an instruction (R305): the next sequence number, a pending destination, one packet to the host B-core. -/
def State.ship (s : State) (dst : Dst) (insn : BitVec 32) (trapcap : Bool) (slots : List Slot) (aside : List Slot := []) : State :=
  let t := s.th
  let p := s.packet insn trapcap slots aside
  let o : Op := ⟨t.opGen, t.shipSeq, dst, 0, .ship p, t.groupStart, s.insn, t.repLeftNow, t.instret, trapcap, t.inShadow⟩
  State.send { s with th := { t with shipSeq := t.shipSeq + 1, opGen := t.opGen + 1, ops := t.ops ++ [o] } }
    (.guestPacket (t.shipto.extractLsb' 0 9) p)

/-- A floating-point instruction that ships is trap-capable when an enable is set (R314). -/
def Thread.fpTrapcap (t : Thread) : Bool := t.enables != 0

/-- The current thread is an L-core's. -/
def Thread.isL (t : Thread) : Bool := !isB t.hwid

/-- Finish a floating-point instruction executed here (R165): FPTRAP with nothing written, or the result and the flags. -/
def State.fpDone (s : State) (fl : Flags) (write : Thread → Thread) : Out :=
  if flagsTrap s.th.enables fl then s.trap 0x09 (fl.zeroExtend 64)
  else State.retire { s with th := (write s.th).orFlags fl }

-- FPS (R167 to R174).

/-- A sign copy: the value with a sign bit of its own (R169). -/
def Fmt.withSign (f : Fmt) (a : Nat) (neg : Bool) : Nat := a % 2 ^ (f.w - 1) + f.signBit neg

/-- The sign bit of an encoding. -/
def Fmt.isNeg (f : Fmt) (a : Nat) : Bool := decide (2 ^ (f.w - 1) ≤ a % 2 ^ f.w)

/-- The operation of an FPS function number on element images (R168 to R174): value, tail and flags. A compare gives 1 or
0. -/
def fpsCompute (fn : Nat) (f : Fmt) (rm : BitVec 3) (keep : Bool) (a b d : Nat × Nat) : Nat × Nat × Flags :=
  let ra := f.roundImg rm a.1 a.2
  let rb := f.roundImg rm b.1 b.2
  let rd := f.roundImg rm d.1 d.2
  let x := f.num ra.1
  let y := f.num rb.1
  let z := f.num rd.1
  let fl2 := ra.2 ||| rb.2
  let fl3 := ra.2 ||| rb.2 ||| rd.2
  let out (fl : Flags) (r : Nat × Nat × Flags) : Nat × Nat × Flags := (r.1, r.2.1, fl ||| r.2.2)
  let arith (r : Ex × Flags) := out fl2 (f.deliver rm keep r)
  let cmp (c : Cmp) := let r := c.run x y; ((if r.1 then 1 else 0), 0, fl2 ||| r.2)
  let cmpX (c : Cmp) :=
    let r := c.run (f.gridVal (a.1 % 2 ^ f.w) a.2) (f.gridVal (b.1 % 2 ^ f.w) b.2)
    ((if r.1 then 1 else 0), 0, r.2)
  let tr (o : Trans) := out ra.2 (f.trans o rm keep ra.1)
  match fn with
  | 0 => arith (f.nanOr [x, y] (f.addNum rm x y))
  | 1 => arith (f.nanOr [x, y] (f.addNum rm x y.neg))
  | 2 => arith (f.nanOr [x, y] (f.mulNum x y))
  | 3 => arith (f.nanOr [x, y] (f.divNum x y))
  | 4 => out ra.2 (f.deliver rm keep (f.nanOr [x] (f.sqrtNum x)))
  | 5 => let r := f.minmax false ra.1 rb.1; (r.1, 0, fl2 ||| r.2)
  | 6 => let r := f.minmax true ra.1 rb.1; (r.1, 0, fl2 ||| r.2)
  | 7 => (f.withSign ra.1 (f.isNeg rb.1), 0, fl2)
  | 8 => (f.withSign ra.1 (!f.isNeg rb.1), 0, fl2)
  | 9 => (f.withSign ra.1 (f.isNeg ra.1 != f.isNeg rb.1), 0, fl2)
  | 10 => out fl3 (f.deliver rm keep (f.fmaNum rm false false x y z))
  | 11 => out fl3 (f.deliver rm keep (f.fmaNum rm false true x y z))
  | 12 => out fl3 (f.deliver rm keep (f.fmaNum rm true false x y z))
  | 13 => out fl3 (f.deliver rm keep (f.fmaNum rm true true x y z))
  | 14 => cmp .eq
  | 15 => cmp .lt
  | 16 => cmp .le
  | 17 => cmp .un
  | 18 => cmpX .eq
  | 19 => cmpX .lt
  | 20 => cmpX .le
  | 21 => (f.classWord ra.1 + (if a.2 % 4 = 0 then 0 else 16), 0, ra.2 ||| sigFlags [x])
  | 22 => let r := f.rnd rm ra.1; (r.1, 0, ra.2 ||| r.2)
  | 23 => (ra.1, 0, ra.2)
  | 24 => (a.1 % 2 ^ f.w, 0, 0)
  | 27 => tr .exp2
  | 28 => tr .log2
  | 29 => tr .sinpi
  | 30 => tr .cospi
  | 31 => tr .rsqrt
  | 32 => tr .tanh
  | _ => cmp .ne

/-- The element image a scalar register holds (R85). -/
def imgS (r : SReg) : Nat × Nat := (r.val.toNat, r.tail.toNat % 4)

/-- A scalar register holding an element image. -/
def sregOf (b t : Nat) : SReg := ⟨BitVec.ofNat 64 b, BitVec.ofNat 8 t⟩

/-- FPS in registers: the result image and the flags. -/
def fpsScalar (fn : Nat) (f : Fmt) (rm : BitVec 3) (keep : Bool) (a b d : SReg) : SReg × Flags :=
  let r := fpsCompute fn f rm keep (imgS a) (imgS b) (imgS d)
  (sregOf r.1 r.2.1, r.2.2)

/-- The FMA forms read d (R167). -/
def fpsReadsD (fn : Nat) : Bool := decide (10 ≤ fn) && decide (fn ≤ 13)

/-- The one-source functions (R167). -/
def fpsUnary (fn : Nat) : Bool := fn == 4 || decide (21 ≤ fn)

/-- An L-core ships the function in the format (R182). -/
def fpsShips (fn : Nat) (t : BitVec 2) : Bool := t == 0 || fn == 3 || fn == 4 || decide (27 ≤ fn)

/-- An FPS instruction (R165, R182). -/
def State.fps (s : State) (fn : Nat) (d a b : BitVec 6) (t : BitVec 2) : Out :=
  let th := s.th
  if th.isL && fpsShips fn t then
    let slots := [Slot.scalar (th.getS a)] ++ (if fpsUnary fn then [] else [Slot.scalar (th.getS b)])
      ++ (if fpsReadsD fn then [Slot.scalar (th.getS d)] else [])
    (s.ship (.s d) (wordA 0x31 d a b (t.toNat * 64 + fn)) th.fpTrapcap slots).retire
  else
    let r := fpsScalar fn (fmt2 t) th.rm th.keep (th.getS a) (th.getS b) (th.getS d)
    s.fpDone r.2 (fun u => u.setS d r.1)

/-- FADD (R168). -/
def execFadd (d a b : BitVec 6) (t : BitVec 2) (s : State) : Out := s.fps 0 d a b t

/-- FSUB (R168). -/
def execFsub (d a b : BitVec 6) (t : BitVec 2) (s : State) : Out := s.fps 1 d a b t

/-- FMUL (R168). -/
def execFmul (d a b : BitVec 6) (t : BitVec 2) (s : State) : Out := s.fps 2 d a b t

/-- FDIV (R168). -/
def execFdiv (d a b : BitVec 6) (t : BitVec 2) (s : State) : Out := s.fps 3 d a b t

/-- FSQRT (R168). -/
def execFsqrt (d a : BitVec 6) (t : BitVec 2) (s : State) : Out := s.fps 4 d a 0 t

/-- FMIN (R169). -/
def execFmin (d a b : BitVec 6) (t : BitVec 2) (s : State) : Out := s.fps 5 d a b t

/-- FMAX (R169). -/
def execFmax (d a b : BitVec 6) (t : BitVec 2) (s : State) : Out := s.fps 6 d a b t

/-- FSCPY (R169). -/
def execFscpy (d a b : BitVec 6) (t : BitVec 2) (s : State) : Out := s.fps 7 d a b t

/-- FSCPYN (R169). -/
def execFscpyn (d a b : BitVec 6) (t : BitVec 2) (s : State) : Out := s.fps 8 d a b t

/-- FSXOR (R169). -/
def execFsxor (d a b : BitVec 6) (t : BitVec 2) (s : State) : Out := s.fps 9 d a b t

/-- FMA (R168). -/
def execFma (d a b : BitVec 6) (t : BitVec 2) (s : State) : Out := s.fps 10 d a b t

/-- FMS (R168). -/
def execFms (d a b : BitVec 6) (t : BitVec 2) (s : State) : Out := s.fps 11 d a b t

/-- FNMA (R168). -/
def execFnma (d a b : BitVec 6) (t : BitVec 2) (s : State) : Out := s.fps 12 d a b t

/-- FNMS (R168). -/
def execFnms (d a b : BitVec 6) (t : BitVec 2) (s : State) : Out := s.fps 13 d a b t

/-- FEQ (R170). -/
def execFeq (d a b : BitVec 6) (t : BitVec 2) (s : State) : Out := s.fps 14 d a b t

/-- FLT (R170). -/
def execFlt (d a b : BitVec 6) (t : BitVec 2) (s : State) : Out := s.fps 15 d a b t

/-- FLE (R170). -/
def execFle (d a b : BitVec 6) (t : BitVec 2) (s : State) : Out := s.fps 16 d a b t

/-- FUN (R170). -/
def execFunord (d a b : BitVec 6) (t : BitVec 2) (s : State) : Out := s.fps 17 d a b t

/-- FEQX (R170). -/
def execFeqx (d a b : BitVec 6) (t : BitVec 2) (s : State) : Out := s.fps 18 d a b t

/-- FLTX (R170). -/
def execFltx (d a b : BitVec 6) (t : BitVec 2) (s : State) : Out := s.fps 19 d a b t

/-- FLEX (R170). -/
def execFlex (d a b : BitVec 6) (t : BitVec 2) (s : State) : Out := s.fps 20 d a b t

/-- FCLASS (R171). -/
def execFclass (d a : BitVec 6) (t : BitVec 2) (s : State) : Out := s.fps 21 d a 0 t

/-- FRND (R172). -/
def execFrnd (d a : BitVec 6) (t : BitVec 2) (s : State) : Out := s.fps 22 d a 0 t

/-- FMVX (R173). -/
def execFmvx (d a : BitVec 6) (t : BitVec 2) (s : State) : Out := s.fps 23 d a 0 t

/-- FMVF (R173). -/
def execFmvf (d a : BitVec 6) (t : BitVec 2) (s : State) : Out := s.fps 24 d a 0 t

/-- FEXP2 (R174). -/
def execFexp2 (d a : BitVec 6) (t : BitVec 2) (s : State) : Out := s.fps 27 d a 0 t

/-- FLOG2 (R174). -/
def execFlog2 (d a : BitVec 6) (t : BitVec 2) (s : State) : Out := s.fps 28 d a 0 t

/-- FSINPI (R174). -/
def execFsinpi (d a : BitVec 6) (t : BitVec 2) (s : State) : Out := s.fps 29 d a 0 t

/-- FCOSPI (R174). -/
def execFcospi (d a : BitVec 6) (t : BitVec 2) (s : State) : Out := s.fps 30 d a 0 t

/-- FRSQRT (R174). -/
def execFrsqrt (d a : BitVec 6) (t : BitVec 2) (s : State) : Out := s.fps 31 d a 0 t

/-- FTANH (R174). -/
def execFtanh (d a : BitVec 6) (t : BitVec 2) (s : State) : Out := s.fps 32 d a 0 t

/-- FTAILR (R173). -/
def execFtailr (d a : BitVec 6) (s : State) : Out :=
  (s.ws d ((s.th.getS a).tail.extractLsb' 0 2 |>.zeroExtend 64)).retire

/-- FTAILW (R173): the value of d is kept, its two tail bits change. -/
def execFtailw (d a : BitVec 6) (s : State) : Out :=
  let r := s.th.getS d
  (s.wsImg d ⟨r.val, (r.tail &&& 0xFC) ||| ((s.rs a).extractLsb' 0 2).zeroExtend 8⟩).retire

/-- The 64-bit register value of a converted element (R176): a signed integer is extended by its sign, an unsigned one by zeros. -/
def convReg (dst : BitVec 4) (x : Nat) : Word :=
  if isFpCode dst then BitVec.ofNat 64 x
  else
    let (w, sg) := intFmt dst
    BitVec.ofInt 64 (intOf w sg x)

/-- FCVT in registers (R175, R176). -/
def fcvtScalar (src dst : BitVec 4) (m rm : BitVec 3) (a : SReg) : SReg × Flags :=
  let r := convert src dst m rm a.val.toNat (a.tail.toNat % 4)
  (⟨convReg dst r.1, BitVec.ofNat 8 r.2.1⟩, r.2.2)

/-- FCVT (R175, R182). -/
def execFcvt (d a : BitVec 6) (src t : BitVec 4) (m : BitVec 3) (s : State) : Out :=
  let th := s.th
  if th.isL && (src == 0 || t == 0) then
    (s.ship (.s d) (BitVec.ofNat 32 (0x32 * 2 ^ 26 + d.toNat * 2 ^ 20 + a.toNat * 2 ^ 14 + src.toNat * 2 ^ 10 + t.toNat * 64 + m.toNat * 8))
      th.fpTrapcap [.scalar (th.getS a)]).retire
  else
    let r := fcvtScalar src t m th.rm (th.getS a)
    s.fpDone r.2 (fun u => u.setS d r.1)

end Sys2Proof.Machine
end

