-- ==== Sys2Proof/Machine/Vector.lean ====
section
/-! DEFINITION. Vector registers as elements (R145, R146) and the vector integer and cross-lane instructions (R150 to
R163). -/

namespace Sys2Proof

/-- Element k at a width (R145). -/
def VReg.elem (v : VReg) (ew k : Nat) : Nat := v.val.toNat / 2 ^ (ew * k) % 2 ^ ew

/-- The lowest tail bit of element k at a width (R145). -/
def tailPos (ew k : Nat) : Nat :=
  if ew = 64 then 16 * k else 8 * (ew * k / 32) + 2 * (k % (32 / ew))

/-- The tail of element k at a width (R145). -/
def VReg.etail (v : VReg) (ew k : Nat) : Nat := v.tail.toNat / 2 ^ tailPos ew k % 4

end Sys2Proof

namespace Sys2Proof.Machine

/-- How many elements a register holds (R145). -/
def lanesOf (ew : Nat) : Nat := 256 / ew

/-- What happens to one element of a destination (R146): it keeps its value and tail, or takes new ones. -/
inductive Lane
  | keep
  | put (v t : Nat)
  deriving DecidableEq, Repr

/-- The elements that lie wholly or partly in slot j. -/
def slotElems (ew j : Nat) : List Nat :=
  if ew = 64 then [j / 2] else (List.range (32 / ew)).map (fun i => j * (32 / ew) + i)

/-- The eight tail bits of slot j after an assembly (R146): kept when no element of the slot is written. -/
def slotTail (ew : Nat) (d : VReg) (ls : List Lane) (j : Nat) : Nat :=
  let es := slotElems ew j
  if es.all (fun k => ls.getD k .keep == .keep) then d.tail.toNat / 2 ^ (8 * j) % 256
  else if ew = 64 ∧ j % 2 = 1 then 0
  else (es.map (fun k =>
    (match ls.getD k .keep with | .keep => d.etail ew k | .put _ t => t % 4) * 2 ^ (tailPos ew k - 8 * j))).sum

/-- The new value of a destination from its lanes (R146). -/
def assemble (ew : Nat) (d : VReg) (ls : List Lane) : VReg :=
  ⟨BitVec.ofNat 256 (((List.range (lanesOf ew)).map (fun k =>
      (match ls.getD k .keep with | .keep => d.elem ew k | .put v _ => v % 2 ^ ew) * 2 ^ (ew * k))).sum),
    BitVec.ofNat 64 (((List.range 8).map (fun j => slotTail ew d ls j * 2 ^ (8 * j))).sum)⟩

/-- Element k is active under mk (R109, R146). -/
def Thread.active (t : Thread) (mk : BitVec 2) (ew k : Nat) : Bool :=
  mk == 0 || (t.getV (mk.zeroExtend 6)).elem ew k % 2 == 1

/-- What an inactive element takes (R53, R146). -/
def inactive (p : BitVec 1) (ew : Nat) : Lane := if p = 0 then .keep else .put (2 ^ ew - 1) 0

/-- The lanes of a masked operation (R146). -/
def Thread.lanes (t : Thread) (mk : BitVec 2) (p : BitVec 1) (ew : Nat) (f : Nat → Lane) : List Lane :=
  (List.range (lanesOf ew)).map (fun k => if t.active mk ew k then f k else inactive p ew)

/-- Write a vector destination lane by lane and retire (R146, R147). -/
def State.vput (s : State) (ew : Nat) (d : BitVec 6) (ls : List Lane) : Out :=
  (s.wv d (assemble ew (s.th.getV d) ls)).retire

/-- An element-wise operation of two sources (R146, R150, R152, R154). -/
def State.vec2 (s : State) (d a b : BitVec 6) (mk : BitVec 2) (p : BitVec 1) (f : Nat → Nat → Nat → Nat) : Out :=
  let t := s.th
  let ew := t.ew
  s.vput ew d (t.lanes mk p ew (fun k => .put (f ew ((t.getV a).elem ew k) ((t.getV b).elem ew k)) 0))

/-- An element as a signed number. -/
def sgn (ew x : Nat) : Int := if 2 ^ (ew - 1) ≤ x then (x : Int) - 2 ^ ew else x

/-- A number as an element, modulo 2^ew. -/
def wrapE (ew : Nat) (x : Int) : Nat := (x % 2 ^ ew).toNat

/-- A number clamped to the signed range of an element (R151). -/
def clampE (ew : Nat) (x : Int) : Nat := wrapE ew (max (-(2 ^ (ew - 1))) (min x (2 ^ (ew - 1) - 1)))

/-- Clamped under sat, else wrapped (R150, R151). -/
def satE (sat : Bool) (ew : Nat) (x : Int) : Nat := if sat then clampE ew x else wrapE ew x

/-- The shift amount: the low log2 ew bits (R152). -/
def shE (ew y : Nat) : Nat := y % ew

/-- All ones or 0 (R154). -/
def maskE (ew : Nat) (b : Bool) : Nat := if b then 2 ^ ew - 1 else 0

/-- VADD (R150). -/
def execVadd (d a b : BitVec 6) (k : BitVec 2) (p _h _g : BitVec 1) (s : State) : Out :=
  s.vec2 d a b k p (fun ew x y => satE s.th.sat ew (sgn ew x + sgn ew y))

/-- VSUB (R150). -/
def execVsub (d a b : BitVec 6) (k : BitVec 2) (p _h _g : BitVec 1) (s : State) : Out :=
  s.vec2 d a b k p (fun ew x y => satE s.th.sat ew (sgn ew x - sgn ew y))

/-- VMUL (R150). -/
def execVmul (d a b : BitVec 6) (k : BitVec 2) (p _h _g : BitVec 1) (s : State) : Out :=
  s.vec2 d a b k p (fun ew x y => satE s.th.sat ew (sgn ew x * sgn ew y))

/-- VMULH (R150). -/
def execVmulh (d a b : BitVec 6) (k : BitVec 2) (p _h _g : BitVec 1) (s : State) : Out :=
  s.vec2 d a b k p (fun ew x y => wrapE ew (sgn ew x * sgn ew y / 2 ^ ew))

/-- VMIN (R150). -/
def execVmin (d a b : BitVec 6) (k : BitVec 2) (p _h _g : BitVec 1) (s : State) : Out :=
  s.vec2 d a b k p (fun ew x y => if sgn ew x < sgn ew y then x else y)

/-- VMAX (R150). -/
def execVmax (d a b : BitVec 6) (k : BitVec 2) (p _h _g : BitVec 1) (s : State) : Out :=
  s.vec2 d a b k p (fun ew x y => if sgn ew x < sgn ew y then y else x)

/-- VMINU (R150). -/
def execVminu (d a b : BitVec 6) (k : BitVec 2) (p _h _g : BitVec 1) (s : State) : Out :=
  s.vec2 d a b k p (fun _ x y => min x y)

/-- VMAXU (R150). -/
def execVmaxu (d a b : BitVec 6) (k : BitVec 2) (p _h _g : BitVec 1) (s : State) : Out :=
  s.vec2 d a b k p (fun _ x y => max x y)

/-- VAND (R152). -/
def execVand (d a b : BitVec 6) (k : BitVec 2) (p _h _g : BitVec 1) (s : State) : Out :=
  s.vec2 d a b k p (fun _ x y => x &&& y)

/-- VOR (R152). -/
def execVor (d a b : BitVec 6) (k : BitVec 2) (p _h _g : BitVec 1) (s : State) : Out :=
  s.vec2 d a b k p (fun _ x y => x ||| y)

/-- VXOR (R152). -/
def execVxor (d a b : BitVec 6) (k : BitVec 2) (p _h _g : BitVec 1) (s : State) : Out :=
  s.vec2 d a b k p (fun _ x y => x ^^^ y)

/-- VANDN (R152). -/
def execVandn (d a b : BitVec 6) (k : BitVec 2) (p _h _g : BitVec 1) (s : State) : Out :=
  s.vec2 d a b k p (fun ew x y => x &&& (2 ^ ew - 1 - y))

/-- VSHL (R152). -/
def execVshl (d a b : BitVec 6) (k : BitVec 2) (p _h _g : BitVec 1) (s : State) : Out :=
  s.vec2 d a b k p (fun ew x y => satE s.th.sat ew (sgn ew x * 2 ^ shE ew y))

/-- VSHR (R152). -/
def execVshr (d a b : BitVec 6) (k : BitVec 2) (p _h _g : BitVec 1) (s : State) : Out :=
  s.vec2 d a b k p (fun ew x y => x / 2 ^ shE ew y)

/-- VSRA (R152). -/
def execVsra (d a b : BitVec 6) (k : BitVec 2) (p _h _g : BitVec 1) (s : State) : Out :=
  s.vec2 d a b k p (fun ew x y => wrapE ew (sgn ew x / 2 ^ shE ew y))

/-- VCEQ (R154). -/
def execVceq (d a b : BitVec 6) (k : BitVec 2) (p _h _g : BitVec 1) (s : State) : Out :=
  s.vec2 d a b k p (fun ew x y => maskE ew (x == y))

/-- VCNE (R154). -/
def execVcne (d a b : BitVec 6) (k : BitVec 2) (p _h _g : BitVec 1) (s : State) : Out :=
  s.vec2 d a b k p (fun ew x y => maskE ew (x != y))

/-- VCLT (R154). -/
def execVclt (d a b : BitVec 6) (k : BitVec 2) (p _h _g : BitVec 1) (s : State) : Out :=
  s.vec2 d a b k p (fun ew x y => maskE ew (decide (sgn ew x < sgn ew y)))

/-- VCLE (R154). -/
def execVcle (d a b : BitVec 6) (k : BitVec 2) (p _h _g : BitVec 1) (s : State) : Out :=
  s.vec2 d a b k p (fun ew x y => maskE ew (decide (sgn ew x ≤ sgn ew y)))

/-- VCLTU (R154). -/
def execVcltu (d a b : BitVec 6) (k : BitVec 2) (p _h _g : BitVec 1) (s : State) : Out :=
  s.vec2 d a b k p (fun ew x y => maskE ew (decide (x < y)))

/-- VCLEU (R154). -/
def execVcleu (d a b : BitVec 6) (k : BitVec 2) (p _h _g : BitVec 1) (s : State) : Out :=
  s.vec2 d a b k p (fun ew x y => maskE ew (decide (x ≤ y)))

/-- VSEL (R153): active elements from a, the others from b, every tail 00. -/
def execVsel (d a b : BitVec 6) (k : BitVec 2) (_h _g : BitVec 1) (s : State) : Out :=
  let t := s.th
  let ew := t.ew
  s.vput ew d ((List.range (lanesOf ew)).map (fun i =>
    .put (if t.active k ew i then (t.getV a).elem ew i else (t.getV b).elem ew i) 0))

/-- VSPLAT (R155). -/
def execVsplat (d a : BitVec 6) (k : BitVec 2) (p : BitVec 1) (s : State) : Out :=
  s.vput s.th.ew d (s.th.lanes k p s.th.ew (fun _ => .put (s.rs a).toNat 0))

/-- Write VALID.LANE (R115, R156). -/
def State.setValid (s : State) (v : Nat) : State := { s with th := { s.th with valid := BitVec.ofNat 64 (v % 256) } }

/-- VEXT (R155). -/
def execVext (d a b : BitVec 6) (_h : BitVec 1) (s : State) : Out :=
  let ew := s.th.ew
  let i := (s.rs b).toNat
  if i < lanesOf ew then ((s.ws d (BitVec.ofNat 64 ((s.th.getV a).elem ew i))).setValid 0xFF).retire
  else ((s.ws d 0).setValid 0).retire

/-- One element written with tail 00, every other bit of the register and of its tail unchanged (R155). DEDUCED: VINS's
own description replaces R146's clearing of the tail bits that belong to no element. -/
def insertElem (v : VReg) (ew i x : Nat) : VReg :=
  ⟨BitVec.ofNat 256 (v.val.toNat - v.elem ew i * 2 ^ (ew * i) + x % 2 ^ ew * 2 ^ (ew * i)),
    BitVec.ofNat 64 (v.tail.toNat - v.etail ew i * 2 ^ tailPos ew i)⟩

/-- VINS (R155). -/
def execVins (d a b : BitVec 6) (k : BitVec 2) (s : State) : Out :=
  let t := s.th
  let ew := t.ew
  let i := (s.rs b).toNat
  if i < lanesOf ew then
    let u := s.setValid 0xFF
    (if t.active k ew i then u.wv d (insertElem (t.getV d) ew i (s.rs a).toNat) else u).retire
  else (s.setValid 0).retire

/-- VALID.LANE from the validity of each element (R156): a slot is valid when every element in it is. -/
def validLane (ew : Nat) (ok : Nat → Bool) : Nat :=
  ((List.range 8).map (fun j => if (slotElems ew j).all ok then 2 ^ j else 0)).sum

/-- A permutation: each active element takes a source's value and tail, or its own where there is none (R157, R158,
R160). -/
def State.permute (s : State) (d a : BitVec 6) (k : BitVec 2) (p : BitVec 1) (src : Nat → Option (Nat × Nat)) : Out :=
  let t := s.th
  let ew := t.ew
  let ls := t.lanes k p ew (fun i =>
    match src i with
    | some (v, tl) => .put v tl
    | none => .put ((t.getV a).elem ew i) ((t.getV a).etail ew i))
  (s.setValid (validLane ew (fun i => !t.active k ew i || (src i).isSome))).vput ew d ls

/-- The source of a lane in one register, if the lane may be read under the mask (R157, R158). -/
def Thread.laneOf (t : Thread) (a : BitVec 6) (k : BitVec 2) (ew j : Nat) : Option (Nat × Nat) :=
  if j < lanesOf ew && t.active k ew j then some ((t.getV a).elem ew j, (t.getV a).etail ew j) else none

/-- VPERM (R157). -/
def execVperm (d a b : BitVec 6) (k : BitVec 2) (p _h _g : BitVec 1) (s : State) : Out :=
  s.permute d a k p (fun i => s.th.laneOf a k s.th.ew ((s.th.getV b).elem s.th.ew i))

/-- VROT (R158). -/
def execVrot (d a b : BitVec 6) (k : BitVec 2) (p _h _g : BitVec 1) (s : State) : Out :=
  let ew := s.th.ew
  let n : Int := lanesOf ew
  let r := sgn ew ((s.th.getV b).elem ew 0)
  s.permute d a k p (fun i => if -n < r ∧ r < n then s.th.laneOf a k ew (((i : Int) + r) % n).toNat else none)

/-- VSHUF (R160). -/
def execVshuf (d a b : BitVec 6) (k : BitVec 2) (p _h _g : BitVec 1) (s : State) : Out :=
  let t := s.th
  let ew := t.ew
  let n := lanesOf ew
  s.permute d a k p (fun i =>
    let j := (t.getV b).elem ew i
    if j < n then some ((t.getV a).elem ew j, (t.getV a).etail ew j)
    else if j < 2 * n then some ((t.getV (a + 1)).elem ew (j - n), (t.getV (a + 1)).etail ew (j - n))
    else none)

/-- The operator of a reduction code (R159). -/
def redOp (c ew x y : Nat) : Nat :=
  match c with
  | 0 => (x + y) % 2 ^ ew
  | 1 => if sgn ew x < sgn ew y then x else y
  | 2 => if sgn ew x < sgn ew y then y else x
  | 3 => min x y
  | 4 => max x y
  | 5 => x &&& y
  | 6 => x ||| y
  | _ => x ^^^ y

/-- The identity of a reduction code (R159). -/
def redId (c ew : Nat) : Nat :=
  match c with
  | 1 => 2 ^ (ew - 1) - 1
  | 2 => 2 ^ (ew - 1)
  | 3 | 5 => 2 ^ ew - 1
  | _ => 0

/-- VRED (R161). -/
def execVred (d a c : BitVec 6) (k : BitVec 2) (_h : BitVec 1) (s : State) : Out :=
  let t := s.th
  let ew := t.ew
  let acc := (List.range (lanesOf ew)).foldl (fun acc i =>
    if t.active k ew i then redOp c.toNat ew acc ((t.getV a).elem ew i) else acc) (redId c.toNat ew)
  s.vput ew d ((List.range (lanesOf ew)).map (fun i => .put (if i = 0 then acc else 0) 0))

/-- The lanes of an inclusive scan from element `k` with what is accumulated so far (R162). -/
def scanFrom (act : Nat → Bool) (f : Nat → Nat → Nat) (x : Nat → Nat) (off : Lane) : Nat → Nat → Nat → List Lane
  | 0, _, _ => []
  | n + 1, k, acc =>
    if act k then
      let acc := f acc (x k)
      .put acc 0 :: scanFrom act f x off n (k + 1) acc
    else off :: scanFrom act f x off n (k + 1) acc

/-- VSCAN (R162). -/
def execVscan (d a c : BitVec 6) (k : BitVec 2) (p _h : BitVec 1) (s : State) : Out :=
  let t := s.th
  let ew := t.ew
  s.vput ew d (scanFrom (t.active k ew) (redOp c.toNat ew) ((t.getV a).elem ew) (inactive p ew) (lanesOf ew) 0 (redId c.toNat ew))

/-- VCOMP (R163). -/
def execVcomp (d a : BitVec 6) (k : BitVec 2) (p _h : BitVec 1) (s : State) : Out :=
  let t := s.th
  let ew := t.ew
  let xs := ((List.range (lanesOf ew)).filter (t.active k ew)).map ((t.getV a).elem ew)
  s.vput ew d ((List.range (lanesOf ew)).map (fun i => match xs[i]? with | some v => .put v 0 | none => inactive p ew))

/-- VEXPD (R163): element m of a into the m-th active element of d. -/
def execVexpd (d a : BitVec 6) (k : BitVec 2) (p _h : BitVec 1) (s : State) : Out :=
  let t := s.th
  let ew := t.ew
  s.vput ew d (t.lanes k p ew (fun i =>
    .put ((t.getV a).elem ew ((List.range i).filter (t.active k ew)).length) 0))

end Sys2Proof.Machine
end

