-- ==== Sys2Proof/Machine/VectorFp.lean ====
section
/-! DEFINITION. The vector floating-point instructions and conversions (R177 to R182). -/

namespace Sys2Proof.Machine

/-- The mask bits of the elements of width ew under mk, bit k for element k (R109). -/
def Thread.maskBits (t : Thread) (mk : BitVec 2) (ew : Nat) : Word :=
  (List.range (lanesOf ew)).foldl (fun m k => if t.active mk ew k then m ||| (1#64 <<< k) else m) 0

/-- What a compare or another function writes into an element of width w: a compare gives all ones or 0 (R178). -/
def vfResult (fn w : Nat) (r : Nat × Nat × Flags) : Nat × Nat × Flags :=
  if (14 ≤ fn ∧ fn ≤ 20) ∨ fn = 99 then (maskE w (r.1 == 1), 0, r.2.2) else r

/-- A VF operation on whole registers (R177, R178): the new destination and the flags of the active elements. -/
def vfCompute (fn : Nat) (f : Fmt) (rm : BitVec 3) (keep : Bool) (p : BitVec 1) (a b d : VReg) (mask : Word) : VReg × Flags :=
  let w := f.w
  let res (k : Nat) := vfResult fn w
    (fpsCompute fn f rm keep (a.elem w k, a.etail w k) (b.elem w k, b.etail w k) (d.elem w k, d.etail w k))
  let ks := List.range (lanesOf w)
  let rs := ks.map (fun k => if mask.getLsbD k then some (res k) else none)
  (assemble w d (rs.map (fun r => match r with | some x => .put x.1 x.2.1 | none => inactive p w)),
    rs.foldl (fun fl r => match r with | some x => fl ||| x.2.2 | none => fl) 0)

/-- VFCVT on whole registers (R180). -/
def vcvtCompute (src dst : BitVec 4) (m rm : BitVec 3) (p : BitVec 1) (a d : VReg) (mask : Word) : VReg × Flags :=
  let cs := containerWidth src
  let cd := containerWidth dst
  let ew := max cs cd
  let ks := List.range (lanesOf ew)
  let rs := ks.map (fun k => if mask.getLsbD k then some (convert src dst m rm (a.elem cs k) (a.etail cs k)) else none)
  (assemble cd d (rs.map (fun r => match r with | some x => .put x.1 x.2.1 | none => inactive p cd)),
    rs.foldl (fun fl r => match r with | some x => fl ||| x.2.2 | none => fl) 0)

/-- A VF word (R50). -/
def wordVF (op : Nat) (d a b : BitVec 6) (mk : BitVec 2) (p : BitVec 1) (t : BitVec 2) (fn : Nat) : BitVec 32 :=
  wordA op d a b (mk.toNat * 64 + p.toNat * 32 + t.toNat * 8 + fn)

/-- What the B-core learns beside the slots of R307 where elements of d keep their values (log entry 11): the old destination where
it is not among them, and under a mask the mask bits of its elements. -/
def maskSlots (t : Thread) (d : BitVec 6) (mk : BitVec 2) (ew : Nat) (needsD : Bool) : List Slot :=
  (if needsD then [Slot.wide (t.getV d)] else []) ++ (if mk = 0 then [] else [Slot.scalar ⟨t.maskBits mk ew, 0⟩])

/-- The slots of a shipped vector instruction (R307): a, b where it is read, d of the FMA forms. -/
def vfSlots (t : Thread) (fn : Nat) (d a b : BitVec 6) : List Slot :=
  [Slot.wide (t.getV a)] ++ (if fpsUnary fn && fn != 99 then [] else [Slot.wide (t.getV b)])
    ++ (if fpsReadsD fn then [Slot.wide (t.getV d)] else [])

/-- A VF instruction (R177, R182): `op` and `vfn` are its major and function, `fn` the scalar function of R178. -/
def State.vf (s : State) (op vfn fn : Nat) (d a b : BitVec 6) (mk : BitVec 2) (p : BitVec 1) (t : BitVec 2) : Out :=
  let th := s.th
  if th.isL && (fn != 99 && fpsShips fn t || t == 0) then
    (s.ship (.v d) (wordVF op d a b mk p t vfn) th.fpTrapcap (vfSlots th fn d a b)
      (maskSlots th d mk (fmt2 t).w (mk != 0 && !fpsReadsD fn))).retire
  else
    let r := vfCompute fn (fmt2 t) th.rm th.keep p (th.getV a) (th.getV b) (th.getV d) (th.maskBits mk (fmt2 t).w)
    s.fpDone r.2 (fun u => u.setV d r.1)

/-- VFADD (R178). -/
def execVfadd (d a b : BitVec 6) (k : BitVec 2) (p : BitVec 1) (t : BitVec 2) (s : State) : Out := s.vf 0x2C 0 0 d a b k p t

/-- VFSUB (R178). -/
def execVfsub (d a b : BitVec 6) (k : BitVec 2) (p : BitVec 1) (t : BitVec 2) (s : State) : Out := s.vf 0x2C 1 1 d a b k p t

/-- VFMUL (R178). -/
def execVfmul (d a b : BitVec 6) (k : BitVec 2) (p : BitVec 1) (t : BitVec 2) (s : State) : Out := s.vf 0x2C 2 2 d a b k p t

/-- VFDIV (R178). -/
def execVfdiv (d a b : BitVec 6) (k : BitVec 2) (p : BitVec 1) (t : BitVec 2) (s : State) : Out := s.vf 0x2C 3 3 d a b k p t

/-- VFMIN (R178). -/
def execVfmin (d a b : BitVec 6) (k : BitVec 2) (p : BitVec 1) (t : BitVec 2) (s : State) : Out := s.vf 0x2C 4 5 d a b k p t

/-- VFMAX (R178). -/
def execVfmax (d a b : BitVec 6) (k : BitVec 2) (p : BitVec 1) (t : BitVec 2) (s : State) : Out := s.vf 0x2C 5 6 d a b k p t

/-- VFSCPY (R178). -/
def execVfscpy (d a b : BitVec 6) (k : BitVec 2) (p : BitVec 1) (t : BitVec 2) (s : State) : Out := s.vf 0x2C 6 7 d a b k p t

/-- VFSCPYN (R178). -/
def execVfscpyn (d a b : BitVec 6) (k : BitVec 2) (p : BitVec 1) (t : BitVec 2) (s : State) : Out := s.vf 0x2C 7 8 d a b k p t

/-- VFMA (R178). -/
def execVfma (d a b : BitVec 6) (k : BitVec 2) (p : BitVec 1) (t : BitVec 2) (s : State) : Out := s.vf 0x2D 0 10 d a b k p t

/-- VFMS (R178). -/
def execVfms (d a b : BitVec 6) (k : BitVec 2) (p : BitVec 1) (t : BitVec 2) (s : State) : Out := s.vf 0x2D 1 11 d a b k p t

/-- VFNMA (R178). -/
def execVfnma (d a b : BitVec 6) (k : BitVec 2) (p : BitVec 1) (t : BitVec 2) (s : State) : Out := s.vf 0x2D 2 12 d a b k p t

/-- VFNMS (R178). -/
def execVfnms (d a b : BitVec 6) (k : BitVec 2) (p : BitVec 1) (t : BitVec 2) (s : State) : Out := s.vf 0x2D 3 13 d a b k p t

/-- VFSQRT (R178). -/
def execVfsqrt (d a : BitVec 6) (k : BitVec 2) (p : BitVec 1) (t : BitVec 2) (s : State) : Out := s.vf 0x2D 4 4 d a 0 k p t

/-- VFRND (R178). -/
def execVfrnd (d a : BitVec 6) (k : BitVec 2) (p : BitVec 1) (t : BitVec 2) (s : State) : Out := s.vf 0x2D 5 22 d a 0 k p t

/-- VFCLASS (R178). -/
def execVfclass (d a : BitVec 6) (k : BitVec 2) (p : BitVec 1) (t : BitVec 2) (s : State) : Out := s.vf 0x2D 6 21 d a 0 k p t

/-- VFEQ (R178). -/
def execVfeq (d a b : BitVec 6) (k : BitVec 2) (p : BitVec 1) (t : BitVec 2) (s : State) : Out := s.vf 0x2E 0 14 d a b k p t

/-- VFLT (R178). -/
def execVflt (d a b : BitVec 6) (k : BitVec 2) (p : BitVec 1) (t : BitVec 2) (s : State) : Out := s.vf 0x2E 1 15 d a b k p t

/-- VFLE (R178). -/
def execVfle (d a b : BitVec 6) (k : BitVec 2) (p : BitVec 1) (t : BitVec 2) (s : State) : Out := s.vf 0x2E 2 16 d a b k p t

/-- VFUN (R178). -/
def execVfunord (d a b : BitVec 6) (k : BitVec 2) (p : BitVec 1) (t : BitVec 2) (s : State) : Out := s.vf 0x2E 3 17 d a b k p t

/-- VFEQX (R178). -/
def execVfeqx (d a b : BitVec 6) (k : BitVec 2) (p : BitVec 1) (t : BitVec 2) (s : State) : Out := s.vf 0x2E 4 18 d a b k p t

/-- VFLTX (R178). -/
def execVfltx (d a b : BitVec 6) (k : BitVec 2) (p : BitVec 1) (t : BitVec 2) (s : State) : Out := s.vf 0x2E 5 19 d a b k p t

/-- VFLEX (R178). -/
def execVflex (d a b : BitVec 6) (k : BitVec 2) (p : BitVec 1) (t : BitVec 2) (s : State) : Out := s.vf 0x2E 6 20 d a b k p t

/-- VFNE (R178). -/
def execVfne (d a b : BitVec 6) (k : BitVec 2) (p : BitVec 1) (t : BitVec 2) (s : State) : Out := s.vf 0x2E 7 99 d a b k p t

/-- VFEXP2 (R174). -/
def execVfexp2 (d a : BitVec 6) (k : BitVec 2) (p : BitVec 1) (t : BitVec 2) (s : State) : Out := s.vf 0x30 0 27 d a 0 k p t

/-- VFLOG2 (R174). -/
def execVflog2 (d a : BitVec 6) (k : BitVec 2) (p : BitVec 1) (t : BitVec 2) (s : State) : Out := s.vf 0x30 1 28 d a 0 k p t

/-- VFSINPI (R174). -/
def execVfsinpi (d a : BitVec 6) (k : BitVec 2) (p : BitVec 1) (t : BitVec 2) (s : State) : Out := s.vf 0x30 2 29 d a 0 k p t

/-- VFCOSPI (R174). -/
def execVfcospi (d a : BitVec 6) (k : BitVec 2) (p : BitVec 1) (t : BitVec 2) (s : State) : Out := s.vf 0x30 3 30 d a 0 k p t

/-- VFRSQRT (R174). -/
def execVfrsqrt (d a : BitVec 6) (k : BitVec 2) (p : BitVec 1) (t : BitVec 2) (s : State) : Out := s.vf 0x30 4 31 d a 0 k p t

/-- VFTANH (R174). -/
def execVftanh (d a : BitVec 6) (k : BitVec 2) (p : BitVec 1) (t : BitVec 2) (s : State) : Out := s.vf 0x30 5 32 d a 0 k p t

/-- VFTAILR (R179): the tails of the active elements, as numbers. -/
def execVftailr (d a : BitVec 6) (k : BitVec 2) (p : BitVec 1) (t : BitVec 2) (s : State) : Out :=
  let w := (fmt2 t).w
  s.vput w d (s.th.lanes k p w (fun i => .put ((s.th.getV a).etail w i) 0))

/-- VFTAILW (R179): the active elements keep their values and take new tails. -/
def execVftailw (d a : BitVec 6) (k : BitVec 2) (p : BitVec 1) (t : BitVec 2) (s : State) : Out :=
  let w := (fmt2 t).w
  s.vput w d (s.th.lanes k p w (fun i => .put ((s.th.getV d).elem w i) ((s.th.getV a).elem w i % 4)))

/-- VFCVT (R180, R182). -/
def execVfcvt (d a : BitVec 6) (k : BitVec 2) (p : BitVec 1) (src t : BitVec 4) (m : BitVec 3) (s : State) : Out :=
  let th := s.th
  let ew := max (containerWidth src) (containerWidth t)
  if th.isL && (src == 0 || t == 0) then
    (s.ship (.v d) (BitVec.ofNat 32 (0x2F * 2 ^ 26 + d.toNat * 2 ^ 20 + a.toNat * 2 ^ 14 + k.toNat * 2 ^ 12 + p.toNat * 2 ^ 11
        + src.toNat * 2 ^ 7 + t.toNat * 8 + m.toNat))
      th.fpTrapcap [.wide (th.getV a)] (maskSlots th d k ew (k != 0 || decide (containerWidth t < containerWidth src)))).retire
  else
    let r := vcvtCompute src t m th.rm p (th.getV a) (th.getV d) (th.maskBits k ew)
    s.fpDone r.2 (fun u => u.setV d r.1)

end Sys2Proof.Machine
end

