-- ==== Sys2Proof/Machine/LoadStore.lean ====
section
/-! DEFINITION. Loads and stores: scalar, floating-point, tail records and vectors (R237 to R248, R271, R274, R315). -/

namespace Sys2Proof.Machine

/-- The effective address s[a] + k (R237). -/
def State.ea (s : State) (a : BitVec 6) (k : Int) : Word := s.rs a + BitVec.ofInt 64 k

/-- A place in device control space (R211, R236). -/
def Place.isDevice (p : Place) : Bool := p.cls == 6 && decide (physOf p.key = .device)

/-- The offset in control space of a place. -/
def Place.devOff (p : Place) : Nat := p.key - 0x4000000000000

/-- The machine-check event of a thread that met poisoned data or a failed sector check at a physical address (R301, R419). -/
def State.consumed (s : State) (code : BitVec 7) (pa : Nat) (asid : BitVec 16) (h : BitVec 17) : State :=
  s.machineCheck (Config.unitNo (coreOf h).toNat) (if code = 0x07 then .poison else .check) (BitVec.ofNat 52 pa) (some (asid, h))

/-- A failed check of the current instruction: POISON and CHECK also post their event (R301, R419). -/
def State.failed (s : State) (e : BitVec 7 × Word) : Out :=
  if e.1 = 0x07 ∨ e.1 = 0x08 then
    (s.consumed e.1 (((s.leaf? s.th e.2.toNat).map (fun l => l.pa + e.2.toNat % l.size)).getD 0) s.th.asid s.th.hwid).trap e.1 e.2
  else s.trap e.1 e.2

/-- Read the places of one access: control space, or memory (R236); `one` says that they are one request (R296). -/
def State.readAll (s : State) (ps : List Place) (one : Bool) : State × List Byte :=
  match ps with
  | [p] =>
    if p.isDevice then
      let r := s.devRead (.thread s.th.priv) p.devOff p.n
      (r.1, bytesOfNat p.n r.2)
    else s.readPlaces s.th ps
  | _ => if one then s.readOnce s.th ps else s.readPlaces s.th ps

/-- A load of DEVICE waits at issue in shadow (R315). -/
def State.deviceWaits (s : State) (ps : List Place) : Bool := s.th.inShadow && ps.any (fun p => p.cls == 6)

/-- A checked load: check 5, the waits of R229, R282, R303 and R315 (the machine stays as it is and the instruction
issues again, the layers it needs are woken), then the value and retirement. -/
def State.readChecked (s : State) (ps : List Place) (k : State → List Byte → State) (one : Bool := false) : Out :=
  match s.dataCheck s.th.agent ps false with
  | .error e => s.failed e
  | .ok _ =>
    if s.loadWaits s.th ps || s.deviceWaits ps then .next (s.rouseHomes s.th.agent ps false)
    else
      let r := s.readAll ps one
      (k r.1 r.2).retire

/-- A load of one access. -/
def State.load (s : State) (x : Word) (n align : Nat) (acc : Acc) (rq : BitVec 2) (k : State → List Byte → State) : Out :=
  match s.checkAccess s.th x n align acc rq with
  | .error e => s.failed e
  | .ok ps => s.readChecked ps k

/-- The sequence of the youngest unresolved trap-capable instruction, behind which a store is held (R315). -/
def Thread.shadowTag (t : Thread) : BitVec 16 := (((t.ops.filter (·.trapcap)).getLast?).map (·.seq)).getD 0

/-- Write to the memory of a place whose line is held, or to control space (R236, R242). -/
def State.writeHeld (s : State) (t : Thread) (w : Place × List Byte) : State :=
  if w.1.isDevice then s.devWrite (.thread t.priv) w.1.devOff w.1.n (natOfBytes w.2) else s.pokeAll t.agent w.1 w.1.key w.2

/-- Perform the writes of one store: control space, or memory (R236, R242); `one` says that they are one request (R296). -/
def State.perform (s : State) (t : Thread) (ws : List (Place × List Byte)) (one : Bool := false) : State :=
  (if one then ws.foldl (fun (s : State) w => s.writeHeld t w)
      (s.prepareOnce t.storer true [] ((ws.map (·.1)).filter (fun p => !p.isDevice)))
    else ws.foldl (fun (s : State) w =>
      if w.1.isDevice then s.devWrite (.thread t.priv) w.1.devOff w.1.n (natOfBytes w.2)
      else s.writePlace t.storer w.1 w.2) s).clearMarks (ws.map (·.1))

/-- A store of the current group that is still to be performed. -/
def State.storeOf (s : State) (ws : List (Place × List Byte)) (one : Bool) : HeldStore :=
  ⟨s.th.shadowTag, ws, s.th.groupStart, s.insn, s.th.repLeftNow, one,
    (s.th.undo.filter (fun u => u.tag == s.th.shadowTag)).length⟩

/-- A store of a thread cannot be performed now: its stores lag, older ones of it are still to be performed, or a home holds it
(R22, R270, R273, R295). DEVICE stores go their own path at once (R236). -/
def State.storeLags (s : State) (t : Thread) (ws : List (Place × List Byte)) : Bool :=
  !ws.any (fun w => w.1.cls == 6) && (t.lag || !t.buf.isEmpty || s.homeWaits t.storer (ws.map (·.1)) true)

/-- Perform a store of a thread, or let it lag behind the thread. -/
def State.storeNow (s : State) (t : Thread) (h : HeldStore) : State :=
  if s.storeLags t h.writes then (s.putThread { t with buf := t.buf ++ [h] }).rouseHomes t.storer (h.writes.map (·.1)) true
  else s.perform t h.writes h.one

/-- Perform the writes of a store of the current thread, let them lag behind it, or hold them in shadow (R274, R315). -/
def State.storeOut (s : State) (ws : List (Place × List Byte)) (one : Bool := false) : State :=
  if s.th.inShadow then { s with th := { s.th with held := s.th.held ++ [s.storeOf ws one] } }
  else if s.storeLags s.th ws then
    State.rouseHomes { s with th := { s.th with buf := s.th.buf ++ [s.storeOf ws one] } } s.th.storer (ws.map (·.1)) true
  else s.perform s.th ws one

/-- A checked store of the writes of its places: check 5, which a store held in shadow meets when it is released (R315, log
entry 71), then the writes. -/
def State.writeChecked (s : State) (ws : List (Place × List Byte)) (k : State → State) (one : Bool := false) : Out :=
  match if s.th.inShadow then .ok () else s.dataCheck s.th.agent (ws.map (·.1)) true with
  | .error e => s.failed e
  | .ok _ => (k (s.storeOut ws one)).retire

/-- The oldest stores of a thread that still wait are performed, as far as their homes take them; `n` bounds how many. -/
def State.drain (s : State) (h : BitVec 17) : Nat → State
  | 0 => s
  | n + 1 =>
    match s.thread? h with
    | none => s
    | some t =>
      match t.buf with
      | [] => s
      | x :: r =>
        if s.homeWaits t.storer (x.writes.map (·.1)) true then s.rouseHomes t.storer (x.writes.map (·.1)) true
        else ((s.putThread { t with buf := r }).perform { t with buf := r } x.writes x.one).drain h n

-- What a release waits for (R275, R241, R263).

/-- A release of a thread on an object (the unbound form on none) covers a store of it that is not yet performed at every
scope: to a bound region, or to any place where none is bound; of appends and seals those that have come to their page's home and
are not performed (R268, R275). One still on its way has no place among the stores of any location yet (R228, R284, R440; log entry
27). -/
def State.coveredOut (s : State) (t : Thread) (obj : Option Word) : Bool :=
  let bs : List Binding := match obj with
    | none => []
    | some x => t.bindings.filter (fun (b : Binding) => b.obj == x)
  let at_ (va n : Nat) : Bool := bs.isEmpty || bs.any (fun b =>
    decide (b.base.toNat < va + n) && decide (va < b.base.toNat + b.count.toNat * 512))
  let line (l : Nat) : Bool := bs.any (fun b => s.regionHolds t b.base.toNat (b.count.toNat * 512) l)
  t.ownStores.any (fun h => h.writes.any (fun w => at_ w.1.va.toNat w.1.n || (decide (w.1.cls.toNat < 7) && w.1.lines.any line)))
    || t.ops.any (fun o => match o.kind with
      | .append ea _ _ | .sealOp ea _ _ => at_ (ea.toNat / 65536 * 65536) 65536 && !s.notArrived t.hwid o.gen
      | _ => false)

/-- A store of one access. -/
def State.store (s : State) (x : Word) (n align : Nat) (acc : Acc) (rq : BitVec 2) (bs : List Byte) (k : State → State) : Out :=
  match s.checkAccess s.th x n align acc rq with
  | .error e => s.failed e
  | .ok ps => s.writeChecked (spread ps bs) k

-- Scalar loads and stores (R241, R243).

/-- The acquire side of ord: 1 .acq, 3 .acqrel. -/
def ordAcq (o : BitVec 2) : Bool := o.getLsbD 0

/-- The release side of ord: 2 .rel, 3 .acqrel. -/
def ordRel (o : BitVec 2) : Bool := o.getLsbD 1

/-- The acquire of an ordered access, after it, whatever its scope (R241, R276). -/
def State.ordered (s : State) (o : BitVec 2) (x : Word) : State :=
  if ordAcq o then s.acquireOn s.th (some (objOf x)) else s

/-- The release of an ordered access, before it, waits (R241, R275). -/
def State.orderWaits (s : State) (o : BitVec 2) (x : Word) : Bool := ordRel o && s.coveredOut s.th (some (objOf x))

/-- A scalar load of `n` bytes; `sg` extends by the sign. -/
def State.loadS (s : State) (n : Nat) (sg : Bool) (d a : BitVec 6) (q o : BitVec 2) (i : BitVec 10) : Out :=
  let x := s.ea a (n * s.th.imm 10 i)
  if s.orderWaits o x then .next s
  else s.load x n n .load q (fun s bs => (s.ordered o x).ws d (BitVec.ofInt 64 (intOf (8 * n) sg (natOfBytes bs))))

/-- A scalar store of `n` bytes. -/
def State.storeS (s : State) (n : Nat) (b a : BitVec 6) (q o : BitVec 2) (i : BitVec 10) : Out :=
  let x := s.ea a (n * s.th.imm 10 i)
  if s.orderWaits o x then .next s
  else s.store x n n .store q (bytesOfNat n (s.rs b).toNat) (fun s => s.ordered o x)

/-- LDB (R243). -/
def execLdb (d a : BitVec 6) (q o : BitVec 2) (i : BitVec 10) (s : State) : Out := s.loadS 1 true d a q o i

/-- LDH (R243). -/
def execLdh (d a : BitVec 6) (q o : BitVec 2) (i : BitVec 10) (s : State) : Out := s.loadS 2 true d a q o i

/-- LDW (R243). -/
def execLdw (d a : BitVec 6) (q o : BitVec 2) (i : BitVec 10) (s : State) : Out := s.loadS 4 true d a q o i

/-- LDD (R243). -/
def execLdd (d a : BitVec 6) (q o : BitVec 2) (i : BitVec 10) (s : State) : Out := s.loadS 8 true d a q o i

/-- LDBU (R243). -/
def execLdbu (d a : BitVec 6) (q o : BitVec 2) (i : BitVec 10) (s : State) : Out := s.loadS 1 false d a q o i

/-- LDHU (R243). -/
def execLdhu (d a : BitVec 6) (q o : BitVec 2) (i : BitVec 10) (s : State) : Out := s.loadS 2 false d a q o i

/-- LDWU (R243). -/
def execLdwu (d a : BitVec 6) (q o : BitVec 2) (i : BitVec 10) (s : State) : Out := s.loadS 4 false d a q o i

/-- STB (R243). -/
def execStb (b a : BitVec 6) (q o : BitVec 2) (i : BitVec 10) (s : State) : Out := s.storeS 1 b a q o i

/-- STH (R243). -/
def execSth (b a : BitVec 6) (q o : BitVec 2) (i : BitVec 10) (s : State) : Out := s.storeS 2 b a q o i

/-- STW (R243). -/
def execStw (b a : BitVec 6) (q o : BitVec 2) (i : BitVec 10) (s : State) : Out := s.storeS 4 b a q o i

/-- STD (R243). -/
def execStd (b a : BitVec 6) (q o : BitVec 2) (i : BitVec 10) (s : State) : Out := s.storeS 8 b a q o i

-- Floating-point loads and stores (R244).

/-- The size in bytes of a format. -/
def fmtBytes (f : BitVec 4) : Nat := (fmtOf f).w / 8

/-- FLD (R244). -/
def execFld (d a : BitVec 6) (f : BitVec 4) (q : BitVec 2) (i : BitVec 8) (s : State) : Out :=
  let n := fmtBytes f
  s.load (s.ea a (n * s.th.imm 8 i)) n n .load q (fun s bs => s.ws d (BitVec.ofNat 64 (natOfBytes bs)))

/-- The rounding mode an instruction's rm field and FCSR give (R57). -/
def rmOf (m dyn : BitVec 3) : BitVec 3 := if m = 6 then dyn else m

/-- FST (R244): the checks come before the rounding, an enabled flag traps with nothing stored. -/
def execFst (b a : BitVec 6) (f : BitVec 4) (m : BitVec 3) (i : BitVec 7) (s : State) : Out :=
  let n := fmtBytes f
  let x := s.ea a (n * s.th.imm 7 i)
  match s.checkAccess s.th x n n .store s.th.hrq with
  | .error e => s.failed e
  | .ok ps =>
    let im := imgS (s.th.getS b)
    let r := (fmtOf f).roundImg (rmOf m s.th.rm) im.1 im.2
    if flagsTrap s.th.enables r.2 then s.trap 0x09 (r.2.zeroExtend 64)
    else s.writeChecked (spread ps (bytesOfNat n r.1)) (fun s => { s with th := s.th.orFlags r.2 })

-- Tail spill and fill (R245).

/-- LDT (R245): every tail bit comes from the record, those that R85 and R107 leave at zero included (DEDUCED, log entry
98). -/
def execLdt (d a : BitVec 6) (i : BitVec 14) (s : State) : Out :=
  s.load (s.ea a (s.th.imm 14 i)) 16 16 .wideLoad s.th.hrq (fun s bs =>
    s.wsImg d ⟨BitVec.ofNat 64 (natOfBytes (bs.take 8)), bs.getD 8 0⟩)

/-- The 16-byte record of a scalar image (R245). -/
def recordS (r : SReg) : List Byte := bytesOfNat 8 r.val.toNat ++ bytesOfNat 8 r.tail.toNat

/-- STT (R245). -/
def execStt (d a : BitVec 6) (i : BitVec 14) (s : State) : Out :=
  s.store (s.ea a (s.th.imm 14 i)) 16 16 .wideStore s.th.hrq (recordS (s.th.getS d)) id

/-- VLDT (R245). -/
def execVldt (d a : BitVec 6) (q : BitVec 2) (s : State) : Out :=
  s.load (s.rs a) 40 8 .wideLoad q (fun s bs =>
    s.wv d ⟨BitVec.ofNat 256 (natOfBytes (bs.take 32)), BitVec.ofNat 64 (natOfBytes (bs.drop 32))⟩)

/-- The 40-byte record of a vector image (R245). -/
def recordV (r : VReg) : List Byte := bytesOfNat 32 r.val.toNat ++ bytesOfNat 8 r.tail.toNat

/-- VSTT (R245). -/
def execVstt (d a : BitVec 6) (q : BitVec 2) (s : State) : Out :=
  s.store (s.rs a) 40 8 .wideStore q (recordV (s.th.getV d)) id

-- Vector loads and stores (R246 to R248).

/-- The active slots of a vector access with their addresses (R246). -/
def Thread.slots (t : Thread) (mk : BitVec 2) (x : Nat → Word) : List (Nat × Word) :=
  ((List.range 8).filter (fun k => t.active mk 32 k)).map (fun k => (k, x k))

/-- Check every active slot, the lowest first (R238). -/
def State.checkSlots (s : State) (acc : Acc) (rq : BitVec 2) : List (Nat × Word) → Chk (List (Nat × List Place))
  | [] => .ok []
  | (k, x) :: r =>
    match s.checkAccess s.th x 4 4 acc rq with
    | .error e => .error e
    | .ok ps => (s.checkSlots acc rq r).map (fun l => (k, ps) :: l)

/-- A vector load (R246); `one` says that it is one access (R296). -/
def State.vload (s : State) (d : BitVec 6) (mk : BitVec 2) (p : BitVec 1) (rq : BitVec 2) (x : Nat → Word) (one : Bool) : Out :=
  let t := s.th
  match s.checkSlots .wideLoad rq (t.slots mk x) with
  | .error e => s.failed e
  | .ok ks =>
    s.readChecked (ks.flatMap (·.2)) (fun s bs =>
      let val (k : Nat) : Nat := natOfBytes ((bs.drop (4 * ((ks.map (·.1)).idxOf k))).take 4)
      s.wv d (assemble 32 (t.getV d) (t.lanes mk p 32 (fun k => .put (val k) 0)))) one

/-- What a vector store writes for a slot: the F32 image rounded, or the raw bits when its tail is 00 (R247). -/
def storeSlot (rm : BitVec 3) (v : VReg) (k : Nat) : Nat × Flags :=
  if v.etail 32 k = 0 then (v.elem 32 k, 0) else F32.roundImg rm (v.elem 32 k) (v.etail 32 k)

/-- A vector store (R246 to R248): slots in order, so that the higher number stays; `one` says that it is one access (R296). -/
def State.vstore (s : State) (d : BitVec 6) (mk rq : BitVec 2) (x : Nat → Word) (one : Bool) : Out :=
  let t := s.th
  match s.checkSlots .wideStore rq (t.slots mk x) with
  | .error e => s.failed e
  | .ok ks =>
    let val (k : Nat) := storeSlot t.rm (t.getV d) k
    let fl := ks.foldl (fun f k => f ||| (val k.1).2) 0
    if flagsTrap t.enables fl then s.trap 0x09 (fl.zeroExtend 64)
    else s.writeChecked (ks.flatMap (fun k => spread k.2 (bytesOfNat 4 (val k.1).1))) (fun s => { s with th := s.th.orFlags fl }) one

/-- The address of slot k of VLD and VST (R246). -/
def State.unitAddr (s : State) (a : BitVec 6) (i : BitVec 9) (k : Nat) : Word := s.ea a (32 * s.th.imm 9 i + 4 * k)

/-- The address of slot k of VLDS and VSTS (R246). -/
def State.strideAddr (s : State) (a b : BitVec 6) (k : Nat) : Word := s.ea a (k * intOf 32 true ((s.th.getV b).elem 32 0))

/-- The address of slot k of VGATHER and VSCATTER (R246). -/
def State.gatherAddr (s : State) (a b : BitVec 6) (k : Nat) : Word := s.ea a (intOf 32 true ((s.th.getV b).elem 32 k))

/-- VLD (R246). -/
def execVld (d a : BitVec 6) (k : BitVec 2) (p : BitVec 1) (q : BitVec 2) (i : BitVec 9) (s : State) : Out :=
  s.vload d k p q (s.unitAddr a i) true

/-- VST (R246). -/
def execVst (d a : BitVec 6) (k q : BitVec 2) (i : BitVec 9) (s : State) : Out := s.vstore d k q (s.unitAddr a i) true

/-- VLDS (R246). -/
def execVlds (d a b : BitVec 6) (k : BitVec 2) (p : BitVec 1) (q : BitVec 2) (s : State) : Out :=
  s.vload d k p q (s.strideAddr a b) false

/-- VGATHER (R246). -/
def execVgather (d a b : BitVec 6) (k : BitVec 2) (p : BitVec 1) (q : BitVec 2) (s : State) : Out :=
  s.vload d k p q (s.gatherAddr a b) false

/-- VSTS (R246). -/
def execVsts (d a b : BitVec 6) (k q : BitVec 2) (s : State) : Out := s.vstore d k q (s.strideAddr a b) false

/-- VSCATTER (R246). -/
def execVscatter (d a b : BitVec 6) (k q : BitVec 2) (s : State) : Out := s.vstore d k q (s.gatherAddr a b) false

end Sys2Proof.Machine
end

