-- ==== Sys2Proof/Machine/Atomic.lean ====
section
/-! DEFINITION. Atomics: AMO (R249, R250) and the wide atomics with their shipping (R251, R252). -/

namespace Sys2Proof.Machine

-- AMO.

/-- The value an AMO leaves (R249), on `n`-byte values; `c` is the value AMOCAS compares with. -/
def amoNew (aop n old v c : Nat) : Nat :=
  let w := 8 * n
  let so := intOf w true old
  let sv := intOf w true v
  match aop with
  | 0 => (old + v) % 2 ^ w
  | 1 => old &&& v
  | 2 => old ||| v
  | 3 => old ^^^ v
  | 4 => if so < sv then old else v
  | 5 => if so < sv then v else old
  | 6 => min old v
  | 7 => max old v
  | 8 => v
  | _ => if old = c then v else old

/-- Where the atomic of an agent on a place is served (R222, R250, R272, R293): a line tracked at its home is owned first, or
the atomic is made at the home; an SWM line off its HOME die is the die's copy, or with .u the home line. Never is it an
unrecorded copy, which may be stale. -/
def Place.atomic (p : Place) (d : BitVec 6) : Place :=
  if p.cls = 7 ∨ p.rq = 0 then p
  else if p.onDieCopy d then { p with rq := 1 }
  else { p with rq := 3 }

/-- A store of the thread that is not yet performed lies in some places (R271). -/
def Thread.storeOverlaps (t : Thread) (ps : List Place) : Bool :=
  t.ownStores.any (fun h => h.writes.any (fun w => ps.any (fun p => w.1.key < p.key + p.n && p.key < w.1.key + w.1.n)))

/-- An atomic of a thread waits: at a home, for its own older stores to the bytes or of its request type to the slice, and where
its scope makes it a release for the stores it covers (R17, R250, R271, R273, R275). -/
def State.atomWaits (s : State) (t : Thread) (ps : List Place) (sc : BitVec 3) (x : Word) : Bool :=
  s.homeWaits t.agent ps true || t.storeOverlaps ps || s.behindStores t (ps.map (fun p => { p with rq := t.hrq }))
    || (sc != 0 && s.coveredOut t (some (objOf x)))

/-- An atomic that waits takes its place at its home: one that the home performs as an AMOH with its operands, so that it is
performed even when its task is cancelled (R250, R304). -/
def State.rouseAmo (s : State) (ag : Agent) (aop n v c : Nat) (ps : List Place) : State :=
  s.rouseFor ag (fun p l =>
    if p.cls = 7 ∨ p.rq = 0 ∨ !p.tracked ag.die then p.request ag l true
    else .amoh ⟨BitVec.ofNat 52 l, ag.die, ag.pool, p.rq, 0⟩ (BitVec.ofNat 4 aop) (n == 8) (BitVec.ofNat 6 (p.key % 64))
      (BitVec.ofNat 64 v) (BitVec.ofNat 64 c)) ps true

/-- One indivisible step on some places (R249, R272): the lines are held, the old bytes read, what `f` makes of them
written. -/
def State.atomically (s : State) (ag : Agent) (ps : List Place) (f : List Byte → Option (List Byte)) : State × List Byte :=
  let s := ps.foldl (fun (s : State) p => s.prepare ag p true) s
  let old := ps.flatMap (fun p => (keysFrom p.key p.n).map (fun k => s.peek ag [] p k))
  match f old with
  | none => (s, old)
  | some bs => (((spread ps bs).foldl (fun (s : State) w => s.pokeAll ag w.1 w.1.key w.2) s).clearMarks ps, old)

/-- An AMO (R249, R250): one indivisible step. -/
def State.amo (s : State) (aop : Nat) (d a b : BitVec 6) (w : BitVec 1) (sc : BitVec 3) : Out :=
  let n := if w = 0 then 4 else 8
  let x := s.rs a
  match s.checkAccess s.th x n n .amo s.th.hrq with
  | .error e => s.failed e
  | .ok ps =>
    match s.dataCheck s.th.agent ps false with
    | .error e => s.failed e
    | .ok _ =>
      let ps := ps.map (fun p => p.atomic (dieOf s.th.hwid))
      if s.atomWaits s.th ps sc x then .next (s.rouseAmo s.th.agent aop n (s.rs b).toNat (s.rs d).toNat ps)
      else
        let new (old : Nat) := amoNew aop n old ((s.rs b).toNat % 2 ^ (8 * n)) ((s.rs d).toNat % 2 ^ (8 * n))
        let r := s.atomically s.th.agent ps (fun bs =>
          let old := natOfBytes bs
          if aop = 9 ∧ new old = old then none else some (bytesOfNat n (new old)))
        ((r.1.acquireAt s.th sc x).ws d (BitVec.ofInt 64 (intOf (8 * n) (n == 4) (natOfBytes r.2)))).retire

/-- AMOADD (R249). -/
def execAmoadd (d a b : BitVec 6) (w : BitVec 1) (sc : BitVec 3) (s : State) : Out := s.amo 0 d a b w sc

/-- AMOAND (R249). -/
def execAmoand (d a b : BitVec 6) (w : BitVec 1) (sc : BitVec 3) (s : State) : Out := s.amo 1 d a b w sc

/-- AMOOR (R249). -/
def execAmoor (d a b : BitVec 6) (w : BitVec 1) (sc : BitVec 3) (s : State) : Out := s.amo 2 d a b w sc

/-- AMOXOR (R249). -/
def execAmoxor (d a b : BitVec 6) (w : BitVec 1) (sc : BitVec 3) (s : State) : Out := s.amo 3 d a b w sc

/-- AMOMIN (R249). -/
def execAmomin (d a b : BitVec 6) (w : BitVec 1) (sc : BitVec 3) (s : State) : Out := s.amo 4 d a b w sc

/-- AMOMAX (R249). -/
def execAmomax (d a b : BitVec 6) (w : BitVec 1) (sc : BitVec 3) (s : State) : Out := s.amo 5 d a b w sc

/-- AMOMINU (R249). -/
def execAmominu (d a b : BitVec 6) (w : BitVec 1) (sc : BitVec 3) (s : State) : Out := s.amo 6 d a b w sc

/-- AMOMAXU (R249). -/
def execAmomaxu (d a b : BitVec 6) (w : BitVec 1) (sc : BitVec 3) (s : State) : Out := s.amo 7 d a b w sc

/-- AMOSWAP (R249). -/
def execAmoswap (d a b : BitVec 6) (w : BitVec 1) (sc : BitVec 3) (s : State) : Out := s.amo 8 d a b w sc

/-- AMOCAS (R249). -/
def execAmocas (d a b : BitVec 6) (w : BitVec 1) (sc : BitVec 3) (s : State) : Out := s.amo 9 d a b w sc

-- Wide atomics.

/-- The operands of a WAMO besides its address: the pair compared with, the new pair, the addend image, the vector. -/
structure WArg where
  exp : Nat
  new : Nat
  img : Nat × Nat
  vec : VReg
  deriving DecidableEq, Repr

/-- The size of a WAMO (R237). -/
def wamoSize (wop : Nat) : Nat :=
  match wop with
  | 0 | 1 => 16
  | 2 => 4
  | 3 => 8
  | _ => 32

/-- A pair of words as a number, the first the lower. -/
def pairNat (lo hi : Word) : Nat := lo.toNat + hi.toNat * 2 ^ 64

/-- VAMOADD's sum, slot by slot (R251). -/
def vaddSlots (old : Nat) (v : VReg) : Nat :=
  ((List.range 8).map (fun k => ((old / 2 ^ (32 * k) + v.elem 32 k) % 2 ^ 32) * 2 ^ (32 * k))).sum

/-- FADDA's sum: the addend rounded, the sum rounded once, the flags of both (R252). -/
def faddaSum (f : Fmt) (rm : BitVec 3) (old : Nat) (img : Nat × Nat) : Nat × Flags :=
  let y := f.roundImg rm img.1 img.2
  let r := f.deliver rm false (f.nanOr [f.num old, f.num y.1] (f.addNum rm (f.num old) (f.num y.1)))
  (r.1, y.2 ||| r.2.2)

/-- What a WAMO writes (none: nothing), or its flags when an enabled one traps (R251, R252). -/
def wamoResult (wop : Nat) (rm : BitVec 3) (enables : BitVec 5) (old : Nat) (c : WArg) : Except Flags (Option Nat × Flags) :=
  match wop with
  | 0 => .ok (if old = c.exp then some c.new else none, 0)
  | 1 => .ok (some c.new, 0)
  | 4 => .ok (some (vaddSlots old c.vec), 0)
  | _ =>
    let r := faddaSum (if wop = 2 then F32 else F64) rm old c.img
    if flagsTrap enables r.2 then .error r.2 else .ok (some r.1, r.2)

/-- The value a WAMO returns, as a slot (R308). -/
def wamoSlot (wop old : Nat) : Slot :=
  if wop = 2 ∨ wop = 3 then .scalar ⟨BitVec.ofNat 64 old, 0⟩ else .wide ⟨BitVec.ofNat 256 old, 0⟩

/-- A WAMO by an agent for a thread (R251): the checks in its address space, one indivisible step. It answers nothing when it
waits at a home; `waits` is what else it waits for. -/
def State.wamo (s : State) (t : Thread) (ag : Agent) (wop : Nat) (x : Word) (rq : BitVec 2) (rm : BitVec 3) (enables : BitVec 5)
    (waits : List Place → Bool) (c : WArg) : State × Option (Except (BitVec 7 × Word) (Slot × Flags)) :=
  let n := wamoSize wop
  match s.checkAccess t x n n .amo rq with
  | .error e => (s, some (.error e))
  | .ok ps =>
    match s.dataCheck ag ps false with
    | .error e => (s, some (.error e))
    | .ok _ =>
      let ps := ps.map (fun p => p.atomic ag.die)
      if s.homeWaits ag ps true || waits ps then (s.rouseHomes ag ps true, none)
      else
        let r := s.atomically ag ps (fun bs =>
          match wamoResult wop rm enables (natOfBytes bs) c with
          | .ok (some v, _) => some (bytesOfNat n v)
          | _ => none)
        let old := natOfBytes r.2
        (r.1, some (match wamoResult wop rm enables old c with
          | .error fl => .error (0x09, fl.zeroExtend 64)
          | .ok (_, fl) => .ok (wamoSlot wop old, fl)))

/-- The operands of a WAMO as a guest packet carries them (R307). -/
def wamoSlots (t : Thread) (wop : Nat) (d a b : BitVec 6) : List Slot :=
  let v (n : BitVec 6) := (t.getS n).val
  match wop with
  | 0 | 1 => [.scalar (t.getS a), .wide ⟨v (b + 1) ++ v b ++ v (d + 1) ++ v d, 0⟩]
  | 4 => [.scalar (t.getS a), .wide (t.getV b)]
  | _ => [.scalar (t.getS a), .scalar (t.getS b)]

/-- The operands of a WAMO read from its slots. -/
def wargOf : List Slot → WArg
  | [_, .wide r] => ⟨r.val.toNat % 2 ^ 128, r.val.toNat / 2 ^ 128, (0, 0), r⟩
  | [_, .scalar r] => ⟨0, 0, imgS r, ⟨0, 0⟩⟩
  | _ => ⟨0, 0, (0, 0), ⟨0, 0⟩⟩

/-- The destination of a WAMO. -/
def wamoDst (wop : Nat) (d : BitVec 6) : Dst :=
  match wop with
  | 0 | 1 => .pair d
  | 4 => .v d
  | _ => .s d

/-- A WAMO: an L-core ships it; a native thread performs it on the CORE path (R251). -/
def State.wide (s : State) (wop : Nat) (d a b : BitVec 6) (sc : BitVec 3) : Out :=
  let t := s.th
  if t.isL then
    (s.ship (wamoDst wop d) (wordA 0x24 d a b (sc.toNat * 16 + wop)) true (wamoSlots t wop d a b)).retire
  else
    match s.wamo t t.agent wop (s.rs a) t.hrq t.rm t.enables (fun ps => s.atomWaits t ps sc (s.rs a))
        (wargOf (wamoSlots t wop d a b)) with
    | (s, none) => .next s
    | (s, some (.error e)) => s.failed e
    | (s, some (.ok (v, fl))) =>
      let s := s.acquireAt t sc (t.getS a).val
      State.retire { s with th := (s.th.fillDst (wamoDst wop d) v).orFlags fl }

/-- CAS2 (R251). -/
def execCas2 (d a b : BitVec 6) (sc : BitVec 3) (s : State) : Out := s.wide 0 d a b sc

/-- SWAP2 (R251). -/
def execSwap2 (d a b : BitVec 6) (sc : BitVec 3) (s : State) : Out := s.wide 1 d a b sc

/-- FADDA.F (R252). -/
def execFaddaF (d a b : BitVec 6) (sc : BitVec 3) (s : State) : Out := s.wide 2 d a b sc

/-- FADDA.D (R252). -/
def execFaddaD (d a b : BitVec 6) (sc : BitVec 3) (s : State) : Out := s.wide 3 d a b sc

/-- VAMOADD (R251). -/
def execVamoadd (d a b : BitVec 6) (sc : BitVec 3) (s : State) : Out := s.wide 4 d a b sc

end Sys2Proof.Machine
end

