-- ==== Sys2Proof/Machine/Sync.lean ====
section
/-! DEFINITION. APPEND, SEAL and TAILQ as their thread issues them (R253 to R256), range instructions (R257 to R260),
synchronisation and bell instructions (R261 to R265). -/

namespace Sys2Proof.Machine

-- APPEND, SEAL, TAILQ.

/-- The page that holds a physical address, as its home record names it (R227). -/
def pageNo (pa : Nat) : BitVec 36 := BitVec.ofNat 36 (pa / 65536)

/-- Check the page of an append, seal or pointer read; the byte at s[a] stands for it (R253). -/
def State.pageCheck (s : State) (x : Word) (acc : Acc) (k : Nat → BitVec 52 → Out) : Out :=
  match s.checkUnit s.th x 1 acc 0 with
  | .error e => s.failed e
  | .ok ps => k ((ps.headD ⟨0, 0, 0, 0, 0, 0⟩).key) (((s.leaf? s.th x.toNat).map (·.pte)).getD 0)

/-- Send an append to its page's home (R253). -/
def State.append (s : State) (d a : BitVec 6) (data : List Byte) : Out :=
  s.pageCheck (s.rs a) .append (fun pa _ =>
    ((s.startOp (.s d) 5 s.insn (.append (s.rs a) (pageNo pa) data)).send (.appendArrival s.th.hwid s.nextGen)).retire)

/-- APPEND.W (R253). -/
def execAppendW (d a b : BitVec 6) (s : State) : Out := s.append d a (bytesOfNat 4 (s.rs b).toNat)

/-- APPEND.D (R253). -/
def execAppendD (d a b : BitVec 6) (s : State) : Out := s.append d a (bytesOfNat 8 (s.rs b).toNat)

/-- APPENDV (R253). -/
def execAppendv (d a b : BitVec 6) (s : State) : Out := s.append d a (bytesOfNat 32 (s.th.getV b).val.toNat)

/-- SEAL (R255). -/
def execSealPage (d a : BitVec 6) (s : State) : Out :=
  s.pageCheck (s.rs a) .sealing (fun pa pte =>
    ((s.startOp (.s d) 5 s.insn (.sealOp (s.rs a) (pageNo pa) pte)).send (.sealArrival s.th.hwid s.nextGen)).retire)

/-- The home record of a page; a page with none has both offsets 0 (R227). -/
def State.pageRec (s : State) (page : BitVec 36) (pte : BitVec 52) : AppendPage :=
  (s.caches.appendPages.find? (fun g => g.page == page)).getD ⟨page, 0, 0, false, none, pte, [], [], [], []⟩

/-- Put a home record back. -/
def State.putPage (s : State) (g : AppendPage) : State :=
  { s with caches := { s.caches with appendPages := g :: s.caches.appendPages.filter (·.page != g.page) } }

/-- TAILQ's word (R256). -/
def tailqWord (g : AppendPage) : Word :=
  BitVec.ofNat 64 ((if g.isSealed then 2 ^ 63 else 0) + g.done.toNat * 2 ^ 32
    + (if g.isSealed then g.done.toNat else g.reserve.toNat))

/-- An append or a seal of a thread is on its way to a page. -/
def State.appendsOut (s : State) (t : Thread) (page : BitVec 36) : Bool :=
  t.ops.any (fun o => o.kind.page? == some page && s.notArrived t.hwid o.gen)

/-- TAILQ (R256): a request to the page's home, behind the thread's own earlier ones (R228) and in its turn there (R22, R216,
R303). -/
def execTailq (d a : BitVec 6) (s : State) : Out :=
  s.pageCheck (s.rs a) .tailq (fun pa pte =>
    let t := s.th
    let w : Option Waiter := some (.core t.hwid)
    let l := lineOf pa
    let home := s.homeOf (BitVec.ofNat 52 l)
    if s.appendsOut t (pageNo pa) then .next s
    else if s.homeHolds w false l home then
      .next (s.queueUp ⟨.getu ⟨BitVec.ofNat 52 l, dieOf t.hwid, poolOf t.hwid, 3, 0⟩, w⟩ l home)
    else (State.ws (s.takeTurn w [l]) d (tailqWord (s.pageRec (pageNo pa) pte))).retire)

-- Ranges.

/-- The window a virtual address lies in: the stash or the argument window (R210). -/
def inWindow (x : Nat) : Bool := decide (0x800000000000 ≤ x) && decide (x < 0x800000900000)

/-- The end of the range of R210 that an address lies in: the job's space, the stash window, the argument window. -/
def spaceEnd (x : Nat) : Option Nat :=
  if x < 0x800000000000 then some 0x800000000000
  else if x < 0x800000100000 then some 0x800000100000
  else if x < 0x800000900000 then some 0x800000900000
  else none

/-- Leases and translation of every page of [x, e) of the job's space, the lowest failing byte reported (R213, R257). -/
def State.jobLease (s : State) (t : Thread) (r w : Bool) (x e : Nat) : Nat → Chk Unit
  | 0 => .ok ()
  | n + 1 =>
    if e ≤ x then .ok ()
    else if !leased t.leases x r w then .error (0x04, BitVec.ofNat 64 x)
    else if (s.leaf? t x).isSome then s.jobLease t r w ((x / 65536 + 1) * 65536) e n
    else .error (s.noLeaf t x)

/-- Check 3 of a range [x, e): it lies in one range of R210 and, in the job's space, under leases and translation. -/
def State.rangeLease (s : State) (t : Thread) (r w : Bool) (x e n : Nat) : Chk Unit :=
  match spaceEnd x with
  | none => .error (0x04, BitVec.ofNat 64 x)
  | some z =>
    (if inWindow x then .ok () else s.jobLease t r w x (min e z) n).bind (fun _ =>
      if z < e then .error (0x04, BitVec.ofNat 64 z) else .ok ())

/-- The classes of every page of [x, e): the windows are refused (R219, R451), and so is a host range outside the
boundary filter (R412). -/
def State.rangeClass (s : State) (t : Thread) (f : BitVec 3 → Option (BitVec 7)) (x e : Nat) : Nat → Chk Unit
  | 0 => .ok ()
  | n + 1 =>
    if e ≤ x then .ok ()
    else if inWindow x then .error (0x05, BitVec.ofNat 64 x)
    else match s.leaf? t x with
      | none => .error (s.noLeaf t x)
      | some l =>
        match f l.cls with
        | some c => .error (c, BitVec.ofNat 64 x)
        | none =>
          if physOf l.pa = .host ∧ !s.hostAllowed t.part (l.pa + x % l.size) then .error (0x05, BitVec.ofNat 64 x)
          else s.rangeClass t f ((x / 65536 + 1) * 65536) e n

/-- Checks 3 and 4 of a range of `n` bytes. -/
def State.rangeCheck (s : State) (t : Thread) (r w : Bool) (f : BitVec 3 → Option (BitVec 7)) (x n : Nat) : Chk Unit :=
  (s.rangeLease t r w x (x + n) (n / 65536 + 2)).bind (fun _ => s.rangeClass t f x (x + n) (n / 65536 + 2))

/-- Merge the dirty bytes of a die copy into memory (R226). -/
def mergeDirty (m : List Host.Cell) (c : DieCopy) : List Host.Cell :=
  (List.range 64).foldl (fun m k => if c.dirty.getLsbD k then Memory.set m (c.line.toNat + k) (lineByte c.bytes k) else m) m

/-- A die copy is clean: its mask is cleared. -/
def State.cleanCopy (s : State) (d : BitVec 6) (line : BitVec 52) : State :=
  { s with caches := { s.caches with dieCopies := s.caches.dieCopies.map (fun x =>
      if x.die == d && x.line == line then { x with dirty := 0 } else x) } }

/-- Write back a die copy (R226): the home merges its dirty bytes as a masked write, and the mask is cleared; a whole line
clears its marks (R301). A poisoned line takes no part of a line, and answers the die's slice with POISON. -/
def State.writeBackDie (s : State) (d : BitVec 6) (line : BitVec 52) : State :=
  match s.dieCopyOf d line.toNat with
  | none => s
  | some c =>
    let a : Ask := .wrm false (c.dirty == ~~~0#64)
    let s := s.cleanCopy d line
    if c.dirty = 0 then s
    else if s.askPoisoned a line then s.send (.poisonMsg ⟨line, d, 31, 3, 0⟩)
    else
      let s := (s.probeStash line.toNat).transact a line d 0
      let s := { s with mem := mergeDirty s.mem c }
      if c.dirty = ~~~0#64 then s.clearMarks [⟨line.toNat, 64, 1, d, 0, 0⟩] else s

/-- Discard a die copy (R226), and the copies of it that the die's pools have recorded. -/
def State.dropDie (s : State) (d : BitVec 6) (line : BitVec 52) : State :=
  let s := { s with caches := { s.caches with dieCopies := s.caches.dieCopies.filter (fun c => !(c.die == d && c.line == line)) } }
  ((s.eachHolder d line (fun _ => none)).trimDie d line).1

/-- The die copies of a thread's die that a range holds. -/
def State.dieCopiesIn (s : State) (t : Thread) (x n : Nat) : List DieCopy :=
  s.caches.dieCopies.filter (fun c => c.die == dieOf t.hwid && s.regionHolds t x n c.line.toNat)

/-- The line's home cannot take a write-back of a die now (R22, R295), or has still to merge an earlier one. -/
def State.lineHeld (s : State) (d : BitVec 6) (line : BitVec 52) : Bool :=
  s.homeHolds none false line.toNat (s.homeOf line) || s.putbOut d line

/-- The dirty bytes of a die copy leave for their home as PUTB, and the copy is clean (R226, R293). -/
def State.sendPutb (s : State) (t : Thread) (c : DieCopy) : State :=
  (s.cleanCopy c.die c.line).send (.putb ⟨c.line, c.die, 31, 1, t.shipSeq⟩ c.dirty c.bytes)

/-- WBR and WBINVR take the modified lines of the class L1 in a range back (R257): an owned line that is written back stays
valid and is dirty no more. -/
def State.cleanOwned (s : State) (t : Thread) (x n : Nat) : State :=
  { s with caches := { s.caches with classF := s.caches.classF.map (fun c =>
      if c.die == dieOf t.hwid && c.pool == poolOf t.hwid && !c.stash && s.regionHolds t x n c.line.toNat then
        { c with dirty := false } else c) } }

/-- WBR (0), INVR (1), WBINVR (2) on a checked range (R257): the dirty bytes of the die's copies leave for their homes, INVR
and WBINVR discard the die's copies and the unrecorded copies of the lines. -/
def State.rangeOp (s : State) (rop x n : Nat) : State :=
  let t := s.th
  let cs := s.dieCopiesIn t x n
  let s := if rop = 1 then s else ((cs.filter (·.dirty != 0)).foldl (fun (s : State) c => s.sendPutb t c) s).cleanOwned t x n
  if rop = 0 then s
  else (cs.foldl (fun (s : State) c => s.dropDie c.die c.line) s).discardCopies t (fun l => s.regionHolds t x n l)

/-- An operation of the current thread that is issued and completes in one step: it takes its generation, and its future is
filled, which is an acquire when the thread observes it (R281, R335). -/
def State.opDone (s : State) (d : BitVec 6) (v : Word) : State :=
  let t := (s.th.setS d ⟨v, 0⟩)
  { s with th := { t with opGen := t.opGen + 1, unseen := if d = 0 then t.unseen else .s d :: t.unseen } }

/-- The lines of some die copies, each with the lowest address of a range [x, x + n) that lies in it. -/
def State.rangeLines (s : State) (t : Thread) (x n : Nat) (cs : List DieCopy) : List (BitVec 52 × Word) :=
  let vas := (List.range ((x + n + 63) / 64 - x / 64)).map (fun i => max x (lineOf x + 64 * i))
  cs.map (fun c => (c.line, BitVec.ofNat 64 ((vas.find? (fun va =>
    (s.leaf? t va).any (fun l => decide (c.line.toNat = lineOf (l.pa + va % l.size))))).getD x)))

/-- Bytes of a range are on their way home from the thread's die (R226). -/
def State.putbIn (s : State) (t : Thread) (x n : Nat) : Bool :=
  s.putbAny (fun y => y.1 == dieOf t.hwid && s.regionHolds t x n y.2.toNat)

/-- A range instruction of R257. It waits for the thread's own stores on their way, and one that writes back for earlier
write-backs of the die's lines. With nothing to write back to another die's home its future is filled at once, else when the
homes have merged the bytes. -/
def State.range (s : State) (rop : Nat) (d a b : BitVec 6) (sc : BitVec 3) : Out :=
  let x := s.rs a
  let n := (s.rs b).toNat
  let t := s.th
  if n = 0 then (s.opDone d 0).retire
  else
    match s.rangeCheck t true (rop != 1) (fun _ => none) x.toNat n with
    | .error e => s.failed e
    | .ok _ =>
      let cs := if rop = 1 then [] else (s.dieCopiesIn t x.toNat n).filter (·.dirty != 0)
      if !t.buf.isEmpty || (rop != 1 && s.putbIn t x.toNat n) then .next s
      else if cs.isEmpty then ((s.rangeOp rop x.toNat n).opDone d 0).retire
      else (State.startOp (s.rangeOp rop x.toNat n) (.s d) sc s.insn (.range (s.rangeLines t x.toNat n cs))).retire

/-- WBR (R257). -/
def execWbr (d a b : BitVec 6) (sc : BitVec 3) (s : State) : Out := s.range 0 d a b sc

/-- INVR (R257). -/
def execInvr (d a b : BitVec 6) (sc : BitVec 3) (s : State) : Out := s.range 1 d a b sc

/-- WBINVR (R257). -/
def execWbinvr (d a b : BitVec 6) (sc : BitVec 3) (s : State) : Out := s.range 2 d a b sc

/-- The lines of an operation whose bytes are on their way home. -/
def OpKind.lines : OpKind → List (BitVec 52 × Word)
  | .range ls => ls
  | _ => []

/-- The operations of a die's threads that wait for a line's bytes to be merged. -/
def State.rangesOn (s : State) (d : BitVec 6) (l : BitVec 52) : List (Thread × Op) :=
  (s.threads.filter (fun t => dieOf t.hwid == d)).flatMap (fun t =>
    (t.ops.filter (fun o => o.kind.lines.any (fun x => x.1 == l))).map (fun o => (t, o)))

/-- A line's bytes have been merged at its home: the range instructions that waited for it go on, or are filled (R257). -/
def State.merged (s : State) (d : BitVec 6) (l : BitVec 52) : State :=
  if s.putbOut d l then s
  else (s.rangesOn d l).foldl (fun (s : State) x =>
    let ls := x.2.kind.lines.filter (fun y => y.1 != l)
    if ls.isEmpty then s.fillWord x.1.hwid x.2.gen 0 else s.putOp x.1.hwid { x.2 with kind := .range ls }) s

/-- The write-back of a line of a range instruction meets a line in state P: POISON is fatal to it (R301). -/
def State.rangePoisoned (s : State) (d : BitVec 6) (l : BitVec 52) : State :=
  match s.rangesOn d l with
  | [] => s
  | (t, o) :: _ =>
    match o.kind.lines.find? (fun y => y.1 == l) with
    | none => s
    | some y => (s.consumed 0x07 l.toNat t.asid t.hwid).endFault t ⟨0x07, y.2, false, 0, o.tpc, o.insn, o.repleft⟩

/-- The line a PREF asks for (R260): of a readable page in the job's space that the boundary filter admits. -/
def State.prefLine (s : State) (x : Nat) : Option Leaf :=
  if x < 0x800000000000 ∧ leased s.th.leases x true false then
    (s.leaf? s.th x).filter (fun l => !(physOf l.pa == .host && !s.hostAllowed s.th.part (l.pa + x % l.size)))
  else none

/-- PREF (R260) of a line: into the pool's L1 as an unrecorded copy (a request to the home, or a fill from the die's copy of an
SWM line, R225), or into the die's L2, which keeps copies of SWM and SEALED lines only. A home that is busy or asleep gives
nothing. -/
def State.prefetch (s : State) (l : Leaf) (x : Nat) (l2 : Bool) : State :=
  let t := s.th
  let ag := t.agent
  let p := placeOf l ag.die x 1 2
  let line := lineOf p.key
  if p.onDieCopy ag.die then
    if ((s.dieCopyOf ag.die line).isNone && (s.homeHolds none false line p.home || s.copyLeft ag p)) || s.caches.poison.contains (BitVec.ofNat 52 line) then s
    else
      let s := s.fetchDieCopy ag.die line
      if l2 || s.poolServes ag line 2 false then s else s.touchDie ag line 2 false
  else if l.cls = 3 then if l2 && !s.homeHolds none false line p.home then s.replicate ag.die line else s
  else if p.tracked ag.die then
    if l2 || !ag.l1 || s.poolServes ag line 2 false then s
    else s.send (.geti ⟨BitVec.ofNat 52 line, ag.die, ag.pool, 2, t.shipSeq⟩)
  else s

/-- PREF (R260): it never waits and never faults. -/
def execPref (a b : BitVec 6) (s : State) : Out :=
  let x := (s.rs a).toNat
  match s.prefLine x with
  | some l => (s.prefetch l x ((s.rs b).getLsbD 0)).retire
  | none => s.retire

/-- The first entry of a pool's stash map that meets a stash range or a global range (R220). -/
def State.mapClash (s : State) (t : Thread) (o n g : Nat) : Bool :=
  s.caches.stashMaps.any (fun m => m.die == dieOf t.hwid && m.pool == poolOf t.hwid &&
    ((decide (o < m.off.toNat + m.len.toNat) && decide (m.off.toNat < o + n))
      || (decide (g < m.base.toNat + m.len.toNat) && decide (m.base.toNat < g + n))))

/-- The mapped lines of a pool that satisfy a condition on their offset. -/
def State.mappedLines (s : State) (t : Thread) (f : Nat → Bool) : List StashLine :=
  s.caches.stashLines.filter (fun r => r.die == dieOf t.hwid && r.pool == poolOf t.hwid && f r.off.toNat)

/-- Remove the entry of a stash offset: Dirty lines are written back, lines keep their data (R220). -/
def State.unmap (s : State) (t : Thread) (o : Nat) : State :=
  match s.caches.stashMaps.find? (fun m => m.die == dieOf t.hwid && m.pool == poolOf t.hwid && m.off.toNat == o) with
  | none => s
  | some m =>
    let ls := s.mappedLines t (fun x => decide (o ≤ x) && decide (x < o + m.len.toNat))
    let s := ls.foldl (fun (s : State) r => s.stashLeave r) s
    { s with caches := { s.caches with stashMaps := s.caches.stashMaps.filter (fun x =>
        !(x.die == m.die && x.pool == m.pool && x.off == m.off)) } }

/-- A Dirty line among some mapped lines stands for a global line whose home cannot take it now. -/
def State.flushHeld (s : State) (ls : List StashLine) : List (BitVec 52) :=
  (ls.filterMap (fun r => if r.dirty then (s.stashGlobal r.die r.pool r.off.toNat).map (BitVec.ofNat 52) else none)).filter
    (fun l => s.homeHolds none false l.toNat (s.homeOf l))

/-- STASHMAP (R258). Bits [31:20] of s[b] that are not zero raise PERM before every other check: the rule gives no cause
(DESIGN CHOICE, log entry 99). -/
def execStashmap (d a b : BitVec 6) (s : State) : Out :=
  let t := s.th
  let g := (s.rs a).toNat
  let o := ((s.rs b).extractLsb' 0 20).toNat
  let n := ((s.rs b).extractLsb' 32 32).toNat
  let own := (s.caches.stashMaps.filter (fun m => m.die == dieOf t.hwid && m.pool == poolOf t.hwid)).length
  if (s.rs b).extractLsb' 20 12 ≠ 0 then s.trap 0x05 (s.rs a)
  else if !t.buf.isEmpty then .next s
  else if n = 0 then
    let held := s.flushHeld (s.mappedLines t (fun x => decide (s.stashMapOf (dieOf t.hwid) (poolOf t.hwid) x = s.stashMapOf (dieOf t.hwid) (poolOf t.hwid) o)))
    if held.isEmpty then ((s.unmap t o).opDone d 0).retire
    else .next (held.foldl (fun (s : State) l => s.rouse (s.homeOf l)) s)
  else if g % 64 ≠ 0 ∨ o % 64 ≠ 0 ∨ n % 64 ≠ 0 ∨ poolB t.poolb1 < o + n ∨ s.mapClash t o n g ∨ 32 ≤ own then
    s.trap 0x05 (s.rs a)
  else
    match s.rangeCheck t true true (fun c => if c = 0 then none else some 0x05) g n with
    | .error e => s.failed e
    | .ok _ =>
      let s := s.zeroBytes (stashKey (dieOf t.hwid) (poolOf t.hwid) o) n
      let m : StashMap := ⟨dieOf t.hwid, poolOf t.hwid, BitVec.ofNat 20 o, BitVec.ofNat 64 g, BitVec.ofNat 32 n, t.asid⟩
      (State.opDone { s with caches := { s.caches with stashMaps := m :: s.caches.stashMaps } } d 0).retire

/-- Write a Dirty mapped line back and leave it Clean (R220), in the pool's class filter too (R292). -/
def State.stashClean (s : State) (r : StashLine) : State :=
  let s := match s.stashGlobal r.die r.pool r.off.toNat with
    | some g => s.eachHolder r.die (BitVec.ofNat 52 g) (fun c => if c.pool = r.pool ∧ c.stash then some { c with dirty := false } else some c)
    | none => s
  let s := (s.stashWriteBack r).dropStashLine r
  { s with caches := { s.caches with stashLines := { r with dirty := false } :: s.caches.stashLines } }

/-- STASHFLUSH (R259): its fill is an acquire of the global lines written back. A length of 0 covers no line. -/
def execStashflush (d a b : BitVec 6) (_sc : BitVec 3) (s : State) : Out :=
  let t := s.th
  let x := (s.rs a).toNat
  let n := (s.rs b).toNat
  if x < 0x800000000000 ∨ 0x800000000000 + poolB t.poolb1 < x + n then s.trap 0x05 (s.rs a)
  else
    let o := x - 0x800000000000
    let ls := (s.mappedLines t (fun l => decide (0 < n) && decide (o < l + 64) && decide (l < o + n))).filter (·.dirty)
    let held := s.flushHeld ls
    if !t.buf.isEmpty || !held.isEmpty then .next (held.foldl (fun (s : State) l => s.rouse (s.homeOf l)) s)
    else ((ls.foldl (fun (s : State) r => s.stashClean r) s).opDone d 0).retire

/-- Write zero to the lines of some places (R260): full-line owned writes, each performed at its home, so that a die's copy
is written back at once. -/
def State.zeroLines (s : State) (t : Thread) : List Place → State
  | [] => s
  | p :: r =>
    let s := s.perform t [(p, List.replicate 64 0)]
    (if p.onDieCopy (dieOf t.hwid) then s.writeBackDie (dieOf t.hwid) (BitVec.ofNat 52 p.key) else s).zeroLines t r

/-- The lines of [x, x + 64 n) as places. -/
def State.linePlaces (s : State) (t : Thread) (x n : Nat) : List Place :=
  (List.range n).filterMap (fun i => (s.leaf? t (x + 64 * i)).map (fun l => placeOf l (dieOf t.hwid) (x + 64 * i) 64 0))

/-- LINEZ (R260). -/
def execLinez (d a b : BitVec 6) (s : State) : Out :=
  let x := s.rs a
  let n := (s.rs b).toNat
  if x.toNat % 64 ≠ 0 then s.trap 0x03 x
  else if n % 64 ≠ 0 then s.trap 0x03 (s.rs b)
  else if n = 0 then (s.opDone d 0).retire
  else
    match s.rangeCheck s.th false true (Acc.refusal .linez) x.toNat n with
    | .error e => s.failed e
    | .ok _ =>
      let ps := s.linePlaces s.th x.toNat (n / 64)
      let w := s.th.storer.who
      let ls := ps.map (fun p => (p.key, p.home))
      if !s.th.buf.isEmpty then .next s
      else if s.linesHeld w ls || ps.any (fun p => s.putbOut (dieOf s.th.hwid) (BitVec.ofNat 52 p.key)) then
        .next (s.linesQueue w ls (fun l => .geto ⟨BitVec.ofNat 52 l, dieOf s.th.hwid, poolOf s.th.hwid, 0, 0⟩ true))
      else (State.opDone ((s.takeTurn w (ls.map (·.1))).zeroLines s.th ps) d 0).retire

-- Synchronisation.

/-- CORE accesses of a thread are not yet performed: its stores, appends and seals, the write-backs of its range
instructions. -/
def State.coreOut (s : State) (t : Thread) : Bool :=
  s.coveredOut t none || t.ops.any (fun o => match o.kind with
    | .append _ _ _ | .sealOp _ _ _ | .range _ => true
    | _ => false)

/-- FENCE (R261): every earlier CORE-path access is performed; the unrecorded copies go. -/
def execFence (_sc : BitVec 3) (s : State) : Out :=
  if s.coreOut s.th then .next s else (s.discardCopies s.th (fun _ => true)).retire

/-- A thread's bell writes are not yet performed at a scope (R282): the beat waits, or a mirror of the scope's instance has
not applied it. -/
def State.bellOut (s : State) (h : BitVec 17) (scope : BitVec 3) : Bool :=
  s.bellPending h || (decide (4 ≤ scope.toNat) && s.queues.mirrorQ.any (fun w => w.beat.hwid == h))

/-- FENCEX (R261, R279): a first path CORE waits for the thread's accesses, a first path BELL until its bell writes are
performed at the scope. Shipped accesses resolve before a thread leaves shadow, and engine accesses not yet sent are not
ordered. -/
def execFencex (p _q sc : BitVec 3) (s : State) : Out :=
  if p = 0 ∧ s.coreOut s.th ∨ p = 5 ∧ s.bellOut s.th.hwid sc then .next s else s.retire

/-- ACQ (R262). -/
def execAcq (d a : BitVec 6) (_sc : BitVec 3) (s : State) : Out :=
  if a = 0 then ((s.acquireOn s.th none).ws d 0).retire
  else
    let x := s.rs a
    s.load x 8 8 .acquire 0 (fun s bs => (s.acquireOn s.th (some x)).ws d (BitVec.ofNat 64 (natOfBytes bs)))

/-- REL (R263): when the stores it covers are performed, the object is written. -/
def execRel (a b : BitVec 6) (_sc : BitVec 3) (s : State) : Out :=
  if s.coveredOut s.th (some (s.rs a)) then .next s
  else s.store (s.rs a) 8 8 .release 0 (bytesOfNat 8 (s.rs b).toNat) id

/-- The region a descriptor gives: base and count (R264). -/
def regionOf (x : Word) : BitVec 48 × BitVec 16 := (x.extractLsb' 0 48 &&& 0xFFFFFFFFFE00, x.extractLsb' 48 16)

/-- BIND (R264). -/
def execBindRegion (a b : BitVec 6) (s : State) : Out :=
  let t := s.th
  let o := s.rs a
  let r := regionOf (s.rs b)
  let rest := t.bindings.filter (fun x => !(x.obj == o && x.base == r.1))
  if (s.rs b).extractLsb' 0 9 ≠ 0 then s.trap 0x03 (s.rs b)
  else if r.2 = 0 then s.trap 0x05 o
  else if 8 ≤ rest.length then s.trap 0x05 o
  else State.retire { s with th := { t with bindings := rest ++ [⟨o, r.1, r.2⟩] } }

/-- UNBIND (R264). -/
def execUnbindRegion (a b : BitVec 6) (_sc : BitVec 3) (s : State) : Out :=
  let t := s.th
  let o := s.rs a
  let base := (regionOf (s.rs b)).1
  State.retire { s with th := { t with bindings := t.bindings.filter (fun x => !(x.obj == o && (b == 0 || x.base == base))) } }

-- Bell.

/-- The beats a layer's queue of a partition holds (R328). -/
def State.bellQueue (s : State) (d : BitVec 6) (part : BitVec 4) : List Beat :=
  ((s.queues.bellQ.find? (fun q => q.die == d && q.part == part)).map (·.beats)).getD []

/-- Put a send queue back. -/
def State.putBellQueue (s : State) (d : BitVec 6) (part : BitVec 4) (bs : List Beat) : State :=
  { s with queues := { s.queues with bellQ := ⟨d, part, bs⟩ :: s.queues.bellQ.filter (fun q => !(q.die == d && q.part == part)) } }

/-- A send queue of 16 entries is full: the instruction waits at issue (R328). -/
def State.bellFull (s : State) : Bool := decide (16 ≤ (s.bellQueue (dieOf s.th.hwid) s.th.part).length)

/-- Enter a beat of the current thread in its send queue (R327, R328). -/
def State.sendBeat (s : State) (op : BitVec 4) (word : BitVec 17) (value : Word) (gen : OpId) : State :=
  let t := s.th
  let d := dieOf t.hwid
  (s.putBellQueue d t.part (s.bellQueue d t.part ++ [⟨op, d, word, value, t.hwid, gen, t.launchid.extractLsb' 0 28⟩])).send
    (.bellSlot (stackOf d))

/-- A bell write (R265): BST has no destination. -/
def State.bellWrite (s : State) (op : BitVec 4) (acc : Acc) (dst : Option (BitVec 6)) (a b : BitVec 6) : Out :=
  let t := s.th
  match s.checkAccess t (s.rs a) 8 8 acc 0 with
  | .error e => s.failed e
  | .ok ps =>
    let word := BitVec.ofNat 17 ((ps.headD ⟨0, 0, 0, 0, 0, 0⟩).key % 2 ^ 20 / 8)
    if !s.ownsBellSlot (dieOf t.hwid) t.part then s.trap 0x05 (s.rs a)
    else if s.bellFull then .next s
    else
      match dst with
      | none => (s.sendBeat op word (s.rs b) 0).retire
      | some d => ((s.sendBeat op word (s.rs b) s.nextGen).startOp (.s d) 4 s.insn .bamo).retire

/-- BST (R265). -/
def execBst (a b : BitVec 6) (s : State) : Out := s.bellWrite 0 .bst none a b

/-- BAMO.ADD (R265). -/
def execBamoAdd (d a b : BitVec 6) (s : State) : Out := s.bellWrite 1 .bamo (some d) a b

/-- BAMO.MAX (R265). -/
def execBamoMax (d a b : BitVec 6) (s : State) : Out := s.bellWrite 2 .bamo (some d) a b

/-- BAMO.OR (R265). -/
def execBamoOr (d a b : BitVec 6) (s : State) : Out := s.bellWrite 3 .bamo (some d) a b

/-- BAMO.SWAP (R265). -/
def execBamoSwap (d a b : BitVec 6) (s : State) : Out := s.bellWrite 4 .bamo (some d) a b

end Sys2Proof.Machine
end

