-- ==== Sys2Proof/Machine/Tile.lean ====
section
/-! DEFINITION. Tile registers and the MAT instructions on them (R184 to R203), as functions of a thread's tiles, whether
its own or guest tile slots; and the matrix sums (R100 to R104). -/

namespace Sys2Proof.Machine

/-- A tile with its TC register (R184, R185). -/
structure Tile where
  tc : Word
  data : BitVec 32768
  scale : BitVec 1024
  deriving DecidableEq, Repr

/-- TC.ROWS. -/
def tcRows (w : Word) : Nat := (w.extractLsb' 0 6).toNat

/-- TC.COLS. -/
def tcCols (w : Word) : Nat := (w.extractLsb' 8 8).toNat

/-- TC.FMT. -/
def tcFmt (w : Word) : BitVec 4 := w.extractLsb' 16 4

/-- TC.MX. -/
def tcMx (w : Word) : Bool := w.getLsbD 20

/-- The container width of a tile format (R186), 0 for a format that tiles do not take. -/
def tileCont (f : BitVec 4) : Nat :=
  match f.toNat with
  | 0 => 64
  | 1 | 9 => 32
  | 2 | 3 => 16
  | 4 | 5 | 6 | 7 | 8 | 14 => 8
  | _ => 0

/-- The bits an element takes in memory (R81, R194). -/
def tileMem (f : BitVec 4) : Nat :=
  match f.toNat with
  | 6 | 7 => 6
  | 8 => 4
  | _ => tileCont f

/-- A valid TC value (R186). -/
def tcValid (w : Word) : Bool :=
  let f := tcFmt w
  let cols := tcCols w
  w == 0 ||
    (w.extractLsb' 21 43 == 0 && w.extractLsb' 6 2 == 0 && decide (1 ≤ tcRows w) && decide (tcRows w ≤ 32)
      && tileCont f != 0 && decide (1 ≤ cols) && decide (cols * tileCont f ≤ 1024)
      && (!(f == 6 || f == 7) || cols % 4 == 0) && (!(f == 8) || cols % 2 == 0)
      && (!tcMx w || (decide (4 ≤ f.toNat) && decide (f.toNat ≤ 8) && cols % 32 == 0)))

/-- Element j of row r, as its container holds it (R184). -/
def Tile.elem (t : Tile) (r j : Nat) : Nat :=
  let c := tileCont (tcFmt t.tc)
  t.data.toNat / 2 ^ (1024 * r + c * j) % 2 ^ c

/-- Row r as a number. -/
def Tile.row (t : Tile) (r : Nat) : Nat := t.data.toNat / 2 ^ (1024 * r) % 2 ^ 1024

/-- Scale byte q of row r. -/
def Tile.scaleAt (t : Tile) (r q : Nat) : Nat := t.scale.toNat / 2 ^ (32 * r + 8 * q) % 256

/-- A row whose first `cols` containers of width c hold f 0, f 1, …; the rest of the row is kept. -/
def putCols (c cols old : Nat) (f : Nat → Nat) : Nat :=
  old / 2 ^ (c * cols) * 2 ^ (c * cols) + ((List.range cols).map (fun j => f j % 2 ^ c * 2 ^ (c * j))).sum

/-- A tile whose elements (r, j) within ROWS × COLS are replaced. -/
def Tile.setElems (t : Tile) (f : Nat → Nat → Nat) : Tile :=
  let c := tileCont (tcFmt t.tc)
  { t with data := BitVec.ofNat 32768 (((List.range 32).map (fun r =>
      (if r < tcRows t.tc then putCols c (tcCols t.tc) (t.row r) (f r) else t.row r) * 2 ^ (1024 * r))).sum) }

/-- Every element of a tile, in row order. -/
def Tile.cells (t : Tile) : List (Nat × Nat) :=
  (List.range (tcRows t.tc)).flatMap (fun r => (List.range (tcCols t.tc)).map (fun j => (r, j)))

-- Matrix sums (R100 to R104).

/-- The value of an element in a format code (R56, R101). -/
def matVal (f : BitVec 4) (x : Nat) : Num :=
  if f = 14 then let v := intOf 8 true x; .fin (decide (v < 0)) v.natAbs 0 else (fmtOf f).num x

/-- The k-step of a format (R101). -/
def kstepOf (f : BitVec 4) : Nat :=
  match f.toNat with
  | 0 => 1
  | 1 => 4
  | 2 | 3 => 8
  | 4 | 5 | 14 => 16
  | _ => 32

/-- The k-step of a pairing (R101); 1 for F64 (R206). -/
def kstep (f g : BitVec 4) : Nat := min (kstepOf f) (kstepOf g)

/-- The format code of D for a pairing, if it is a combination of R200. -/
def matD (f g : BitVec 4) : Option (BitVec 4) :=
  let ok (x : BitVec 4) := decide (1 ≤ x.toNat ∧ x.toNat ≤ 8) || x == 14
  if f = 0 ∧ g = 0 then some 0
  else if f = 14 ∧ g = 14 then some 9
  else if ok f && ok g then some 1
  else none

/-- One product of a step, with NV where the operands or ∞ × 0 raise it (R103). -/
def matProd (x y : Num) : Num × Flags :=
  let n := x.sign != y.sign
  match x, y with
  | .nan _ _ a, .nan _ _ b => (.nan false 0 false, if a || b then fNV else 0)
  | .nan _ _ a, _ => (.nan false 0 false, if a then fNV else 0)
  | _, .nan _ _ b => (.nan false 0 false, if b then fNV else 0)
  | .inf _, .fin _ m _ => if m = 0 then (.nan false 0 false, fNV) else (.inf n, 0)
  | .fin _ m _, .inf _ => if m = 0 then (.nan false 0 false, fNV) else (.inf n, 0)
  | .inf _, .inf _ => (.inf n, 0)
  | .fin _ a e, .fin _ b f => (.fin n (a * b) (e + f), 0)

/-- The exact sum of finite terms, over the least exponent. -/
def finSum (ps : List Num) : Int × Int :=
  let e := ps.foldl (fun (a : Int) p => match p with | .fin _ _ q => min a q | _ => a) 0
  ((ps.map (fun p => match p with | .fin n m q => signed n (m * 2 ^ (q - e).toNat) | _ => 0)).sum, e)

/-- A term is −0. -/
def Num.negZero : Num → Bool
  | .fin n m _ => n && m == 0
  | _ => false

/-- The exact sum of a step's products (R101 to R103). -/
def matSum (rm : BitVec 3) (ps : List (Num × Flags)) : Num × Flags :=
  let ns := ps.map (·.1)
  let fl := ps.foldl (fun f p => f ||| p.2) 0
  if ns.any Num.isNan then (.nan false 0 false, fl)
  else if ns.contains (.inf false) && ns.contains (.inf true) then (.nan false 0 false, fl ||| fNV)
  else if ns.contains (.inf false) then (.inf false, fl)
  else if ns.contains (.inf true) then (.inf true, fl)
  else
    let s := finSum ns
    if s.1 = 0 then (.fin (ns.all Num.negZero || rm == 3) 0 s.2, fl) else (.fin (decide (s.1 < 0)) s.1.natAbs s.2, fl)

/-- A step sum times its scale product (R102); a scale of 0xFF makes it a NaN. -/
def matScale (xa xb : Nat) (v : Num) : Num :=
  if xa = 255 ∨ xb = 255 then .nan false 0 false
  else match v with
    | .fin n m e => .fin n m (e + ((xa : Int) + xb - 254))
    | x => x

/-- The NaN of a step (R103). -/
def matNan (core step : Nat) : Nat := 0x7FC00000 + core % 512 * 8192 + min step 8191

/-- The NaN that is kept when two meet: the smaller key, the accumulator's at equality (R104). -/
def keepNan (acc x : Nat) : Nat := if x % 2 ^ 22 < acc % 2 ^ 22 then x else acc

/-- An FP32 accumulator plus a value, rounded once (R101, R103, R104); `nanBits` is the NaN the value or a generated one
takes. -/
def accum (rm : BitVec 3) (nanBits acc : Nat) (v : Num) : Nat × Flags :=
  match F32.num acc, v with
  | .nan _ _ _, .nan _ _ _ => (keepNan acc nanBits, 0)
  | .nan _ _ _, _ => (acc, 0)
  | _, .nan _ _ _ => (nanBits, 0)
  | .inf a, .inf b => if a = b then (acc, 0) else (nanBits, fNV)
  | .inf _, .fin _ _ _ => (acc, 0)
  | .fin _ _ _, .inf b => (F32.infBits b, 0)
  | .fin n1 m1 e1, .fin n2 m2 e2 =>
    let s := finSum [.fin n1 m1 e1, .fin n2 m2 e2]
    if s.1 = 0 then (F32.signBit ((n1 && n2) || rm == 3), 0)
    else F32.round rm (decide (s.1 < 0)) s.1.natAbs s.2 false

/-- What one output element needs: the formats, the mode, the B-core that computes, the first k-step's index, the step,
the element values and the scales by K block (none: factor 1). -/
structure Dot where
  fa : BitVec 4
  fb : BitVec 4
  rm : BitVec 3
  core : Nat → Nat
  first : Nat
  a : Nat → Nat
  b : Nat → Nat
  sa : Option (Nat → Nat)
  sb : Option (Nat → Nat)

/-- An element of D over K indices [lo, hi), from a starting value (R100, R101, R201). -/
def Dot.run (x : Dot) (lo hi acc : Nat) : Nat × Flags :=
  match matD x.fa x.fb with
  | some 0 =>
    (List.range (hi - lo)).foldl (fun r k =>
      let d := F64.deliver x.rm false (F64.fmaNum x.rm false false (F64.num (x.a (lo + k))) (F64.num (x.b (lo + k))) (F64.num r.1))
      (d.1, r.2 ||| d.2.2)) (acc, 0)
  | some 9 =>
    (((acc : Int) + ((List.range (hi - lo)).map (fun k => intOf 8 true (x.a (lo + k)) * intOf 8 true (x.b (lo + k)))).sum) % 2 ^ 32 |>.toNat, 0)
  | _ =>
    let ks := kstep x.fa x.fb
    (List.range ((hi - lo + ks - 1) / ks)).foldl (fun r s =>
      let k0 := lo + s * ks
      let ps := (List.range (min ks (hi - k0))).map (fun i => matProd (matVal x.fa (x.a (k0 + i))) (matVal x.fb (x.b (k0 + i))))
      let t := matSum x.rm ps
      let v := match x.sa, x.sb with
        | none, none => t.1
        | ma, mb => matScale ((ma.map (· (k0 / 32))).getD 127) ((mb.map (· (k0 / 32))).getD 127) t.1
      let d := accum x.rm (matNan (x.core (x.first + s)) (x.first + s)) r.1 v
      (d.1, r.2 ||| t.2 ||| d.2)) (acc, 0)

-- Checks of R191 on TC values.

/-- The tile operands of a MAT function. -/
def matTiles (fn : Nat) (d a b : BitVec 6) : List (BitVec 6) :=
  match fn with
  | 6 => [d, a, b]
  | 7 | 8 => [d, a]
  | 9 => [a]
  | 11 | 12 => []
  | _ => [d]

/-- The reason for which a MAT instruction raises PERM, if it does (R191 to R200): `g` is an L-core thread's grant, `tc` its
view of the TCs, `x` and `y` the scalar operands. -/
def matCheck (g : Option Nat) (tc : BitVec 6 → Word) (fn : Nat) (d a b : BitVec 6) (x y : Word) : Option (BitVec 8) :=
  if (matTiles fn d a b).any (fun t => match g with | some n => decide (n ≤ t.toNat) | none => false) then some 0x01
  else match fn with
    | 0 => if tcValid x then none else some 0x02
    | 2 | 3 => if tc d = 0 then some 0x03 else none
    | 4 =>
      if tc d = 0 ∨ tcFmt (tc d) ≠ 14 ∨ tcMx (tc d) ∨ tcCols (tc d) % 32 ≠ 0 then some 0x03
      else if y.toNat < 2 ∨ 8 < y.toNat then some 0x07 else none
    | 5 => if tc d = 0 ∨ !tcMx (tc d) then some 0x03 else none
    | 6 =>
      if tc d = 0 ∨ tc a = 0 ∨ tc b = 0 then some 0x03
      else if tcRows (tc a) ≠ tcRows (tc d) ∨ tcRows (tc b) ≠ tcCols (tc d) ∨ tcCols (tc b) ≠ tcCols (tc a) then some 0x05
      else if matD (tcFmt (tc a)) (tcFmt (tc b)) ≠ some (tcFmt (tc d)) ∨ tcMx (tc d) then some 0x04 else none
    | 7 =>
      if tc d = 0 ∨ tc a = 0 ∨ tcMx (tc d) ∨ tcMx (tc a) then some 0x03
      else if tcRows (tc a) ≠ tcRows (tc d) ∨ tcCols (tc a) ≠ tcCols (tc d) then some 0x05
      else if pairOk (tcFmt (tc a)) (tcFmt (tc d)) then none else some 0x04
    | 8 => if tc a = 0 then some 0x03 else none
    | 9 => if tc a = 0 then some 0x03 else none
    | 10 => if tc d = 0 then some 0x03 else none
    | _ => none

-- Effects.

/-- What a MAT instruction leaves besides memory: written tiles, a value, flags. -/
structure MatOut where
  tiles : List (BitVec 6 × Tile)
  value : Option Slot
  flags : Flags
  deriving DecidableEq, Repr

/-- The rows of a tile in memory: their addresses, in order (R194). -/
def rowAddrs (tc : Word) (base stride : Word) : List Word :=
  (List.range (tcRows tc)).map (fun (r : Nat) => base + BitVec.ofInt 64 ((r : Int) * stride.toInt))

/-- Check accesses in order; a fault names the first byte of the lowest faulting one (R194, R238). -/
def State.checkList (s : State) (t : Thread) (acc : Acc) (n : Nat) : List Word → Chk (List (List Place))
  | [] => .ok []
  | x :: r =>
    match s.checkUnit t x n acc 0 with
    | .error e => .error (e.1, x)
    | .ok ps => (s.checkList t acc n r).map (fun l => ps :: l)

/-- How an engine reaches a place, with request type owned (R197, R301, R450): the die's copy of an SWM line off its HOME die,
else the home. -/
def Place.forEngine (p : Place) : Place := { p with rq := 0 }

/-- The bytes an engine reads at a place. -/
def State.engBytes (s : State) (ag : Agent) (args : List Word) (p : Place) : List Byte := (keysFrom p.key p.n).map (s.peek ag args p)

/-- Read the bytes of places for an engine: each line is asked for once (R296, R302). -/
def State.engRead (s : State) (ag : Agent) (args : List Word) (ps : List Place) : State × List Byte :=
  let s := s.prepareOnce ag false [] ps
  (s, ps.flatMap (s.engBytes ag args))

/-- Write the bytes of places for an engine. -/
def State.engWrite (s : State) (ag : Agent) (ws : List (Place × List Byte)) : State :=
  (ws.foldl (fun (s : State) w => s.writePlace ag w.1 w.2) s).clearMarks (ws.map (·.1))

/-- Read the accesses of one instruction in order, each as a number. -/
def State.readList (s : State) (t : Thread) (pss : List (List Place)) : State × List Nat :=
  let s := s.prepareOnce t.engine false [] pss.flatten
  (s, pss.map (fun ps => natOfBytes (ps.flatMap (s.engBytes t.engine (s.argsOf t)))))

/-- A read that a MAT instruction makes (R194, R197): the checks, the waits (it answers nothing), the values. -/
def State.matRead (s : State) (t : Thread) (acc : Acc) (n : Nat) (xs : List Word) : State × Option (Chk (List Nat)) :=
  match s.checkList t acc n xs with
  | .error e => (s, some (.error e))
  | .ok pss =>
    let pss := pss.map (fun ps => ps.map (fun p => p.forEngine))
    match s.dataCheck t.engine pss.flatten false with
    | .error e => (s, some (.error e))
    | .ok _ =>
      if pss.flatten.any (s.placeWaits t) || s.homeWaits t.engine pss.flatten false then
        (s.rouseHomes t.engine pss.flatten false, none)
      else let r := s.readList t pss; (r.1, some (.ok r.2))

/-- A row read from memory as a row of containers (R81, R194). -/
def unpackRow (f : BitVec 4) (cols : Nat) (x : Nat) (j : Nat) : Nat :=
  if j < cols then x / 2 ^ (tileMem f * j) % 2 ^ tileMem f else 0

/-- A row of a tile as memory holds it. -/
def Tile.packRow (t : Tile) (r : Nat) : Nat :=
  let m := tileMem (tcFmt t.tc)
  ((List.range (tcCols t.tc)).map (fun j => t.elem r j % 2 ^ m * 2 ^ (m * j))).sum

/-- The bytes of a row in memory. -/
def rowBytes (tc : Word) : Nat := tcCols tc * tileMem (tcFmt tc) / 8

/-- TLD (R194). -/
def State.tld (s : State) (t : Thread) (acc : Acc) (d : BitVec 6) (tl : Tile) (base stride : Word) : State × Option (Chk MatOut) :=
  if base.toNat % 16 ≠ 0 then (s, some (.error (0x03, base)))
  else if stride.toNat % 16 ≠ 0 then (s, some (.error (0x03, stride)))
  else
    let r := s.matRead t acc (rowBytes tl.tc) (rowAddrs tl.tc base stride)
    (r.1, r.2.map (fun c => c.map (fun rows =>
      ⟨[(d, tl.setElems (fun r j => unpackRow (tcFmt tl.tc) (tcCols tl.tc) (rows.getD r 0) j))], none, 0⟩)))

/-- TST (R194): rows in order. -/
def State.tst (s : State) (t : Thread) (acc : Acc) (tl : Tile) (base stride : Word) : State × Option (Chk MatOut) :=
  if base.toNat % 16 ≠ 0 then (s, some (.error (0x03, base)))
  else if stride.toNat % 16 ≠ 0 then (s, some (.error (0x03, stride)))
  else
    match s.checkList t acc (rowBytes tl.tc) (rowAddrs tl.tc base stride) with
    | .error e => (s, some (.error e))
    | .ok pss =>
      let pss := pss.map (fun ps => ps.map (fun p => p.forEngine))
      match s.dataCheck t.engine pss.flatten true with
      | .error e => (s, some (.error e))
      | .ok _ =>
        if s.homeWaits t.engine pss.flatten true then (s.rouseHomes t.engine pss.flatten true, none)
        else
          let ws := (pss.zip (List.range pss.length)).flatMap (fun p => spread p.1 (bytesOfNat (rowBytes tl.tc) (tl.packRow p.2)))
          (s.engWrite t.engine ws, some (.ok ⟨[], none, 0⟩))

/-- The element a bit-plane block gives at k planes (R83, R84), from its planes' 128-byte numbers. -/
def bpiElem (k : Nat) (planes : List Nat) (r j : Nat) : Nat :=
  ((List.range k).map (fun q => (planes.getD q 0) / 2 ^ (8 * (4 * r + j / 8) + j % 8) % 2 * 2 ^ (7 - q))).sum

/-- TLDBP (R195). -/
def State.tldbp (s : State) (t : Thread) (acc : Acc) (d : BitVec 6) (tl : Tile) (base : Word) (k : Nat) : State × Option (Chk MatOut) :=
  if base.toNat % 128 ≠ 0 then (s, some (.error (0x03, base)))
  else
    let blocks := tcCols tl.tc / 32
    let xs := (List.range blocks).flatMap (fun b => (List.range k).map (fun q => base + BitVec.ofNat 64 (1024 * b + 128 * q)))
    let r := s.matRead t acc 128 xs
    (r.1, r.2.map (fun c => c.map (fun ps =>
      ⟨[(d, tl.setElems (fun r j => bpiElem k (ps.drop (k * (j / 32))) r (j % 32)))], none, 0⟩)))

/-- TLDMX (R196): the scale bytes of a row are loaded one by one, each with the faults of LDB. -/
def State.tldmx (s : State) (t : Thread) (acc : Acc) (d : BitVec 6) (tl : Tile) (base stride : Word) : State × Option (Chk MatOut) :=
  let q := tcCols tl.tc / 32
  let r := s.matRead t acc 1 ((rowAddrs tl.tc base stride).flatMap (fun x => (List.range q).map (fun k => x + BitVec.ofNat 64 k)))
  (r.1, r.2.map (fun c => c.map (fun bytes =>
    let row (r : Nat) : Nat :=
      let old := tl.scale.toNat / 2 ^ (32 * r) % 2 ^ 32
      if r < tcRows tl.tc then old / 2 ^ (8 * q) * 2 ^ (8 * q) + ((List.range q).map (fun k => bytes.getD (q * r + k) 0 * 2 ^ (8 * k))).sum
      else old
    ⟨[(d, { tl with scale := BitVec.ofNat 1024 (((List.range 32).map (fun r => row r * 2 ^ (32 * r))).sum) })], none, 0⟩)))

/-- Rewrite every element of a tile, collecting flags. -/
def Tile.mapCells (t : Tile) (f : Nat → Nat → Nat × Flags) : Tile × Flags :=
  let vs := (List.range (tcRows t.tc)).map (fun r => (List.range (tcCols t.tc)).map (fun j => f r j))
  (t.setElems (fun r j => ((vs.getD r []).getD j (0, 0)).1), vs.flatten.foldl (fun fl x => fl ||| x.2) 0)

/-- MMA (R201), computed by a B-core. -/
def mmaTile (core : Nat) (rm : BitVec 3) (d a b : Tile) : Tile × Flags :=
  let x (i j : Nat) : Dot :=
    { fa := tcFmt a.tc, fb := tcFmt b.tc, rm, core := fun _ => core, first := 0, a := a.elem i, b := b.elem j
      sa := if tcMx a.tc then some (a.scaleAt i) else none, sb := if tcMx b.tc then some (b.scaleAt j) else none }
  d.mapCells (fun i j => (x i j).run 0 (tcCols a.tc) (d.elem i j))

/-- TCVT (R199). -/
def tcvtTile (m rm : BitVec 3) (d a : Tile) : Tile × Flags :=
  d.mapCells (fun i j =>
    let r := convert (tcFmt a.tc) (tcFmt d.tc) m rm (a.elem i j) 0
    (r.1, r.2.2))

/-- TGET's vector (R198). -/
def tgetVec (a : Tile) (y : Word) : VReg :=
  let c := tileCont (tcFmt a.tc)
  let n := 256 / c
  let r := y.toNat % 32
  let q := y.toNat / 32 % 4
  ⟨BitVec.ofNat 256 (((List.range n).map (fun k =>
    (if y.toNat ≤ 127 ∧ r < tcRows a.tc ∧ q * n + k < tcCols a.tc then a.elem r (q * n + k) else 0) * 2 ^ (c * k))).sum), 0⟩

/-- TSET's tile (R198). -/
def tsetTile (rm : BitVec 3) (d : Tile) (v : VReg) (y : Word) : Tile × Flags :=
  let f := tcFmt d.tc
  let c := tileCont f
  let n := 256 / c
  let r := y.toNat % 32
  let q := y.toNat / 32 % 4
  let x (k : Nat) : Nat × Flags := if isFpCode f then (fmtOf f).roundImg rm (v.elem c k) (v.etail c k) else (v.elem c k, 0)
  d.mapCells (fun i j =>
    if y.toNat ≤ 127 ∧ i = r ∧ q * n ≤ j ∧ j < q * n + n then x (j - q * n) else (d.elem i j, 0))

/-- The scalar operands x (a) and y (b) and the vector operand of a MAT instruction. -/
structure MatArg where
  x : Word
  y : Word
  v : VReg
  deriving DecidableEq, Repr

/-- A MAT instruction but GEOM and MMS, its checks of R191 passed: for thread `t`, on tiles `get`, at a B-core. It answers
nothing while it waits for the data of an APPEND page or at a home. -/
def State.matRun (s : State) (t : Thread) (core : Nat) (rm : BitVec 3) (enables : BitVec 5) (rd wr : Acc) (get : BitVec 6 → Tile)
    (fn : Nat) (d a b : BitVec 6) (g : MatArg) : State × Option (Chk MatOut) :=
  let fp (r : Tile × Flags) : State × Option (Chk MatOut) :=
    (s, some (if flagsTrap enables r.2 then .error (0x09, r.2.zeroExtend 64) else .ok ⟨[(d, r.1)], none, r.2⟩))
  match fn with
  | 0 => (s, some (.ok ⟨[(d, ⟨g.x, 0, 0⟩)], none, 0⟩))
  | 1 => (s, some (.ok ⟨[(d, ⟨(get d).tc, 0, 0⟩)], none, 0⟩))
  | 2 => s.tld t rd d (get d) g.x g.y
  | 3 => s.tst t wr (get d) g.x g.y
  | 4 => s.tldbp t rd d (get d) g.x g.y.toNat
  | 5 => s.tldmx t rd d (get d) g.x g.y
  | 6 => fp (mmaTile core rm (get d) (get a) (get b))
  | 7 => fp (tcvtTile (b.extractLsb' 0 3) rm (get d) (get a))
  | 8 => (s, some (.ok ⟨[(d, get a)], none, 0⟩))
  | 9 => (s, some (.ok ⟨[], some (.wide (tgetVec (get a) g.y)), 0⟩))
  | _ => fp (tsetTile rm (get d) g.v g.y)

-- Issue: at the thread's own B-core, or shipped (R187, R188).

/-- A native thread's tile. -/
def Thread.tile (t : Thread) (n : BitVec 6) : Tile :=
  ⟨t.tileTC[n.toNat]?.getD 0, t.tileData[n.toNat]?.getD 0, t.tileScale[n.toNat]?.getD 0⟩

/-- Write a native thread's tile. -/
def Thread.setTile (t : Thread) (n : BitVec 6) (x : Tile) : Thread :=
  { t with tileTC := t.tileTC.setIfInBounds n.toNat x.tc
           tileData := t.tileData.setIfInBounds n.toNat x.data
           tileScale := t.tileScale.setIfInBounds n.toNat x.scale }

/-- The operand slots of a shipped MAT instruction (R307). -/
def matSlots (fn : Nat) (g : MatArg) : List Slot :=
  match fn with
  | 0 | 12 => [.scalar ⟨g.x, 0⟩]
  | 2 | 3 | 4 | 5 => [.scalar ⟨g.x, 0⟩, .scalar ⟨g.y, 0⟩]
  | 9 => [.scalar ⟨g.y, 0⟩]
  | 10 => [.wide g.v, .scalar ⟨g.y, 0⟩]
  | _ => []

/-- The operands of a MAT instruction read from its slots. -/
def margOf (fn : Nat) (ss : List Slot) : MatArg :=
  match fn, ss with
  | 9, [.scalar y] => ⟨0, y.val, ⟨0, 0⟩⟩
  | 10, [.wide v, .scalar y] => ⟨0, y.val, v⟩
  | _, [.scalar x] => ⟨x.val, 0, ⟨0, 0⟩⟩
  | _, [.scalar x, .scalar y] => ⟨x.val, y.val, ⟨0, 0⟩⟩
  | _, _ => ⟨0, 0, ⟨0, 0⟩⟩

/-- A MAT instruction is trap-capable (R188, R314). -/
def matTrapcap (fn : Nat) (fmts : List (BitVec 4)) (enables : BitVec 5) : Bool :=
  match fn with
  | 2 | 3 | 4 | 5 | 12 => true
  | 6 | 7 | 10 => enables != 0 && fmts.any isFpCode
  | _ => false

/-- The L-core's copies of its TCs after a shipped TCFG or TMOV (R187). -/
def Thread.tcCopy (t : Thread) (fn : Nat) (d a : BitVec 6) (x : Word) : Thread :=
  match fn with
  | 0 => { t with tileTC := t.tileTC.setIfInBounds d.toNat x }
  | 8 => { t with tileTC := t.tileTC.setIfInBounds d.toNat (t.tileTC[a.toNat]?.getD 0) }
  | _ => t

/-- A MAT instruction but GEOM and MMS (R188, R191). -/
def State.mat (s : State) (fn : Nat) (d a b : BitVec 6) (dst : Dst) (g : MatArg) : Out :=
  let t := s.th
  let tc (n : BitVec 6) : Word := t.tileTC[n.toNat]?.getD 0
  match matCheck (if t.isL then some t.grant.toNat else none) tc fn d a b g.x g.y with
  | some r => s.perm r
  | none =>
    if t.isL then
      let cap := matTrapcap fn ((matTiles fn d a b).map (fun n => tcFmt (tc n))) t.enables
      let s := s.ship dst (wordA 0x33 d a b fn) cap (matSlots fn g)
      State.retire { s with th := s.th.tcCopy fn d a g.x }
    else
      match s.matRun t (bcoreOf t.hwid).toNat t.rm t.enables .engRead .engWrite t.tile fn d a b g with
      | (s, none) => .next s
      | (s, some (.error e)) => s.failed e
      | (s, some (.ok o)) =>
        let th := o.tiles.foldl (fun (t : Thread) w => t.setTile w.1 w.2) s.th
        let th := match o.value with | some v => th.fillDst dst v | none => th
        State.retire { s with th := th.orFlags o.flags }

/-- Two scalar operands. -/
def State.marg (s : State) (a b : BitVec 6) : MatArg := ⟨s.rs a, s.rs b, ⟨0, 0⟩⟩

/-- TCFG (R193). -/
def execTcfg (d a : BitVec 6) (s : State) : Out := s.mat 0 d a 0 .none ⟨s.rs a, 0, ⟨0, 0⟩⟩

/-- TZERO (R193). -/
def execTzero (d : BitVec 6) (s : State) : Out := s.mat 1 d 0 0 .none ⟨0, 0, ⟨0, 0⟩⟩

/-- TLD (R194). -/
def execTld (d a b : BitVec 6) (s : State) : Out := s.mat 2 d a b .none (s.marg a b)

/-- TST (R194). -/
def execTst (d a b : BitVec 6) (s : State) : Out := s.mat 3 d a b .none (s.marg a b)

/-- TLDBP (R195). -/
def execTldbp (d a b : BitVec 6) (s : State) : Out := s.mat 4 d a b .none (s.marg a b)

/-- TLDMX (R196). -/
def execTldmx (d a b : BitVec 6) (s : State) : Out := s.mat 5 d a b .none (s.marg a b)

/-- MMA (R200, R201). -/
def execMma (d a b : BitVec 6) (s : State) : Out := s.mat 6 d a b .none ⟨0, 0, ⟨0, 0⟩⟩

/-- TCVT (R199). -/
def execTcvt (d a : BitVec 6) (m : BitVec 3) (s : State) : Out := s.mat 7 d a (m.zeroExtend 6) .none ⟨0, 0, ⟨0, 0⟩⟩

/-- TMOV (R193). -/
def execTmov (d a : BitVec 6) (s : State) : Out := s.mat 8 d a 0 .none ⟨0, 0, ⟨0, 0⟩⟩

/-- TGET (R198). -/
def execTget (d a b : BitVec 6) (s : State) : Out := s.mat 9 d a b (.v d) ⟨0, s.rs b, ⟨0, 0⟩⟩

/-- TSET (R198). -/
def execTset (d a b : BitVec 6) (s : State) : Out := s.mat 10 d a b .none ⟨0, s.rs b, s.th.getV a⟩

-- GEOM (R203).

/-- GEOM's start, end and mask; the count is end - start modulo 2^64, also where an empty last part starts past its end. -/
def geomOut (e t p i : Nat) : Nat × Nat × Nat :=
  let t := max t 1
  let nb := (e + t - 1) / t
  let b0 := if p ≤ i then nb else i * nb / p
  let b1 := if p ≤ i then nb else (i + 1) * nb / p
  let start := b0 * t
  let stop := min (b1 * t) e
  let last := (b1 - 1) * t
  (start, stop,
    if b1 = b0 then 0 else ((List.range (min t 64)).map (fun j => if last + j < e then 2 ^ j else 0)).sum)

/-- The part count and index a selector names (R117, R203). -/
def geomPart (dim pos sel : Word) : Nat × Nat :=
  match (sel.extractLsb' 0 2).toNat with
  | 0 => ((dim.extractLsb' 32 7).toNat, (pos.extractLsb' 32 6).toNat)
  | 1 => ((dim.extractLsb' 0 16).toNat, (pos.extractLsb' 0 16).toNat)
  | 2 => ((dim.extractLsb' 16 16).toNat, (pos.extractLsb' 16 16).toNat)
  | _ => (max (sel.extractLsb' 8 16).toNat 1, (sel.extractLsb' 24 16).toNat)

/-- GEOM (R203). -/
def execGeom (d a b : BitVec 6) (s : State) : Out :=
  let x := s.rs a
  let p := geomPart s.th.geomdim s.th.geompos (s.rs b)
  let r := geomOut (x.extractLsb' 0 32).toNat (x.extractLsb' 32 16).toNat p.1 p.2
  let w (n : Nat) : Word := BitVec.ofNat 64 n
  ((((s.ws d (w r.1)).ws (d + 1) (w r.2.1)).ws (d + 2) (w r.2.1 - w r.1)).ws (d + 3) (w r.2.2)).retire

end Sys2Proof.Machine
end

