-- ==== Sys2Proof/Machine/Engine.lean ====
section
/-! DEFINITION. Memory accesses of engines (copy engines, matrix units, confluence engines, channels): checks at
acceptance, reads and writes at execution, writes of a command that was stopped early (R213, R215, R219, R450, R46). -/

namespace Sys2Proof.Machine

/-- Cut `n` bytes at a virtual address at 64 KiB boundaries. -/
def cutPages (va n : Nat) : List (Nat × Nat) :=
  (List.range ((va + n + 65535) / 65536 - va / 65536)).map (fun i =>
    let lo := max va ((va / 65536 + i) * 65536)
    (lo, min (va + n) ((va / 65536 + i + 1) * 65536) - lo))

/-- The least of some optional numbers. -/
def leastOf (xs : List (Option Nat)) : Option Nat :=
  xs.foldl (fun a x => match a, x with | some p, some q => some (min p q) | none, q => q | p, none => p) none

/-- The lowest byte of a range that leases or translation refuse to a thread, or at which it leaves the range of R210 it
started in (R210, R213). -/
def State.leaseGap (s : State) (t : Thread) (acc : Acc) (va n : Nat) : Option Nat :=
  match spaceEnd va with
  | none => some va
  | some z =>
    let gap := if inWindow va then none
      else ((cutPages va (min n (z - va))).find? (fun p =>
        !(leased t.leases p.1 acc.rights.1 acc.rights.2 && (s.leaf? t p.1).isSome))).map (·.1)
    leastOf [gap, if z < va + n then some z else none]

/-- A range is refused by class (R215) or by the windows (R219, R451). A matrix command's range in the stash window beyond B1
counts as a class refusal, PERM 0x08 (R205 and R191 give it no code of its own; DEDUCED, log entry 100). -/
def State.classBad (s : State) (t : Thread) (acc : Acc) (va n : Nat) : Bool :=
  match spaceOf va n with
  | .stash o => decide (poolB t.poolb1 < o + n)
  | .job =>
    (cutPages va n).any (fun p =>
      match s.leaf? t p.1 with
      | none => true
      | some l => (acc.refusal l.cls).isSome)
  | _ => true

/-- A byte of a range lies in host memory that the boundary filter refuses to the thread's partition (R412). -/
def State.filterRefuses (s : State) (t : Thread) (va n : Nat) : Bool :=
  match spaceOf va n with
  | .job =>
    (cutPages va n).any (fun p =>
      match s.leaf? t p.1 with
      | none => false
      | some l => physOf l.pa == .host && (List.range p.2).any (fun i => !s.hostAllowed t.part (l.pa + p.1 % l.size + i)))
  | _ => false

/-- A range is refused by class, by the windows or by the boundary filter. -/
def State.classRefused (s : State) (t : Thread) (acc : Acc) (va n : Nat) : Bool := s.classBad t acc va n || s.filterRefuses t va n

/-- Where the bytes of a range lie for an engine of an agent (R450): on the die's copy of an SWM line, or on the home line. A
page without a leaf is left out. -/
def State.engPlaces (s : State) (ag : Agent) (onCopy : Bool) (va n : Nat) : List Place :=
  match spaceOf va n with
  | .stash o => [⟨stashKey ag.die ag.pool o, n, 7, ag.die, 3, BitVec.ofNat 64 va⟩]
  | _ => (cutPages va n).filterMap (fun p =>
      (s.leafOfVa ag.die ag.pool ag.asid p.1).map (fun l =>
        let x := placeOf l ag.die p.1 p.2 3
        if onCopy then x.forEngine else x))

/-- The first page of some ranges of the job's space whose translation, by some TLBs, waits for its walker (R22). -/
def State.walkGap (s : State) (us : List TlbUnit) (a : BitVec 16) (ps : List (Nat × Nat)) : Option Nat :=
  ps.findSome? (fun p => ((cutPages p.1 p.2).find? (fun q => decide (q.1 < 0x800000000000) && s.walkWaits us a q.1)).map (·.1))

/-- As `walkGap`, for an engine of an agent. -/
def State.engWalk (s : State) (ag : Agent) (ps : List (Nat × Nat)) : Option Nat := s.walkGap [.l2 ag.die ag.pool] ag.asid ps

/-- The places of some ranges. -/
def State.engAll (s : State) (ag : Agent) (onCopy : Bool) (ps : List (Nat × Nat)) : List Place :=
  ps.flatMap (fun p => s.engPlaces ag onCopy p.1 p.2)

/-- An engine that reads some ranges and writes others waits, for a walker or at a home (R22, R295). -/
def State.engWaits (s : State) (ag : Agent) (onCopy : Bool) (rd wr : List (Nat × Nat)) : Bool :=
  let rp := s.engAll ag onCopy rd
  let wp := s.engAll ag onCopy wr
  (s.engWalk ag (rd ++ wr)).isSome
    || s.linesHeld ag.who (rp.flatMap (fun p => s.homeNeeds ag p false) ++ wp.flatMap (fun p => s.homeNeeds ag p true))
    || (rp ++ wp).any (s.copyLeft ag)

/-- An engine that waits wakes the layers it needs and takes its place at its homes. -/
def State.rouseEng (s : State) (ag : Agent) (onCopy : Bool) (rd wr : List (Nat × Nat)) : State :=
  match s.engWalk ag (rd ++ wr) with
  | some x => s.rouseWalk ag.asid x
  | none => (s.rouseHomes ag (s.engAll ag onCopy rd) false).rouseHomes ag (s.engAll ag onCopy wr) true

/-- A range whose class, as it stands, refuses an engine's access (R207, R335). -/
def State.engRefused (s : State) (ag : Agent) (acc : Acc) (va n : Nat) : Bool :=
  match spaceOf va n with
  | .stash _ => false
  | _ => (cutPages va n).any (fun p =>
      match s.leafOfVa ag.die ag.pool ag.asid p.1 with
      | none => true
      | some l => (acc.refusal l.cls).isSome)

/-- Cut a write at 32-byte sectors. -/
def cutSectors (p : Place) (bs : List Byte) : List (Place × List Byte) :=
  (List.range ((p.key + p.n + 31) / 32 - p.key / 32)).map (fun i =>
    let lo := max p.key ((p.key / 32 + i) * 32)
    let hi := min (p.key + p.n) ((p.key / 32 + i + 1) * 32)
    ({ p with key := lo, n := hi - lo, va := p.va + BitVec.ofNat 64 (lo - p.key) }, (bs.drop (lo - p.key)).take (hi - lo)))

/-- A command that was stopped early leaves any subset of the sectors it would have written, each wholly old or new (R46):
which ones is a free choice (log entry 6). -/
def State.writeSome (s : State) (ag : Agent) (ws : List (Place × List Byte)) : State :=
  let pick (k : Nat) : Bool := Config.freeBool ((s.free + 1) * 2 ^ 60 + k / 32)
  let cut := (ws.flatMap (fun w => cutSectors w.1 w.2)).filter (fun w => pick w.1.key)
  { s.engWrite ag cut with free := s.free + 1 }

/-- Replace the bytes of writes by free bytes: an undefined destination (R208, R341; log entry 6). -/
def State.freeBytes (s : State) (ws : List (Place × List Byte)) : State × List (Place × List Byte) :=
  (ws.foldl (fun (a : State × List (Place × List Byte)) w =>
    ({ a.1 with free := a.1.free + w.2.length },
      a.2 ++ [(w.1, (List.range w.2.length).map (fun i => Config.freeByte (a.1.free + i)))])) (s, []))

/-- Two places share a byte. -/
def Place.meets (p q : Place) : Bool := decide (p.key < q.key + q.n) && decide (q.key < p.key + p.n)

end Sys2Proof.Machine
end

