-- ==== Sys2Proof/Machine/Mms.lean ====
section
/-! DEFINITION. MMS, its checks, the matrix command queues and the matrix unit's events (R204 to R208, R320 to R322). -/

namespace Sys2Proof.Machine

/-- An input operand of a matrix command (R204). -/
structure MOp where
  base : Nat
  str : Nat
  fmt : BitVec 4
  planes : Nat
  mx : Bool
  sbase : Nat
  sstr : Nat
  rows : Nat
  deriving DecidableEq, Repr

/-- A base field. -/
def baseF (w : Word) : Nat := w.toNat % 2 ^ 48

/-- A stride field. -/
def strF (w : Word) : Nat := w.toNat / 2 ^ 48

/-- Word k of a command block. -/
def blkW (b : List Word) (k : Nat) : Word := b.getD k 0

/-- K, N and M of a block. -/
def blkK (b : List Word) : Nat := ((blkW b 6).extractLsb' 32 24).toNat

/-- N. -/
def blkN (b : List Word) : Nat := ((blkW b 6).extractLsb' 16 16).toNat

/-- M. -/
def blkM (b : List Word) : Nat := ((blkW b 6).extractLsb' 0 16).toNat

/-- Operand A. -/
def blkA (b : List Word) : MOp :=
  let f := blkW b 7
  ⟨baseF (blkW b 0), strF (blkW b 0), f.extractLsb' 0 4, (f.extractLsb' 8 4).toNat, f.getLsbD 16, baseF (blkW b 4), strF (blkW b 4), blkM b⟩

/-- Operand B. -/
def blkB (b : List Word) : MOp :=
  let f := blkW b 7
  ⟨baseF (blkW b 1), strF (blkW b 1), f.extractLsb' 4 4, (f.extractLsb' 12 4).toNat, f.getLsbD 17, baseF (blkW b 5), strF (blkW b 5), blkN b⟩

/-- CACC. -/
def blkCacc (b : List Word) : Bool := (blkW b 7).getLsbD 18

/-- SPLIT. -/
def blkSplit (b : List Word) : Bool := (blkW b 7).getLsbD 19

/-- The bytes of an accumulator element. -/
def blkAcc (b : List Word) : Nat := if (blkA b).fmt = 0 then 8 else 4

/-- The plane count, scale and K conditions of R205 on one operand. -/
def MOp.ok (o : MOp) (k : Nat) : Bool :=
  (o.planes == 0 || (decide (2 ≤ o.planes) && decide (o.planes ≤ 8) && o.fmt == 14))
    && (!o.mx || (decide (4 ≤ o.fmt.toNat) && decide (o.fmt.toNat ≤ 8)))
    && (!(o.mx || o.planes != 0) || k % 32 == 0)
    && (!(o.fmt == 6 || o.fmt == 7) || k % 4 == 0) && (!(o.fmt == 8) || k % 2 == 0)

/-- The field checks of R205, step 2. -/
def blkOk (b : List Word) : Bool :=
  let f := blkW b 7
  (blkW b 6).extractLsb' 56 8 == 0 && f.extractLsb' 23 41 == 0 && decide ((f.extractLsb' 20 3).toNat ≤ 6)
    && blkK b != 0 && blkN b != 0 && blkM b != 0 && (matD (blkA b).fmt (blkB b).fmt).isSome
    && (blkA b).ok (blkK b) && (blkB b).ok (blkK b)

/-- The byte ranges of an operand's elements (R204). -/
def MOp.exts (o : MOp) (k : Nat) : List (Nat × Nat) :=
  if o.planes ≠ 0 then
    (List.range ((o.rows + 31) / 32)).flatMap (fun r => (List.range (k / 32)).map (fun q =>
      (o.base + r * 16 * o.str + q * 1024, o.planes * 128)))
  else (List.range o.rows).map (fun r => (o.base + r * 16 * o.str, k * tileMem o.fmt / 8))

/-- The byte ranges of an operand's scales. -/
def MOp.scaleExts (o : MOp) (k : Nat) : List (Nat × Nat) :=
  if o.mx then (List.range o.rows).map (fun r => (o.sbase + r * o.sstr, k / 32)) else []

/-- The rows of C or D: word 2 or 3. -/
def blkRows (b : List Word) (k : Nat) : List (Nat × Nat) :=
  (List.range (blkM b)).map (fun i => (baseF (blkW b k) + i * 16 * strF (blkW b k), blkN b * blkAcc b))

/-- The ranges a command reads. -/
def blkReads (b : List Word) : List (Nat × Nat) :=
  (blkA b).exts (blkK b) ++ (blkB b).exts (blkK b) ++ (if blkCacc b then blkRows b 2 else [])
    ++ (blkA b).scaleExts (blkK b) ++ (blkB b).scaleExts (blkK b)

/-- What is wrong with a command at acceptance: a cause with its TVAL, or a PERM with a reason (R205). -/
inductive MmsBad
  | trap (c : BitVec 7) (v : Word)
  | perm (r : BitVec 8)
  deriving DecidableEq, Repr

/-- The alignments of R205, step 3: of several bases that are not aligned the first of A, B, C, D is reported (the rule names
no order; DESIGN CHOICE, log entry 101). -/
def blkMisaligned (b : List Word) : Option Nat :=
  let al (o : MOp) := if o.planes = 0 then 16 else 128
  let xs : List (Nat × Nat) := [((blkA b).base, al (blkA b)), ((blkB b).base, al (blkB b))]
    ++ (if blkCacc b then [(baseF (blkW b 2), 16)] else []) ++ [(baseF (blkW b 3), 16)]
  xs.findSome? (fun p => if p.1 % p.2 ≠ 0 then some p.1 else none)

/-- The checks of R205 on the words of a block, at an address: what is wrong, if anything is. -/
def State.blkCheck (s : State) (t : Thread) (b : List Word) : Except MmsBad Unit :=
  if !blkOk b then .error (.perm 0x06)
  else match blkMisaligned b with
    | some v => .error (.trap 0x03 (BitVec.ofNat 64 v))
    | none =>
      let gaps := (blkReads b).map (fun p => s.leaseGap t .engRead p.1 p.2)
        ++ (blkRows b 3).map (fun p => s.leaseGap t .engWrite p.1 p.2)
      match leastOf gaps with
      | some v => .error (.trap 0x04 (BitVec.ofNat 64 v))
      | none =>
        if (blkReads b).any (fun p => s.classRefused t .engRead p.1 p.2)
            ∨ (blkRows b 3).any (fun p => s.classRefused t .engWrite p.1 p.2) then .error (.perm 0x08)
        else .ok ()

/-- The checks of R205 for a command block at an address: the block's words and its address, or what is wrong; nothing while
the read of the block waits at a home, or a translation for its walker (R22). -/
def State.mmsCheck (s : State) (t : Thread) (x : Word) : State × Option (Except MmsBad (List Word)) :=
  let waits (l : List (Nat × Nat)) : Option Nat := s.walkGap t.dataTlbs t.asid l
  if x.toNat % 64 ≠ 0 then (s, some (.error (.trap 0x03 x)))
  else if (waits [(x.toNat, 64)]).isSome then (s.rouseWalk t.asid x.toNat, none)
  else match s.leaseGap t .engRead x.toNat 64 with
    | some v => (s, some (.error (.trap 0x04 (BitVec.ofNat 64 v))))
    | none =>
      if s.classRefused t .engRead x.toNat 64 then (s, some (.error (.perm 0x08)))
      else
        let ps := s.engPlaces t.engine true x.toNat 64
        if s.engWaits t.engine true [(x.toNat, 64)] [] then (s.rouseEng t.engine true [(x.toNat, 64)] [], none)
        else match s.dataCheck t.engine ps false with
        | .error e => (s, some (.error (.trap e.1 e.2)))
        | .ok _ =>
            let r := s.engRead t.engine [] ps
            let n := natOfBytes r.2
            let b := (List.range 8).map (fun k => BitVec.ofNat 64 (n / 2 ^ (64 * k)))
            match if blkOk b then waits (blkReads b ++ blkRows b 3) else none with
            | some v => (s.rouseWalk t.asid v, none)
            | none => (r.1, some ((r.1.blkCheck t b).map (fun _ => b ++ [x])))

/-- The commands in a queue, the running one apart. -/
def BCore.mcqFull (c : BCore) : Bool := decide (16 ≤ c.mcq.length)

/-- Enter an accepted command in a B-core's queue (R320). -/
def State.mcqPush (s : State) (b : BitVec 9) (e : McqEntry) : State :=
  let c := s.bcore b
  (s.putBCore b { c with mcq := c.mcq ++ [{ e with no := c.next }], next := c.next + 1 }).send (.matrixCommandStart b)

/-- A native thread's or a guest's command entry. -/
def mcqEntry (t : Thread) (gen : OpId) (seq : BitVec 16) (native : Bool) (block : List Word) (rm : BitVec 3) (enables : BitVec 5)
    (prio : BitVec 2) (now : Nat) (tpc : Word) (insn : BitVec 32) : McqEntry :=
  { hwid := t.hwid, gen, seq, native, asid := t.asid, lrec := t.lrec, block, rm, enables, prio, level := prio, no := 0, since := now
    waited := 0, ran := [], halfRan := [], half := false, sent := false, halfDone := false, overtaken := none, moved := false, dead := false, tpc, insn }

/-- MMS (R205): a native thread's command is checked here and accepted, with room in the queue; an L-core ships it. With a
trap enable set, a native thread waits for the command's end (R207). -/
def execMms (d a : BitVec 6) (s : State) : Out :=
  let t := s.th
  if t.isL then (s.ship (.s d) (wordA 0x33 d a 0 12) true [.scalar ⟨s.rs a, 0⟩]).retire
  else
    match s.mmsCheck t (s.rs a) with
    | (s, none) => .next s
    | (s, some (.error (.trap c v))) => s.failed (c, v)
    | (s, some (.error (.perm r))) => s.perm r
    | (s, some (.ok b)) =>
      let bc := bcoreOf t.hwid
      if (s.bcore bc).mcqFull then .next s
      else
        let gen := s.nextGen
        let sc := (blkW b 7).extractLsb' 20 3
        let s := (s.startOp (.s d) sc s.insn (.mms true)).mcqPush bc
          (mcqEntry t gen t.shipSeq true b t.rm t.enables t.prio s.cycle t.groupStart s.insn)
        if t.enables = 0 then s.retire
        else .next { s with th := { s.th with wait := .mms gen } }

-- The values a command writes (R206, R208).

/-- Read ranges as numbers. -/
def State.readExts (s : State) (ag : Agent) : List (Nat × Nat) → State × List Nat
  | [] => (s, [])
  | p :: r =>
    let x := s.engRead ag [] (s.engPlaces ag true p.1 p.2)
    let y := x.1.readExts ag r
    (y.1, natOfBytes x.2 :: y.2)

/-- An element of an operand from its ranges' numbers. -/
def MOp.elem (o : MOp) (k : Nat) (xs : Array Nat) (r c : Nat) : Nat :=
  if o.planes ≠ 0 then
    let x := xs.getD (r / 32 * (k / 32) + c / 32) 0
    bpiElem o.planes ((List.range o.planes).map (fun q => x / 2 ^ (1024 * q) % 2 ^ 1024)) (r % 32) (c % 32)
  else xs.getD r 0 / 2 ^ (tileMem o.fmt * c) % 2 ^ tileMem o.fmt

/-- What an element of D is (R206): the low half from C or zero, the high half of a split command from zero, combined by the
B-core `sum`. `core` and `partner` name the B-cores that computed the steps of the halves (R103). -/
def mmsElem (b : List Word) (rm : BitVec 3) (core partner : Nat → Nat) (sum : Nat) (x : Dot) (c : Nat) : Nat × Flags :=
  let k := blkK b
  let ks := kstep x.fa x.fb
  let steps := (k + ks - 1) / ks
  let kh := min ((steps + 1) / 2 * ks) k
  if !blkSplit b || kh == k then { x with core := core }.run 0 k c
  else
    let lo := { x with core := core }.run 0 kh c
    let hi := { x with core := partner, first := kh / ks }.run kh k 0
    let z : Nat × Flags :=
      match matD x.fa x.fb with
      | some 0 =>
        let d := F64.deliver rm false (F64.nanOr [F64.num lo.1, F64.num hi.1] (F64.addNum rm (F64.num lo.1) (F64.num hi.1)))
        (d.1, d.2.2)
      | some 9 => ((lo.1 + hi.1) % 2 ^ 32, 0)
      | _ =>
        match F32.num lo.1, F32.num hi.1 with
        | .nan _ _ _, .nan _ _ _ => (keepNan lo.1 hi.1, 0)
        | .nan _ _ _, _ => (lo.1, 0)
        | _, .nan _ _ _ => (hi.1, 0)
        | p, q =>
          match F32.addNum rm p q with
          | (.enc _, fl) => if fl = 0 then ((F32.deliver rm false (F32.addNum rm p q)).1, 0) else (matNan sum (steps - 1), fl)
          | r => let d := F32.deliver rm false r; (d.1, d.2.2)
    (z.1, lo.2 ||| hi.2 ||| z.2)

/-- The partner B-core of a quadrant (R206). -/
def partnerOf (b : BitVec 9) : BitVec 9 := b ^^^ 1

/-- What a command writes, its flags, whether a class refuses it by now, and a data error it meets (R207, R208). -/
structure MmsOut where
  state : State
  writes : List (Place × List Byte)
  flags : Flags
  refused : Bool
  bad : Option (BitVec 7 × Word)

/-- The agent of a command. -/
def McqEntry.agent (e : McqEntry) : Agent := ⟨dieOf e.hwid, poolOf e.hwid, e.asid, 0, false, some (.engine e.hwid)⟩

/-- The places of some ranges of a command (R450). -/
def State.mmsPlaces (s : State) (ag : Agent) (xs : List (Nat × Nat)) : List Place := s.engAll ag true xs

/-- The B-core that computed a step of an element, among those that ran the command (R103, R208): a free choice where there
are several (log entry 6). `k` tells the steps apart. -/
def ranOn (ran : List (BitVec 9)) (b : BitVec 9) (seed k : Nat) : Nat :=
  match ran with
  | [] => b.toNat
  | [x] => x.toNat
  | x :: y :: _ => if Config.freeBool (seed * 2 ^ 60 + k) then x.toNat else y.toNat

/-- A command's accesses wait, for a walker or at a home. -/
def State.mmsWaits (s : State) (e : McqEntry) : Bool := s.engWaits e.agent true (blkReads e.block) (blkRows e.block 3)

/-- Two of some places share a byte. -/
def selfMeets : List Place → Bool
  | [] => false
  | p :: r => r.any (fun q => p.meets q) || selfMeets r

/-- Run a command on a B-core (R206 to R208). D is undefined where it overlaps an operand otherwise than by being C element
for element, and where rows of D overlap one another (DESIGN CHOICE, log entry 103). -/
def State.mmsRun (s : State) (b : BitVec 9) (e : McqEntry) : MmsOut :=
  let blk := e.block
  let ag := e.agent
  let k := blkK blk
  let oa := blkA blk
  let ob := blkB blk
  let dps := s.mmsPlaces ag (blkRows blk 3)
  let cps := s.mmsPlaces ag (blkRows blk 2)
  let bad := match s.dataCheck ag (s.mmsPlaces ag (blkReads blk)) false with
    | .error x => some x
    | .ok _ => match s.dataCheck ag dps true with | .error x => some x | .ok _ => none
  let refused := (blkReads blk).any (fun p => s.engRefused ag .engRead p.1 p.2)
    || (blkRows blk 3).any (fun p => s.engRefused ag .engWrite p.1 p.2)
  let (s1, xa) := s.readExts ag (oa.exts k)
  let (s2, xb) := s1.readExts ag (ob.exts k)
  let (s3, ya) := s2.readExts ag (oa.scaleExts k)
  let (s4, yb) := s3.readExts ag (ob.scaleExts k)
  let (s5, xc) := s4.readExts ag (if blkCacc blk then blkRows blk 2 else [])
  let (va, vb, wa, wb, vc) := (xa.toArray, xb.toArray, ya.toArray, yb.toArray, xc.toArray)
  let w := 8 * blkAcc blk
  let seed := s5.free + 1
  let cell (i j : Nat) : Nat × Flags :=
    let core (ran : List (BitVec 9)) (d : BitVec 9) (q : Nat) : Nat := ranOn ran d seed (i * 2 ^ 40 + j * 2 ^ 24 + q)
    mmsElem blk e.rm (core e.ran b) (core e.halfRan (partnerOf b)) b.toNat
      { fa := oa.fmt, fb := ob.fmt, rm := e.rm, core := fun _ => b.toNat, first := 0, a := oa.elem k va i, b := ob.elem k vb j
        sa := if oa.mx then some (fun q => wa.getD i 0 / 2 ^ (8 * q) % 256) else none
        sb := if ob.mx then some (fun q => wb.getD j 0 / 2 ^ (8 * q) % 256) else none }
      (if blkCacc blk then vc.getD i 0 / 2 ^ (w * j) % 2 ^ w else 0)
  let rows := (List.range (blkM blk)).map (fun i => (List.range (blkN blk)).map (fun j => cell i j))
  let fl := rows.flatten.foldl (fun f x => f ||| x.2) 0
  let bytes (r : List (Nat × Flags)) : List Byte := r.flatMap (fun x => bytesOfNat (blkAcc blk) x.1)
  let ws := ((blkRows blk 3).zip rows).flatMap (fun p => spread (s5.engPlaces ag true p.1.1 p.1.2) (bytes p.2))
  let same := decide (dps.map (fun p => (p.key, p.n)) = cps.map (fun p => (p.key, p.n)))
  let others := s.mmsPlaces ag ((blkA blk).exts k ++ (blkB blk).exts k ++ (if same || !blkCacc blk then [] else blkRows blk 2)
    ++ (blkA blk).scaleExts k ++ (blkB blk).scaleExts k ++ [((blkW blk 8).toNat, 64)])
  let clash := selfMeets dps || dps.any (fun p => others.any (fun q => p.meets q))
  let s5 := { s5 with free := seed }
  let r := if clash then s5.freeBytes ws else (s5, ws)
  ⟨r.1, r.2, fl, refused, bad⟩

/-- The status word of a command (R207). -/
def mmsStatus (fl : Flags) (code : Nat) : Word := BitVec.ofNat 64 (fl.toNat * 256 + code)

/-- The D writes on pages that still take them. -/
def State.writable (s : State) (ag : Agent) (ws : List (Place × List Byte)) : List (Place × List Byte) :=
  ws.filter (fun w => w.1.cls == 7 || !s.engRefused ag .engWrite w.1.va.toNat 1)

/-- OR flags into a thread's FCSR at a fill (R94, R207). -/
def State.fillFlags (s : State) (h : BitVec 17) (fl : Flags) : State :=
  match s.thread? h with
  | some t => s.putThread (t.fillFlags fl)
  | none => s

/-- Restore what an undo-log entry saved. -/
def Thread.undoOne (t : Thread) (u : Undo) : Thread :=
  match u.old with
  | .s n r => { t with s := t.s.set n.toNat r n.isLt }
  | .v n r => { t with v := t.v.setIfInBounds n.toNat r }
  | .ctl n w => t.writeCtl n w
  | .tc n w => { t with tileTC := t.tileTC.setIfInBounds n.toNat w }

/-- Replay the log newest first (R316). -/
def Thread.replay (t : Thread) : Thread := t.undo.reverse.foldl (fun t u => t.undoOne u) { t with undo := [] }

/-- Fill the future of a command that ended without a trap (R207). -/
def State.mmsFill (s : State) (e : McqEntry) (fl : Flags) (code : Nat) : State :=
  match s.op? e.hwid e.gen with
  | none => s
  | some _ =>
    let s := if code = 0x13 then s else s.fillFlags e.hwid fl
    (s.fillWord e.hwid e.gen (mmsStatus fl code))

/-- A command ends (R207): its writes, then the fill, the packet that closes a trap window, or a trap. A command that ends with
CODE 0x06 and has raised an enabled flag is filled with that code and takes no FPTRAP: the rule does not say which comes first
(DESIGN CHOICE, log entry 102). A fatal POISON or CHECK inside a trap window is precise: what younger instructions wrote is
undone first (R391). -/
def State.mmsEnd (s : State) (b : BitVec 9) (e : McqEntry) : State :=
  let r := s.mmsRun b e
  let ag := e.agent
  let ws := r.state.writable ag r.writes
  match if e.dead then none else s.op? e.hwid e.gen with
  | none => r.state.writeSome ag ws
  | some (t, o) =>
    match r.bad with
    | some (c, v) =>
      let t := if e.enables ≠ 0 ∧ !e.native then t.replay else t
      (r.state.consumed c (((s.leaf? t v.toNat).map (fun l => l.pa + v.toNat % l.size)).getD 0) e.asid e.hwid).endFault t ⟨c, v, !e.native, e.seq, o.tpc, e.insn, o.repleft⟩
    | none =>
      let trap := flagsTrap e.enables r.flags
      let s := if r.refused || trap then r.state.writeSome ag ws else r.state.engWrite ag ws
      let code := if r.refused then 6 else 0
      if e.enables = 0 then s.mmsFill e r.flags code
      else if !e.native then
        s.send (.resultPacket (if trap && !r.refused then ⟨e.hwid, e.seq, 0x09, r.flags, r.flags.zeroExtend 64, none⟩
          else ⟨e.hwid, e.seq, 0, r.flags, 0, some (.scalar ⟨mmsStatus r.flags code, 0⟩)⟩))
      else
        match s.thread? e.hwid with
        | none => s
        | some t =>
          let t := { t with wait := .none }
          if trap && !r.refused then
            (s.dropOp e.hwid e.gen).deliver { t with ops := t.ops.filter (fun o => o.gen != e.gen) }
              ⟨0x09, r.flags.zeroExtend 64, false, 0, o.tpc, e.insn, o.repleft⟩
          else
            (s.putThread t.retire).mmsFill e r.flags code

-- The queue and the unit (R320 to R322).

/-- The cycles an entry has waited in all. -/
def McqEntry.waitedBy (e : McqEntry) (now : Nat) : Nat := e.waited + (now - e.since)

/-- The level of a waiting entry by its waits (R320). -/
def McqEntry.aged (e : McqEntry) (now : Nat) : BitVec 2 := BitVec.ofNat 2 (min 3 (e.prio.toNat + e.waitedBy now / 4096))

/-- The better of two waiting commands (R320): the higher level, an overtaken one before one that has never started, the
older. -/
def mcqBetter (x y : McqEntry) : Bool :=
  if x.level ≠ y.level then decide (y.level.toNat < x.level.toNat)
  else if x.overtaken.isSome != y.overtaken.isSome then x.overtaken.isSome
  else decide (x.no < y.no)

/-- The command the unit starts next, with the others. -/
def mcqPick (q : List McqEntry) : Option McqEntry :=
  q.foldl (fun best e => match best with | none => some e | some b => if mcqBetter e b then some e else some b) none

/-- An older command of the same thread has not begun yet (R208): commands of one thread begin in acceptance order, which is
that of their operations. The halves of split commands begin with their commands. -/
def State.olderCommand (s : State) (e : McqEntry) : Bool :=
  !e.half && e.ran.isEmpty && s.queues.bcores.any (fun c => c.2.mcq.any (fun x =>
    x.hwid == e.hwid && x.dead == e.dead && !x.half && x.ran.isEmpty && decide (x.gen < e.gen)))

/-- The commands of a queue that may start now. -/
def State.mcqReady (s : State) (q : List McqEntry) : List McqEntry := q.filter (fun e => !s.olderCommand e)

/-- A thread's command has begun: B-cores that hold its other commands may start them. -/
def State.mcqNudge (s : State) (h : BitVec 17) : State :=
  (s.queues.bcores.filter (fun c => c.2.running.isNone && c.2.mcq.any (fun x => x.hwid == h))).foldl
    (fun (s : State) c => s.sendOnce (.matrixCommandStart c.1)) s

/-- A B-core begins, or resumes, a command: its wait ends. -/
def McqEntry.begin (e : McqEntry) (b : BitVec 9) (now : Nat) : McqEntry :=
  { e with overtaken := none, waited := e.waitedBy now, ran := if e.ran.contains b then e.ran else e.ran ++ [b] }

/-- MATRIX_COMMAND_START (R320): a free unit starts a command; a split command sends its high half. -/
def execMatrixCommandStart (b : BitVec 9) (s : State) : Out :=
  let c := s.bcore b
  if c.running.isSome then .next s
  else match mcqPick (s.mcqReady c.mcq) with
    | none => .next s
    | some e =>
      let s := (s.putBCore b { c with mcq := c.mcq.erase e, running := some (e.begin b s.cycle) }).mcqNudge e.hwid
      .next ((if blkSplit e.block && !e.half && !e.sent then s.send (.mmsSplitHalf b) else s).send (.mmsComplete b))

/-- MCQ_AGEING (R320): waiting commands take the level of their wait. -/
def execMcqAgeing (b : BitVec 9) (s : State) : Out :=
  let c := s.bcore b
  .next (s.putBCore b { c with mcq := c.mcq.map (fun e => { e with level := e.aged s.cycle }) })

/-- MCQ_OVERTAKE (R321): a waiting level-3 command takes the unit from one of lower level, whose accumulator is parked in
slot 6, or 7 when 6 is taken; at most two are overtaken at once. -/
def execMcqOvertake (b : BitVec 9) (s : State) : Out :=
  let c := s.bcore b
  match c.running, mcqPick (s.mcqReady (c.mcq.filter (fun e => e.level == 3))) with
  | some r, some e =>
    let taken := c.mcq.filterMap (·.overtaken)
    if r.level = 3 ∨ 2 ≤ taken.length then .next s
    else
      let slot : BitVec 3 := if taken.contains 6 then 7 else 6
      let s := ((s.putBCore b { c with
        mcq := { r with overtaken := some slot, since := s.cycle } :: c.mcq.erase e
        running := some (e.begin b s.cycle) }).mcqNudge e.hwid).perfBCore b 0x0012
      .next (if blkSplit e.block && !e.half && !e.sent then s.send (.mmsSplitHalf b) else s)
  | _, _ => .next s

/-- MCQ_MIGRATE (R322): from a marked queue, a command past the threshold of its level moves to an idle B-core of the die
with an empty queue; at most once. The rule asks that the command has waited so long and that the queue is marked, not that it
was marked all the time: a command that waited while the mark was clear may be moved (DESIGN CHOICE, log entry 118). It must be
one that may start (R208). -/
def execMcqMigrate (b target : BitVec 9) (s : State) : Out :=
  let c := s.bcore b
  let u := s.bcore target
  let d : BitVec 6 := BitVec.ofNat 6 (b.toNat / 8)
  let ready (e : McqEntry) : Bool :=
    let th := (s.mcqmig d e.level).toNat
    !e.moved && th != 0 && decide (th < e.waitedBy s.cycle)
  if c.migrate ∧ b ≠ target ∧ b.toNat / 8 = target.toNat / 8 ∧ u.mcq.isEmpty ∧ u.running.isNone then
    match (s.mcqReady c.mcq).find? ready with
    | none => .next s
    | some e =>
      let s := s.putBCore b { c with mcq := c.mcq.erase e }
      let s := s.putBCore target { u with mcq := [{ e with moved := true, no := u.next }], next := u.next + 1 }
      .next (((s.perfBCore target 0x0013).perfBCore b 0x0014).send (.matrixCommandStart target))
  else .next s

/-- MMS_SPLIT_HALF (R206): the high half enters the partner's queue at its command's level; a full queue makes it wait. -/
def execMmsSplitHalf (b : BitVec 9) (s : State) : Out :=
  let c := s.bcore b
  match c.running with
  | none => .next s
  | some e =>
    let p := partnerOf b
    if !blkSplit e.block || e.half || e.sent then .next s
    else if (s.bcore p).mcqFull then .next (s.send (.mmsSplitHalf b))
    else
      let s := s.putBCore b { c with running := some { e with sent := true } }
      .next (s.mcqPush p { e with
        half := true, sent := true, prio := e.level, since := s.cycle, waited := 0, ran := [], moved := false, overtaken := none })

/-- The command of a high half learns that the half has ended, wherever it stands. -/
def State.halfEnded (s : State) (e : McqEntry) : State :=
  let mark (x : McqEntry) : McqEntry := if x.hwid == e.hwid && x.gen == e.gen && x.dead == e.dead && !x.half then { x with halfDone := true, halfRan := e.ran } else x
  { s with queues := { s.queues with bcores := s.queues.bcores.map (fun p =>
      (p.1, { p.2 with mcq := p.2.mcq.map mark, running := p.2.running.map mark })) } }

/-- A split command whose range has a high half still waits for it. -/
def McqEntry.waitsHalf (e : McqEntry) : Bool :=
  let ks := kstep (blkA e.block).fmt (blkB e.block).fmt
  let k := blkK e.block
  blkSplit e.block && !e.half && !e.halfDone && decide (min (((k + ks - 1) / ks + 1) / 2 * ks) k ≠ k)

/-- The acceptance of a command that an L-core shipped with no trap enable has not closed its trap window yet (R207). -/
def State.windowOpen (s : State) (e : McqEntry) : Bool :=
  !e.dead && !e.native && e.enables == 0 && (s.op? e.hwid e.gen).any (fun x => x.2.trapcap)

/-- MMS_COMPLETE (R207): the running command of a B-core ends and the unit is free for the next. -/
def execMmsComplete (b : BitVec 9) (s : State) : Out :=
  let c := s.bcore b
  match c.running with
  | none => .next s
  | some e =>
    if e.waitsHalf || s.windowOpen e then .next (s.send (.mmsComplete b))
    else if !e.half && s.mmsWaits e then
      .next ((s.rouseEng e.agent true (blkReads e.block) (blkRows e.block 3)).send (.mmsComplete b))
    else
      let s := (s.putBCore b { c with running := none }).send (.matrixCommandStart b)
      if e.half then .next (s.halfEnded e) else .next (s.mmsEnd b e)

end Sys2Proof.Machine
end

