-- ==== Sys2Proof/Machine/Wire.lean ====
section
/-! DEFINITION. The bit layouts of what travels on the module's own wires: guest packets, result packets and bell beats
(R306, R307, R308, R327). -/

namespace Sys2Proof.Machine

/-- The bytes of an operand slot (R307): 16 of a scalar one, 40 of a wide one. -/
def slotBytes : Slot → List Byte
  | .scalar r => bytesOfNat 8 r.val.toNat ++ bytesOfNat 8 r.tail.toNat
  | .wide r => bytesOfNat 32 r.val.toNat ++ bytesOfNat 8 r.tail.toNat

/-- How many bytes a slot takes. -/
def slotSize : Slot → Nat
  | .scalar _ => 16
  | .wide _ => 40

/-- PLEN of a guest packet (R306). -/
def guestPlen (p : GuestPkt) : Nat := (p.slots.map slotSize).sum

/-- Word 0 of a guest packet's header: HWID and INSN (R306). -/
def guestWord0 (p : GuestPkt) : Word := (p.hwid.zeroExtend 32) ++ p.insn

/-- Word 1 of a guest packet's header (R306). -/
def guestWord1 (p : GuestPkt) : Word :=
  0#8 ++ BitVec.ofBool p.rqv ++ p.rq ++ BitVec.ofBool p.keep ++ BitVec.ofNat 8 (guestPlen p) ++ p.prio
    ++ BitVec.ofBool p.trapcap ++ BitVec.ofBool p.shadow ++ p.enables ++ p.rm ++ p.asid ++ p.seq

/-- How many flits of 32 bytes a header and `n` bytes take (R306, R308). -/
def flits (n : Nat) : Nat := (16 + n + 31) / 32

/-- Two header words and a payload as flits, zeros to the end of the last one. -/
def flitBytes (w0 w1 : Word) (bs : List Byte) : List Byte :=
  bytesOfNat 8 w0.toNat ++ bytesOfNat 8 w1.toNat ++ bs ++ List.replicate (32 * flits bs.length - 16 - bs.length) 0

/-- A guest packet as it travels (R306, R307). -/
def guestBytes (p : GuestPkt) : List Byte := flitBytes (guestWord0 p) (guestWord1 p) (p.slots.flatMap slotBytes)

/-- VKIND of a result packet (R308). -/
def resultKind : Option Slot → BitVec 2
  | none => 0
  | some (.scalar _) => 1
  | some (.wide _) => 2

/-- Word 0 of a result packet's header (R308); word 1 is its TVAL. -/
def resultWord0 (r : ResultPkt) : Word := 0#3 ++ resultKind r.value ++ r.cause ++ r.flags ++ r.seq ++ 0#14 ++ r.hwid

/-- A result packet as it travels (R308). -/
def resultBytes (r : ResultPkt) : List Byte :=
  flitBytes (resultWord0 r) (if r.cause = 0 then 0 else r.tval) (match r.value with | none => [] | some v => slotBytes v)

/-- The 128 bits of a bell beat (R327, R380). The owner a barrier beat goes by travels in the send queue's partition
context. -/
def beatBits (b : Beat) : BitVec 128 := 0#37 ++ b.die ++ b.op ++ b.word ++ b.value

end Sys2Proof.Machine
end

