-- ==== Sys2Proof/Machine/Guest.lean ====
section
/-! DEFINITION. Guest issue queues, the execution of shipped instructions, result packets, the end of a shadow and remote
traps (R305 to R316, R392, R393). -/

namespace Sys2Proof.Machine

-- Fields of a packet's instruction word.

/-- The d field. -/
def wD (w : BitVec 32) : BitVec 6 := w.extractLsb' 20 6

/-- The a field. -/
def wA (w : BitVec 32) : BitVec 6 := w.extractLsb' 14 6

/-- The b field. -/
def wB (w : BitVec 32) : BitVec 6 := w.extractLsb' 8 6

/-- The scalar function of R178 for a VF or VSFU word. -/
def vfFn (major fn : Nat) : Nat :=
  match major with
  | 0x2C => [0, 1, 2, 3, 5, 6, 7, 8].getD fn 0
  | 0x2D => [10, 11, 12, 13, 4, 22, 21].getD fn 21
  | 0x2E => [14, 15, 16, 17, 18, 19, 20, 99].getD fn 99
  | _ => 27 + fn

/-- The scalar slot k of a packet, a zero image when it has none. -/
def slotS (ss : List Slot) (k : Nat) : SReg :=
  match ss.getD k (.scalar ⟨0, 0⟩) with
  | .scalar r => r
  | .wide _ => ⟨0, 0⟩

/-- The wide slot k of a packet. -/
def slotV (ss : List Slot) (k : Nat) : VReg :=
  match ss.getD k (.wide ⟨0, 0⟩) with
  | .wide r => r
  | .scalar _ => ⟨0, 0⟩

-- Guest tiles (R187).

/-- A guest tile of a thread; zero when granted. -/
def State.guestTile (s : State) (h : BitVec 17) (n : BitVec 6) : Tile :=
  match s.queues.guestTiles.find? (fun g => g.hwid == h && g.idx.zeroExtend 6 == n) with
  | some g => ⟨g.tc, g.data, g.scale⟩
  | none => ⟨0, 0, 0⟩

/-- Write a guest tile of a thread. -/
def State.setGuestTile (s : State) (h : BitVec 17) (n : BitVec 6) (x : Tile) : State :=
  let i : BitVec 3 := n.extractLsb' 0 3
  { s with queues := { s.queues with guestTiles :=
      ⟨h, i, x.tc, x.data, x.scale⟩ :: s.queues.guestTiles.filter (fun g => !(g.hwid == h && g.idx == i)) } }

-- Execution at the host B-core.

/-- The result packet of a success. -/
def okPkt (p : GuestPkt) (fl : Flags) (v : Option Slot) : ResultPkt := ⟨p.hwid, p.seq, 0, fl, 0, v⟩

/-- The result packet of a cause. -/
def badPkt (p : GuestPkt) (c : BitVec 7) (v : Word) (fl : Flags) : ResultPkt := ⟨p.hwid, p.seq, c, fl, v, none⟩

/-- The packet of a floating-point result under the snapshot's enables (R165, R314). -/
def fpPkt (p : GuestPkt) (fl : Flags) (v : Slot) : ResultPkt :=
  if flagsTrap p.enables fl then badPkt p 0x09 (fl.zeroExtend 64) fl else okPkt p fl (some v)

/-- The mask bits of a shipped vector instruction, behind all else (log entry 11): with no mask every element
is active. -/
def maskOf (mk : BitVec 2) (ss : List Slot) : Word := if mk = 0 then ~~~0 else (slotS ss (ss.length - 1)).val

/-- A shipped floating-point instruction on the packet's operands (R307, R308). -/
def fpGuest (p : GuestPkt) : ResultPkt :=
  let w := p.insn
  let ss := p.slots ++ p.aside
  match wMajor w with
  | 0x31 =>
    let fn := wFn w % 64
    let r := fpsScalar fn (fmt2 (w.extractLsb' 6 2)) p.rm p.keep (slotS ss 0) (if fpsUnary fn then ⟨0, 0⟩ else slotS ss 1)
      (if fpsReadsD fn then slotS ss 2 else ⟨0, 0⟩)
    fpPkt p r.2 (.scalar r.1)
  | 0x32 =>
    let r := fcvtScalar (w.extractLsb' 10 4) (w.extractLsb' 6 4) (w.extractLsb' 3 3) p.rm (slotS ss 0)
    fpPkt p r.2 (.scalar r.1)
  | 0x2F =>
    let r := vcvtCompute (w.extractLsb' 7 4) (w.extractLsb' 3 4) (w.extractLsb' 0 3) p.rm (w.extractLsb' 11 1)
      (slotV ss 0) (slotV ss 1) (maskOf (w.extractLsb' 12 2) ss)
    fpPkt p r.2 (.wide r.1)
  | mj =>
    let fn := vfFn mj (wFn w % 8)
    let unary := fpsUnary fn && fn != 99
    let r := vfCompute fn (fmt2 (w.extractLsb' 3 2)) p.rm p.keep (w.extractLsb' 5 1)
      (slotV ss 0) (if unary then ⟨0, 0⟩ else slotV ss 1) (slotV ss (if unary then 1 else 2)) (maskOf (w.extractLsb' 6 2) ss)
    fpPkt p r.2 (.wide r.1)

/-- A check at a B-core fails: the result packet, or nothing while a translation waits for its walker (R22). -/
def State.guestBad (s : State) (t : Thread) (p : GuestPkt) (c : BitVec 7) (v : Word) : State × Option ResultPkt :=
  if c = walkCode then (s.rouseWalk t.asid v.toNat, none) else (s, some (badPkt p c v 0))

/-- A shipped instruction at a B-core: the state and its result, or none when the unit cannot accept it yet. -/
def State.runGuest (s : State) (b : BitVec 9) (t : Thread) (o : Op) (p : GuestPkt) : State × Option ResultPkt :=
  let w := p.insn
  if wMajor w = 0x24 then
    match s.wamo t t.engine (wFn w % 16) (slotS p.slots 0).val p.rq p.rm p.enables (fun _ => false) (wargOf p.slots) with
    | (s, none) => (s, none)
    | (s, some (.ok (v, fl))) => (s, some (okPkt p fl (some v)))
    | (s, some (.error (c, v))) => s.guestBad t p c v
  else if isMat w then
    if wFn w = 12 then
      match s.mmsCheck t (slotS p.slots 0).val with
      | (s, none) => (s, none)
      | (s, some (.error (.trap c v))) => (s, some (badPkt p c v 0))
      | (s, some (.error (.perm r))) => (s, some (badPkt p 0x05 (r.zeroExtend 64) 0))
      | (s, some (.ok blk)) =>
        if (s.bcore b).mcqFull then (s, none)
        else
          let s := s.mcqPush b (mcqEntry t o.gen p.seq false blk p.rm p.enables p.prio s.cycle o.tpc o.insn)
          (s.putOp t.hwid { o with scope := (blkW blk 7).extractLsb' 20 3 }, some (okPkt p 0 none))
    else
      match s.matRun t b.toNat p.rm p.enables .wideLoad .wideStore (s.guestTile t.hwid) (wFn w) (wD w) (wA w) (wB w)
          (margOf (wFn w) p.slots) with
      | (s, none) => (s, none)
      | (s, some (.error (c, v))) => s.guestBad t p c v
      | (s, some (.ok r)) => (r.tiles.foldl (fun (s : State) x => s.setGuestTile t.hwid x.1 x.2) s, some (okPkt p r.flags r.value))
  else (s, some (fpGuest p))

/-- A packet of a thread has not been issued yet: it waits in a guest queue or is on its way. -/
def State.packetWaits (s : State) (h : BitVec 17) (q : BitVec 16) : Bool :=
  s.queues.bcores.any (fun c => c.2.guests.any (fun e => e.pkt.hwid == h && e.pkt.seq == q))
    || s.pending.any (fun e => match e with | .guestPacket _ p => p.hwid == h && p.seq == q | _ => false)

/-- The operations of a thread older than one of its operations. -/
def Thread.olderOps (t : Thread) (gen : OpId) : List Op := t.ops.takeWhile (fun o => o.gen != gen)

/-- The word of a shipped operation. -/
def Op.word (o : Op) : Option (BitVec 32) := match o.kind with | .ship p => some p.insn | _ => none

/-- An entry may issue (R188, R313, R209): memory effects of one sender in order; tile instructions of one sender in order,
and in shadow not before it ends. -/
def State.mayIssue (s : State) (t : Thread) (o : Op) (p : GuestPkt) : Bool :=
  let older := t.olderOps o.gen
  let waits (f : BitVec 32 → Bool) : Bool :=
    older.any (fun x => match x.word with | some w => f w && s.packetWaits t.hwid x.seq | none => false)
  !(memEffect p.insn && waits memEffect) && !(isMat p.insn && (waits isMat || older.any (·.trapcap)))

/-- The operation a packet belongs to. -/
def Thread.opOfSeq (t : Thread) (q : BitVec 16) : Option Op := t.ops.find? (fun o => o.shipped && o.seq == q)

/-- Try entries in order until one issues: the entry, and its result where its sender is still there. -/
def State.tryGuests (s : State) (b : BitVec 9) : List GuestEntry → State × Option (GuestEntry × Option ResultPkt)
  | [] => (s, none)
  | e :: r =>
    match s.thread? e.pkt.hwid with
    | none => (s, some (e, none))
    | some t =>
      match t.opOfSeq e.pkt.seq with
      | none => (s, some (e, none))
      | some o =>
        if s.mayIssue t o e.pkt then
          match s.runGuest b t o e.pkt with
          | (s', some p) => (s', some (e, some p))
          | (s', none) => s'.tryGuests b r
        else s.tryGuests b r

/-- Entries by level, the highest first, each level in arrival order (R310). -/
def guestOrder (q : List GuestEntry) : List GuestEntry :=
  q.filter (·.level == 3) ++ q.filter (·.level == 2) ++ q.filter (·.level == 1) ++ q.filter (·.level == 0)

/-- GUEST_PACKET (R310): a packet enters the queue; a full queue keeps it on its way. -/
def execGuestPacket (b : BitVec 9) (p : GuestPkt) (s : State) : Out :=
  let c := s.bcore b
  if 64 ≤ c.guests.length then .next (s.send (.guestPacket b p))
  else .next ((s.putBCore b { c with guests := c.guests ++ [⟨p, p.prio, s.cycle⟩] }).send (.guestIssue b))

/-- GUEST_AGEING (R310): each complete 256 cycles of waiting raise an entry by one level. -/
def execGuestAgeing (b : BitVec 9) (s : State) : Out :=
  let c := s.bcore b
  .next (s.putBCore b { c with guests := c.guests.map (fun e =>
    { e with level := BitVec.ofNat 2 (min 3 (e.pkt.prio.toNat + (s.cycle - e.since) / 256)) }) })

/-- GUEST_ISSUE (R310): the first entry in order that its unit can accept issues; its result packet travels back. A packet
whose sender is gone is dropped. -/
def execGuestIssue (b : BitVec 9) (s : State) : Out :=
  let c := s.bcore b
  match s.tryGuests b (guestOrder c.guests) with
  | (s, none) => .next (if c.guests.isEmpty then s else s.send (.guestIssue b))
  | (s', some (e, r)) =>
    let c' := s'.bcore b
    let s' := (s'.putBCore b { c' with guests := c'.guests.erase e }).perfBCore b 0x0010
    .next (match r with | some p => s'.send (.resultPacket p) | none => s')

-- Results (R309, R315, R316).

/-- Drop the packets of a thread's operations that satisfy a condition: those queued and those on their way (R316). -/
def State.dropPackets (s : State) (h : BitVec 17) (f : BitVec 16 → Bool) : State :=
  { s with
    queues := { s.queues with bcores := s.queues.bcores.map (fun c =>
      (c.1, { c.2 with guests := c.2.guests.filter (fun e => !(e.pkt.hwid == h && f e.pkt.seq)) })) }
    pending := s.pending.filter (fun e => match e with
      | .guestPacket _ p => !(p.hwid == h && f p.seq)
      | .resultPacket r => !(r.hwid == h && f r.seq)
      | _ => true) }

/-- A remote trap of operation `o` (R316, R392): the shadow is undone and the cause delivered at the shipped instruction. The
operations that leave the outstanding count are discarded for the threads that wait for them (R339). -/
def State.remoteTrap (s : State) (t : Thread) (o : Op) (r : ResultPkt) : State :=
  let gone := (t.ops.dropWhile (fun x => x.gen != o.gen)).filter (·.shipped)
  let s := s.dropPackets t.hwid (fun q => gone.any (fun x => x.seq == q && x.gen != o.gen))
  let lost := t.ops.dropWhile (fun x => x.gen != o.gen)
  let s := lost.foldl (fun (s : State) x => s.wakeFwait t.hwid x.gen x.dst x.scope 2) s
  let u := { t.replay with
    ops := t.olderOps o.gen, held := [], heldRes := [], heldFault := none, wait := .none, pfx := none, instret := o.instret }
  (s.putThread u).deliver u ⟨r.cause, r.tval, true, o.seq, o.tpc, o.insn, o.repleft⟩

/-- A store leaves the shadow (R316): check 5, which R315 leaves to this moment, then the store (log entry 71). A fault is precise:
what the store and younger instructions wrote, as `young` logs it, is undone (R391). -/
def State.releaseStore (s : State) (h : BitVec 17) (x : HeldStore) (young : List Undo) : State :=
  match s.thread? h with
  | none => s
  | some t =>
    if t.ended then s
    else match s.dataCheck t.agent (x.writes.map (·.1)) true with
      | .error (c, v) =>
        (s.consumed c (((s.leaf? t v.toNat).map (fun l => l.pa + v.toNat % l.size)).getD 0) t.asid h).endFault
          { t with undo := young }.replay ⟨c, v, false, 0, x.tpc, x.insn, x.repleft⟩
      | .ok _ => s.storeNow t x

/-- The stores held behind a trap-capable instruction leave the shadow, in order, when it has resolved (R316). -/
def State.releaseHeld (s : State) (h : BitVec 17) (tag : BitVec 16) : State :=
  match s.thread? h with
  | none => s
  | some t =>
    let mine := t.undo.filter (fun u => u.tag == tag)
    let later := t.undo.filter (fun u => u.tag != tag)
    let t' := { t with held := t.held.filter (fun x => x.tag != tag), undo := later }
    (t.held.filter (fun x => x.tag == tag)).foldl (fun (s : State) x => s.releaseStore h x (mine.drop x.mark ++ later)) (s.putThread t')

/-- A successful result applies (R309): the fill, the flags, the end of the operation. An MMS that was accepted without a
trap enable stays outstanding and leaves the trap window (R207). -/
def State.applyResult (s : State) (t : Thread) (o : Op) (r : ResultPkt) : State :=
  let t := t.fillFlags r.flags
  let w := (o.word).getD 0
  if isMat w && wFn w == 12 && r.value.isNone then
    s.putThread { t with ops := t.ops.map (fun x =>
      if x.gen == o.gen then
        (if (match o.kind with | .ship p => p.enables == 0 | _ => true) then { x with kind := .mms false, trapcap := false } else x)
      else x) }
  else
    let s := s.putThread t
    match r.value with
    | some v => s.fillOp t.hwid o.gen v
    | none => s.dropOp t.hwid o.gen

/-- Deliver a fault held in shadow once no trap-capable instruction remains (R393). -/
def State.endShadow (s : State) (h : BitVec 17) : State :=
  match s.thread? h with
  | none => s
  | some t =>
    match t.heldFault with
    | none => s
    | some c => if t.inShadow then s else s.deliver { t with heldFault := none } c

/-- The first operation of a thread, in ship order, whose held result no unresolved older instruction keeps back. -/
def Thread.freedRes (t : Thread) : Option ResultPkt :=
  t.ops.findSome? (fun o =>
    if o.shipped && !(t.olderOps o.gen).any (·.trapcap) then t.heldRes.find? (fun r => r.seq == o.seq) else none)

/-- A result acts at its sender (R309, R316): a remote trap, or the fill; when it resolves a trap-capable instruction, the
stores held behind it leave the shadow. -/
def State.acceptResult (s : State) (t : Thread) (o : Op) (r : ResultPkt) : State :=
  if r.cause ≠ 0 then s.remoteTrap t o r
  else
    let s := s.applyResult t o r
    let still := match s.thread? r.hwid with
      | some t => t.ops.any (fun x => x.gen == o.gen && x.trapcap)
      | none => false
    if o.trapcap && !still then (s.releaseHeld r.hwid o.seq).endShadow r.hwid else s

/-- The held results that are free act, in ship order (R316); `n` bounds how many. -/
def State.takeHeld (s : State) (h : BitVec 17) : Nat → State
  | 0 => s
  | n + 1 =>
    match s.thread? h with
    | none => s
    | some t =>
      match t.freedRes with
      | none => s
      | some r =>
        match t.opOfSeq r.seq with
        | none => s
        | some o =>
          let t := { t with heldRes := t.heldRes.erase r }
          ((s.putThread t).acceptResult t o r).takeHeld h n

/-- Take in a result (R309, R316): one whose task has ended only closes its operation (R46); one behind an unresolved
trap-capable instruction is held; others act, and so do the held results that they free. -/
def State.takeResult (s : State) (r : ResultPkt) : State :=
  match s.thread? r.hwid with
  | none => s
  | some t =>
    match t.opOfSeq r.seq with
    | none => s
    | some o =>
      if t.ended then s.putThread { t with ops := t.ops.filter (fun x => x.gen != o.gen) }
      else if (t.olderOps o.gen).any (·.trapcap) then s.putThread { t with heldRes := t.heldRes ++ [r] }
      else (s.acceptResult t o r).takeHeld r.hwid t.heldRes.length

/-- RESULT_PACKET (R309): posts the event of a failed check, then acts at the sender. -/
def execResultPacket (r : ResultPkt) (s : State) : Out :=
  match s.thread? r.hwid with
  | none => .next s
  | some t =>
    let s := if r.cause = 0x07 ∨ r.cause = 0x08 then s.consumed r.cause (((s.leaf? t r.tval.toNat).map (fun l => l.pa + r.tval.toNat % l.size)).getD 0) t.asid r.hwid else s
    .next (s.takeResult r)

end Sys2Proof.Machine
end

