-- ==== Sys2Proof/Machine/Confluence.lean ====
section
/-! DEFINITION. The arithmetic of the confluence engines (R331, R368, R104). -/

namespace Sys2Proof.Machine

/-- OP of an entry. -/
def confOp (e : BitVec 16) : Nat := (e.extractLsb' 11 4).toNat

/-- FMT of an entry. -/
def confFmt (e : BitVec 16) : BitVec 4 := e.extractLsb' 7 4

/-- OFMT of an entry. -/
def confOfmt (e : BitVec 16) : BitVec 4 := e.extractLsb' 3 4

/-- The bytes of one element of a contribution (R368). -/
def confSize (e : BitVec 16) : Nat :=
  if confOp e = 7 then 128
  else if isFpCode (confFmt e) then (fmtOf (confFmt e)).w / 8
  else (intFmt (confFmt e)).1 / 8

/-- The bytes a RESCALE writes for a block (R368). -/
def confBlock (e : BitVec 16) : Nat := 1 + 4 * (fmtOf (confOfmt e)).w

/-- The bytes the result of `n` contributed bytes takes. -/
def confResultLen (e : BitVec 16) (n : Nat) : Nat := if confOp e = 7 then n / 128 * confBlock e else n

/-- Of two NaNs the one with the smaller key, as it stands (R104). -/
def keepOne (a b : Nat) : Nat := if b % 2 ^ 22 < a % 2 ^ 22 then b else a

/-- The NaN a list of encodings leaves: the one with the smallest key, quieted (R104). An engine has no accumulator: of two with
equal keys and other bits different the rule names neither, and the one whose contribution arrived first is kept (DESIGN CHOICE,
log entry 119). -/
def Fmt.keptNan (f : Fmt) (xs : List Nat) : Option Nat :=
  match xs.filter (fun x => (f.num x).isNan) with
  | [] => none
  | x :: r =>
    let y := r.foldl keepOne x
    match f.num y with
    | .nan neg fr _ => some (f.quiet neg fr)
    | _ => some y

/-- The exact sum of all contributions rounded once (R331). -/
def Fmt.confAdd (f : Fmt) (rm : BitVec 3) (xs : List Nat) : Nat × Flags :=
  let ns := xs.map f.num
  let sig := sigFlags ns
  match f.keptNan xs with
  | some x => (x, sig)
  | none =>
    let infs := ns.filter (fun n => match n with | .inf _ => true | _ => false)
    match infs with
    | i :: r => if r.any (fun x => x.sign != i.sign) then (f.canon, fNV) else (f.infBits i.sign, 0)
    | [] =>
      let z := finSum ns
      if z.1 = 0 then (f.signBit (if ns.all (fun n => n.sign) then true else if ns.any (fun n => n.sign) then rm == 3 else false), 0)
      else f.round rm (decide (z.1 < 0)) z.1.natAbs z.2 false

/-- maximumNumber and minimumNumber over all contributions (R99, R331). -/
def Fmt.confMinmax (f : Fmt) (isMax : Bool) (xs : List Nat) : Nat × Flags :=
  let nums := xs.filter (fun x => !(f.num x).isNan)
  let sig := sigFlags (xs.map f.num)
  match nums with
  | x :: r => (r.foldl (fun a b => (f.minmax isMax a b).1) x, sig)
  | [] => ((f.keptNan xs).getD 0, sig)

/-- One element of a result: the elements of the contributions, as numbers (R331, R368). -/
def confElem (e : BitVec 16) (rm : BitVec 3) (xs : List Nat) : Nat × Flags :=
  let c := confFmt e
  let (w, sg) := intFmt c
  let pick (lt : Int → Int → Bool) : Nat :=
    match xs with
    | x :: r => r.foldl (fun a b => if lt (intOf w sg a) (intOf w sg b) then b else a) x
    | [] => 0
  match confOp e with
  | 0 => (xs.sum % 2 ^ w, 0)
  | 1 => if isFpCode c then (fmtOf c).confMinmax true xs else (pick (fun a b => decide (a < b)), 0)
  | 2 => if isFpCode c then (fmtOf c).confMinmax false xs else (pick (fun a b => decide (b < a)), 0)
  | 3 => (xs.foldl (fun a b => a &&& b) (2 ^ w - 1), 0)
  | 4 => (xs.foldl (fun a b => a ||| b) 0, 0)
  | 5 => (xs.foldl (fun a b => a ^^^ b) 0, 0)
  | _ => (fmtOf c).confAdd rm xs

/-- The scale byte of a block of FP32 sums (R331). -/
def rescaleX (e : Fmt) (vs : List Num) : Nat :=
  if vs.any Num.isNan then 0xFF
  else
    let exps := vs.filterMap (fun v => match v with
      | .fin _ m q => if m = 0 then none else some (q + (Nat.log2 m : Int))
      | .inf _ => some (512 : Int)
      | _ => none)
    match exps with
    | [] => 0
    | x :: r => (max 0 (min 254 (r.foldl max x - e.emax + 127))).toNat

/-- An element of a rescaled block: v × 2^(127 − X) rounded RNE, saturating to ±maxf (R331). -/
def rescaleElem (e : Fmt) (x : Nat) (v : Num) : Nat :=
  match v with
  | .fin neg m q =>
    let r := (e.round 0 neg m (q + 127 - x) false).1
    match e.num r with
    | .inf n => e.maxf n
    | _ => r
  | .inf neg => e.maxf neg
  | .nan neg fr sig => (convNan F32 e neg fr sig).1

/-- A block of 32 sums rescaled: the E8M0 byte, then the packed elements (R331, R368). -/
def rescaleBlock (e : Fmt) (sums : List Nat) : List Byte :=
  let vs := sums.map F32.num
  let x := rescaleX e vs
  BitVec.ofNat 8 x :: bytesOfNat (4 * e.w) ((vs.zipIdx.map (fun p => rescaleElem e x p.1 * 2 ^ (e.w * p.2))).sum)

/-- The elements of `k` bytes in a byte list. -/
def chunks (k : Nat) (bs : List Byte) : List Nat :=
  (List.range (bs.length / k)).map (fun i => natOfBytes ((bs.drop (k * i)).take k))

/-- The result of a complete group of contributions of one length, and its flags (R331). -/
def confReduce (e : BitVec 16) (rm : BitVec 3) (cs : List (List Byte)) : List Byte × Flags :=
  let n := (cs.headD []).length
  if confOp e = 7 then
    let es := cs.map (chunks 4)
    let sums := (List.range (n / 128 * 32)).map (fun i => F32.confAdd rm (es.map (fun l => l.getD i 0)))
    ((List.range (n / 128)).flatMap (fun b => rescaleBlock (fmtOf (confOfmt e)) (((sums.drop (32 * b)).take 32).map (·.1))),
      sums.foldl (fun f x => f ||| x.2) 0)
  else
    let k := confSize e
    let es := cs.map (chunks k)
    let rs := (List.range (n / k)).map (fun i => confElem e rm (es.map (fun l => l.getD i 0)))
    (rs.flatMap (fun r => bytesOfNat k r.1), rs.foldl (fun f x => f ||| x.2) 0)

end Sys2Proof.Machine
end

