-- ==== Sys2Proof/Machine/Async.lean ====
section
/-! DEFINITION. Futures, copy commands, confluence contributions and event queues (R317 to R319, R323, R330, R333 to R345,
R410, R411). -/

namespace Sys2Proof.Machine

-- Futures (R337 to R340).

/-- The outstanding operation that fills a register: file 0 scalar, 1 vector. -/
def Thread.opFor (t : Thread) (file : BitVec 1) (n : BitVec 6) : Option Op :=
  t.ops.find? (fun o => if file = 0 then o.dst.hasS n else o.dst.hasV n)

/-- A destination names a register of a file: 0 scalar, 1 vector. -/
def Dst.names (d : Dst) (file : BitVec 1) (n : BitVec 6) : Bool := if file = 0 then d.hasS n else d.hasV n

/-- FTEST (R337): a test that reports 0 observes the register's last fill. -/
def execFtest (d a : BitVec 6) (f : BitVec 1) (s : State) : Out :=
  if (s.th.opFor f a).isSome then (s.ws d 1).retire
  else ((s.observe (fun x => x.names f a)).ws d 0).retire

/-- The token of an operation (R338). -/
def tokenOf (asid gen : BitVec 16) (reg : BitVec 6) (file : BitVec 1) (h : BitVec 17) : Word :=
  0#8 ++ asid ++ gen ++ reg ++ file ++ h

/-- FHANDLE (R338). -/
def execFhandle (d a : BitVec 6) (f : BitVec 1) (s : State) : Out :=
  (s.ws d (match s.th.opFor f a with
    | some o => tokenOf s.th.asid (o.gen.extractLsb' 0 16) a f s.th.hwid
    | none => 0)).retire

/-- The operation a token names, if it is outstanding (R339): of its owner's, the one with the token's generation that fills
the token's register. -/
def State.tokenOp (s : State) (x : Word) : Option (Thread × Op) :=
  match s.thread? (x.extractLsb' 0 17) with
  | none => none
  | some t =>
    (t.ops.find? (fun o => o.gen.extractLsb' 0 16 == x.extractLsb' 24 16
      && o.dst.names (x.extractLsb' 17 1) (x.extractLsb' 18 6))).map (fun o => (t, o))

/-- FWAIT (R339). -/
def execFwait (d a : BitVec 6) (s : State) : Out :=
  let t := s.th
  let x := s.rs a
  let now : Out := ((s.discardCopies t (fun _ => true)).ws d 0).retire
  if x = 0 then now
  else if x.extractLsb' 56 8 ≠ 0 ∨ x.extractLsb' 40 16 ≠ t.asid ∨ !hwidOk (x.extractLsb' 0 17) then s.trap 0x0C x
  else match s.tokenOp x with
    | some (_, o) => .next { s with th := { t with wait := .fwait d (x.extractLsb' 0 17) o.gen o.dst } }
    | none => now

/-- A fill that the thread is to observe with a cause (R254, R344): the register is written, other threads' FWAITs return 1,
and the cause waits for the observing instruction; the thread's own FWAIT on it takes the cause. -/
def State.fillRefused (s : State) (h : BitVec 17) (gen : OpId) (w : Word) (cause : BitVec 7) (tval : Word) : State :=
  match s.op? h gen with
  | none => s
  | some (t, o) =>
    if h = orphanId then s.dropOrphan gen
    else
      let own := t.waitsFor h gen o.dst
      let s := (if own then s.putThread { t with wait := .none } else s).fillWord h gen w
      match s.thread? h with
      | none => s
      | some t =>
        -- A refused append's fill gives no acquire (R254).
        let t := if cause = 0x06 then { t with unseen := t.unseen.filter (fun d => !decide (d = o.dst)) } else t
        if own then s.deliver t ⟨cause, tval, false, 0, t.groupStart, (s.fetchWord t).getD 0, t.repLeftNow⟩
        else s.putThread { t with refused := t.refused ++ [⟨gen, if o.dst = .s 0 then .none else o.dst, cause, tval⟩] }

-- Event queues (R323, R345).

/-- The records of an event queue. -/
def State.evq (s : State) (d : BitVec 6) (p : BitVec 5) (q : BitVec 3) : List EvRec :=
  ((s.queues.events.find? (fun e => e.1 == d && e.2.1 == p && e.2.2.1 == q)).map (·.2.2.2)).getD []

/-- Put an event queue back. -/
def State.putEvq (s : State) (d : BitVec 6) (p : BitVec 5) (q : BitVec 3) (rs : List EvRec) : State :=
  { s with queues := { s.queues with
      events := (d, p, q, rs) :: s.queues.events.filter (fun e => !(e.1 == d && e.2.1 == p && e.2.2.1 == q)) } }

/-- Fill the EVWAIT futures that a queue's length now satisfies (R345). -/
def State.settleEv (s : State) (d : BitVec 6) (p : BitVec 5) (q : BitVec 3) : State :=
  let k := (s.evq d p q).length
  (s.threads.filter (fun t => dieOf t.hwid == d && poolOf t.hwid == p)).foldl (fun (s : State) t =>
    t.ops.foldl (fun (s : State) o =>
      match o.kind with
      | .evwait q' n => if q' = q ∧ n ≤ k then s.fillWord t.hwid o.gen (statusOf (BitVec.ofNat 32 k) 0 0) else s
      | _ => s) s) s

/-- Append a record to an event queue of a thread's class; none when it is full. -/
def State.postEv (s : State) (h : BitVec 17) (q : BitVec 3) (r : EvRec) : Option State :=
  let rs := s.evq (dieOf h) (poolOf h) q
  if 32 ≤ rs.length then none
  else some ((s.putEvq (dieOf h) (poolOf h) q (rs ++ [r])).settleEv (dieOf h) (poolOf h) q)

/-- EVWAIT (R345). -/
def execEvwait (d a b : BitVec 6) (s : State) : Out :=
  let n := (s.rs b).toNat
  let q := (s.rs a).extractLsb' 0 3
  if (s.rs a).extractLsb' 3 61 ≠ 0 then s.perm 0x08
  else if n = 0 ∨ 32 < n then s.perm 0x02
  else ((s.startOp (.s d) 0 s.insn (.evwait q n)).settleEv (dieOf s.th.hwid) (poolOf s.th.hwid) q).retire

/-- The 16 bytes of a record (R323). -/
def EvRec.bits (r : EvRec) : BitVec 128 := 0#27 ++ r.hwid ++ r.kind ++ r.tag ++ r.status

/-- EVPOP (R345): a copy's or a contribution's record is an acquire at its scope, a post an unbound one at CLASS. -/
def execEvpop (d a : BitVec 6) (s : State) : Out :=
  let t := s.th
  let q := (s.rs a).extractLsb' 0 3
  if (s.rs a).extractLsb' 3 61 ≠ 0 then s.perm 0x08
  else
    match s.evq (dieOf t.hwid) (poolOf t.hwid) q with
    | [] => (s.wv d ⟨0, 0⟩).retire
    | r :: rest =>
      let s := s.putEvq (dieOf t.hwid) (poolOf t.hwid) q rest
      let s := if r.kind = 0 ∨ sameInstance r.scope r.hwid t.hwid then s.discardCopies t (fun _ => true) else s
      (s.wv d ⟨0#95 ++ 1#33 ++ r.bits, 0⟩).retire

/-- EVPOST (R345): it waits for the thread's earlier stores, and at issue while the queue is full. -/
def execEvpost (a b : BitVec 6) (s : State) : Out :=
  let x := s.rs a
  if x.extractLsb' 3 13 ≠ 0 ∨ x.extractLsb' 32 32 ≠ 0 then s.perm 0x01
  else
    if s.coveredOut s.th none then .next s
    else match s.postEv s.th.hwid (x.extractLsb' 0 3) ⟨s.rs b, s.th.hwid, 0, x.extractLsb' 16 16, 2⟩ with
    | none => .next s
    | some s => s.retire

-- The copy descriptor (R318).

/-- A lane. -/
def descLane (d : VReg) (k : Nat) : BitVec 32 := d.val.extractLsb' (32 * k) 32

/-- DST. -/
def descDst (d : VReg) : Word := d.val.extractLsb' 0 64

/-- SRC. -/
def descSrc (d : VReg) : Word := d.val.extractLsb' 64 64

/-- FABRIC. -/
def descFabric (d : VReg) : Bool := (descLane d 5).getLsbD 3

/-- SCOPE. -/
def descScope (d : VReg) : BitVec 3 := (descLane d 5).extractLsb' 0 3

/-- EVEN. -/
def descEven (d : VReg) : Bool := (descLane d 5).getLsbD 9

/-- EVQ. -/
def descEvq (d : VReg) : BitVec 3 := (descLane d 5).extractLsb' 6 3

/-- TAG. -/
def descTag (d : VReg) : BitVec 16 := (descLane d 5).extractLsb' 16 16

/-- The bytes of a contribution, a multicast or a plain copy. -/
def descLen (d : VReg) : Nat := (descLane d 4).toNat

/-- The table index of a contribution. -/
def descIndex (d : VReg) : BitVec 8 := (descLane d 7).extractLsb' 0 8

/-- The rows of a command: source, destination and bytes of each (R342). `fn` is 0 CPY, 1 CPY2D, 2 CPYM, 3 CPYR. -/
def copyRows (fn : BitVec 2) (d : VReg) : List (Word × Word × Nat) :=
  if fn = 1 then
    let n := ((descLane d 4).extractLsb' 0 20).toNat
    (List.range (((descLane d 4).extractLsb' 20 12).toNat + 1)).map (fun (r : Nat) =>
      (descSrc d + BitVec.ofInt 64 ((r : Int) * (descLane d 7).toInt), descDst d + BitVec.ofInt 64 ((r : Int) * (descLane d 6).toInt), n))
  else [(descSrc d, descDst d, descLen d)]

/-- The pools a CPYM names (R343). -/
def maskPools (d : VReg) : List (BitVec 5) :=
  ((List.range 24).filter (fun p => (descLane d 6).getLsbD p)).map (BitVec.ofNat 5)

/-- B1 of the launch bound on a pool of the thread's die; 0 with none (R343). -/
def State.poolB1Of (s : State) (t : Thread) (p : BitVec 5) : Nat :=
  if p = poolOf t.hwid then poolB t.poolb1
  else match s.caches.pools.find? (fun u => u.die == dieOf t.hwid && u.pool == p) with
    | some u => match s.launch? u.lrec with
      | some r => ((r.packet.headD 0).extractLsb' 22 9).toNat * 4096
      | none => 0
    | none => 0

/-- The source ranges of a command. -/
def copySrcs (fn : BitVec 2) (d : VReg) : List (Nat × Nat) :=
  ((copyRows fn d).filter (fun r => r.2.2 != 0)).map (fun r => (r.1.toNat, r.2.2))

/-- The destination ranges of a command that writes through the thread's own addresses. -/
def State.copyDsts (s : State) (fn : BitVec 2) (d : VReg) : List (Nat × Nat) :=
  if fn = 2 ∨ descFabric d then []
  else if fn = 3 then [((descDst d).toNat, confResultLen (s.confEntry (descIndex d)) (descLen d))]
  else ((copyRows fn d).filter (fun r => r.2.2 != 0)).map (fun r => (r.2.1.toNat, r.2.2))

/-- A stash range that does not lie below B1 (R219, R334). -/
def stashGap (t : Thread) (p : Nat × Nat) : Bool :=
  match spaceOf p.1 p.2 with
  | .stash o => decide (poolB t.poolb1 < o + p.2)
  | _ => false

/-- A range, stash ranges apart, that a class refuses; `filter` counts what the boundary filter refuses (R412). -/
def State.classGap (s : State) (t : Thread) (acc : Acc) (filter : Bool) (p : Nat × Nat) : Bool :=
  match spaceOf p.1 p.2 with
  | .stash _ => false
  | _ => s.classBad t acc p.1 p.2 || (filter && s.filterRefuses t p.1 p.2)

/-- What is wrong with an asynchronous command: a reason of R334, or a cause. -/
inductive AsyncBad
  | perm (r : BitVec 8)
  | trap (c : BitVec 7) (v : Word)
  deriving DecidableEq, Repr

/-- Raise what is wrong. -/
def State.asyncBad (s : State) : AsyncBad → Out
  | .perm r => s.perm r
  | .trap c v => s.trap c v

/-- Leases, classes and stash bounds of ranges read and written, in the order of R341; a translation may have to wait for its
walker (R22). -/
def State.rangesBad (s : State) (t : Thread) (filter : Bool) (rd wr : List (Nat × Nat)) : Option AsyncBad :=
  match s.walkGap t.dataTlbs t.asid (rd ++ wr) with
  | some v => some (.trap walkCode (BitVec.ofNat 64 v))
  | none =>
  match leastOf (rd.map (fun p => s.leaseGap t .engRead p.1 p.2) ++ wr.map (fun p => s.leaseGap t .engWrite p.1 p.2)) with
  | some v => some (.trap 0x04 (BitVec.ofNat 64 v))
  | none =>
    if rd.any (s.classGap t .engRead filter) ∨ wr.any (s.classGap t .engWrite filter) then some (.perm 0x03)
    else if rd.any (stashGap t) ∨ wr.any (stashGap t) then some (.perm 0x04)
    else none

/-- A reserved bit or value of a descriptor (R318, R334, R343). -/
def descReserved (fn : BitVec 2) (d : VReg) : Bool :=
  let c := descLane d 5
  c.extractLsb' 10 6 != 0 || c.extractLsb' 4 2 != 0 || c.extractLsb' 0 3 == 7
    || (fn == 2 && (descLane d 6).extractLsb' 24 8 != 0) || (fn == 3 && (descLane d 7).extractLsb' 8 8 != 0)
    || (fn.toNat ≤ 1 && descFabric d && (descDst d).extractLsb' 60 4 != 0)

/-- The lengths of a command are out of range (R343, R344). -/
def State.descRange (s : State) (fn : BitVec 2) (d : VReg) : Bool :=
  let e := s.confEntry (descIndex d)
  match fn.toNat with
  | 2 => decide (1048576 < descLen d)
  | 3 => descLen d == 0 || decide (8192 < descLen d) || (e.getLsbD 15 && descLen d % confSize e != 0)
      || (descLane d 6).toNat == 0 || decide (256 < (descLane d 6).toNat)
  | _ => false

/-- The checks of R341, step 2. -/
def State.copyBad (s : State) (fn : BitVec 2) (d : VReg) : Option AsyncBad :=
  let t := s.th
  if descReserved fn d then some (.perm 0x01)
  else if s.descRange fn d then some (.perm 0x02)
  else if 2 ≤ fn.toNat ∧ descFabric d then some (.perm 0x05)
  else if fn = 2 ∧ (maskPools d).any (fun p => s.partOf (dieOf t.hwid) p != t.part) then
    some (.trap 0x0B ((descLane d 6).zeroExtend 64))
  else match s.rangesBad t false (copySrcs fn d) (s.copyDsts fn d) with
    | some b => some b
    | none =>
      let o := (descDst d).toNat - 0x800000000000
      if fn = 2 ∧ ((descDst d).toNat < 0x800000000000 ∨ 2 ^ 20 ≤ o ∨ (maskPools d).any (fun p => decide (s.poolB1Of t p < o + descLen d))) then
        some (.perm 0x04)
      else if fn = 3 ∧ !(s.confEntry (descIndex d)).getLsbD 15 then some (.perm 0x06)
      else none

-- Copy queues (R317, R319).

/-- The entry of an operation. -/
def State.copyEntry (s : State) (h : BitVec 17) (gen : OpId) : Option CopyEntry :=
  (s.queues.copyQ.find? (fun e => e.2.hwid == h && e.2.gen == gen)).map (·.2)

/-- Put an entry back. -/
def State.putCopyEntry (s : State) (x : CopyEntry) : State :=
  { s with queues := { s.queues with copyQ := s.queues.copyQ.map (fun e =>
      if e.2.hwid == x.hwid && e.2.gen == x.gen then (e.1, x) else e) } }

/-- Free an entry. -/
def State.freeCopyEntry (s : State) (h : BitVec 17) (gen : OpId) : State :=
  { s with queues := { s.queues with copyQ := s.queues.copyQ.filter (fun e => !(e.2.hwid == h && e.2.gen == gen)) } }

/-- Both entries of a core are taken (R317). -/
def State.copyFull (s : State) (h : BitVec 17) : Bool :=
  decide (2 ≤ (s.queues.copyQ.filter (fun e => e.1 == coreOf h)).length)

/-- After the fill of a command (R319): its record is to be placed, or its entry is free. -/
def State.copyRecord (s : State) (h : BitVec 17) (gen : OpId) (status : Word) : State :=
  match s.copyEntry h gen with
  | none => s
  | some e =>
    if descEven e.desc then (s.putCopyEntry { e with status := some status }).send (.copyEventRecord h gen)
    else s.freeCopyEntry h gen

/-- A command ends (R319): the fill with its acquire, then the record. -/
def State.copyEnd (s : State) (h : BitVec 17) (gen : OpId) (status : Word) : State :=
  ((s.fillWord h gen status)).copyRecord h gen status

/-- A data check that an engine's access failed ends the task of its command (R341, R419). -/
def State.engineFault (s : State) (h : BitVec 17) (gen : OpId) (e : BitVec 7 × Word) : State :=
  match s.op? h gen with
  | none => s
  | some (t, o) =>
    let ag := t.engine
    let pa := ((s.leafOfVa ag.die ag.pool ag.asid e.2.toNat).map (fun l => l.pa + e.2.toNat % l.size)).getD 0
    let s := s.consumed e.1 pa ag.asid t.hwid
    if h = orphanId then s.dropOrphan gen
    else s.endFault t ⟨e.1, e.2, false, 0, o.tpc, o.insn, o.repleft⟩

/-- COPY_EVENT_RECORD (R319): the record waits at the engine while its queue is full. -/
def execCopyEventRecord (h : BitVec 17) (gen : OpId) (s : State) : Out :=
  match s.copyEntry h gen with
  | none => .next s
  | some e =>
    match e.status with
    | none => .next s
    | some w =>
      match s.postEv e.who (descEvq e.desc) ⟨w, e.who, if e.fn = 3 then 2 else 1, descTag e.desc, descScope e.desc⟩ with
      | none => .next (s.send (.copyEventRecord h gen))
      | some s => .next (s.freeCopyEntry h gen)

-- The work of a copy (R341 to R343).

/-- What a command reads and writes: each write with its agent, whether a class refuses it by now, whether the boundary filter
does (R412), a data error it meets. -/
structure CopyWork where
  state : State
  writes : List (Agent × Place × List Byte)
  refused : Bool
  filtered : Bool
  bad : Option (BitVec 7 × Word)

/-- Read the source rows. -/
def State.readRows (s : State) (ag : Agent) (onCopy : Bool) : List (Nat × Nat) → State × List (List Byte)
  | [] => (s, [])
  | p :: r =>
    let x := s.engRead ag [] (s.engPlaces ag onCopy p.1 p.2)
    let y := x.1.readRows ag onCopy r
    (y.1, x.2 :: y.2)

/-- The places some ranges of a copy lie at. -/
def State.copyPlaces (s : State) (ag : Agent) (ps : List (Nat × Nat)) : List Place := s.engAll ag true ps

/-- The writes of a CPYM: each pool it names, at DST's offset (R343). -/
def multicast (ag : Agent) (d : VReg) (bs : List Byte) : List (Agent × Place × List Byte) :=
  let o := (descDst d).toNat - 0x800000000000
  (maskPools d).map (fun p => ({ ag with pool := p }, ⟨stashKey ag.die p o, descLen d, 7, ag.die, 3, descDst d⟩, bs))

/-- The writes of CPY, CPY2D and CPYM, whose sources are all read before the first byte is written (the rule promises no order
within a command; DESIGN CHOICE, log entry 104). The rows of a destination are written in their order, so that where they
overlap the highest-numbered one stays (R342). Where a destination meets a source the bytes are free (R341), and where two
addresses of one row lead to the same byte. -/
def State.copyWork (s : State) (t : Thread) (fn : BitVec 2) (d : VReg) : CopyWork :=
  let ag := t.engine
  let srcs := copySrcs fn d
  let dsts := s.copyDsts fn d
  let sp := s.copyPlaces ag srcs
  let bad (dp : List Place) : Option (BitVec 7 × Word) := match s.dataCheck ag sp false with
    | .error e => some e
    | .ok _ => match s.dataCheck ag dp true with | .error e => some e | .ok _ => none
  let refused := srcs.any (fun p => s.engRefused ag .engRead p.1 p.2) || dsts.any (fun p => s.engRefused ag .engWrite p.1 p.2)
  let filtered := (srcs ++ dsts).any (fun p => s.filterRefuses t p.1 p.2)
  let r := s.readRows ag true srcs
  let rows : List (List (Agent × Place × List Byte)) := if fn = 2 then [multicast ag d r.2.flatten]
    else (dsts.zip r.2).map (fun p => (spread (r.1.engPlaces ag true p.1.1 p.1.2) p.2).map (fun w => (ag, w)))
  let ws := rows.flatten
  let dp := ws.map (fun w => w.2.1)
  let x := if rows.any (fun row => selfMeets (row.map (fun w => w.2.1))) || dp.any (fun p => sp.any (fun q => p.meets q)) then r.1.freeBytes (ws.map (·.2)) else (r.1, ws.map (·.2))
  ⟨x.1, (ws.zip x.2).map (fun w => (w.1.1, w.2)), refused, filtered, bad dp⟩

/-- A copy's accesses wait, for a walker or at a home. -/
def State.copyWaits (s : State) (t : Thread) (fn : BitVec 2) (d : VReg) : Bool :=
  s.engWaits t.engine true (copySrcs fn d) (s.copyDsts fn d)
    || (fn == 2 && (multicast t.engine d []).any (fun w => s.homeWaits w.1 [w.2.1] true))

/-- A copy that waits wakes the layers it needs and takes its place at its homes. -/
def State.copyRouse (s : State) (t : Thread) (fn : BitVec 2) (d : VReg) : State :=
  let s := s.rouseEng t.engine true (copySrcs fn d) (s.copyDsts fn d)
  if fn = 2 then (multicast t.engine d []).foldl (fun (s : State) w => s.rouseHomes w.1 [w.2.1] true) s else s

/-- Perform the writes of a command. -/
def State.doWrites (s : State) (ws : List (Agent × Place × List Byte)) : State :=
  ws.foldl (fun (s : State) w => s.engWrite w.1 [w.2]) s

/-- Perform some sectors of the writes of a command that stopped early (R46), on pages that still take them. -/
def State.someWrites (s : State) (ws : List (Agent × Place × List Byte)) : State :=
  ws.foldl (fun (s : State) w => if (s.writable w.1 [w.2]).isEmpty then s else s.writeSome w.1 [w.2]) s

-- Fabric (R410 to R412).

/-- The data flits of a transfer: 32 bytes each, the last one filled with zeros (R410). -/
def flitsOf (bs : List Byte) : List (List Byte) :=
  (List.range ((bs.length + 31) / 32)).map (fun i =>
    let c := (bs.drop (32 * i)).take 32
    c ++ List.replicate (32 - c.length) 0)

/-- One byte enters the sector check, most significant bit first (R418). -/
def crcByte (c : BitVec 16) (b : Byte) : BitVec 16 :=
  (List.range 8).foldl (fun (c : BitVec 16) i =>
    let out := c.getMsbD 0 != b.getMsbD i
    if out then (c <<< 1) ^^^ 0x8BB7 else c <<< 1) c

/-- The check of a sector of 32 bytes (R418). -/
def sectorCheck (bs : List Byte) : BitVec 16 := bs.foldl crcByte 0

/-- The checks a header flit carries (R410). -/
def flitChecks (bs : List Byte) : List (BitVec 16) := (flitsOf bs).map sectorCheck

/-- The transfers a command makes: at most 256 bytes each, cut at multiples of 256 of the remote address. -/
def cut256 {α : Type} (va : Nat) (bs : List α) : List (BitVec 48 × List α) :=
  (List.range ((va + bs.length + 255) / 256 - va / 256)).map (fun i =>
    let lo := max va ((va / 256 + i) * 256)
    (BitVec.ofNat 48 lo, (bs.drop (lo - va)).take ((va / 256 + i + 1) * 256 - lo)))

/-- A module that a port of the route table reaches and the boundary filter lets a partition send to (R411, R412). A port
whose link reported an error still stands in the table. -/
def State.fabricReaches (s : State) (part : BitVec 4) (m : BitVec 12) : Bool :=
  (s.boundary.routes.any (fun r => r.1 == m && r.2 != 0))
    && s.boundary.filter.any (fun r => match r with | .dest p x => p == part && x == m | _ => false)

/-- Each byte of a range with whether its sector fails its check, for the flits that carry it (R419). -/
def State.badBytes (s : State) (ag : Agent) (p : Nat × Nat) : List Bool :=
  (s.engPlaces ag true p.1 p.2).flatMap (fun q => (keysFrom q.key q.n).map (fun k =>
    s.caches.badSectors.any (fun y => decide (y.toNat = k / 32 * 32))))

/-- The poison bits of the data flits of a transfer (R410, R419). -/
def flitPoison (bad : List Bool) : List Bool :=
  (List.range ((bad.length + 31) / 32)).map (fun i => ((bad.drop (32 * i)).take 32).any id)

/-- Send the transfers of a fabric copy; its future fills after the last acknowledgement (R411). A flit with data of a sector that
fails its check has its poison bit set (R419). -/
def State.fabricSend (s : State) (t : Thread) (e : CopyEntry) (rows : List (Word × Word × Nat)) : State :=
  let m : BitVec 12 := (descDst e.desc).extractLsb' 48 12
  let ag := t.engine
  let srcs := copySrcs e.fn e.desc
  let r := s.readRows ag true srcs
  let ends := (rows.filter (fun x => x.2.2 != 0)).map (fun x => (x.2.1.extractLsb' 0 48).toNat)
  let out := (ends.zip r.2).flatMap (fun p => cut256 p.1 p.2)
  let bad := (ends.zip (srcs.map (s.badBytes ag))).flatMap (fun p => cut256 p.1 p.2)
  let txs := (out.zip bad).map (fun (x : (BitVec 48 × List Byte) × (BitVec 48 × List Bool)) =>
    FabricTx.write m x.1.1 x.1.2 (flitChecks x.1.2) (flitPoison x.2.2))
  let s := { r.1 with boundary := { r.1.boundary with fabricOut := r.1.boundary.fabricOut ++ txs } }
  s.putCopyEntry { e with acks := some out.length }

/-- COPY_COMPLETE (R319, R341, R342): the work of a command is done and its future filled, or a fabric copy is sent. What the
boundary filter refuses comes to nothing else (R412). A fabric copy that meets a failed check ends with the fault, and its transfers
leave with their poison bits (R419; log entry 60). -/
def execCopyComplete (h : BitVec 17) (gen : OpId) (s : State) : Out :=
  match s.op? h gen, s.copyEntry h gen with
  | some (t, _), some e =>
    if e.fn = 3 ∨ e.status.isSome ∨ e.acks.isSome then .next s
    else if s.copyWaits t e.fn e.desc then .next ((s.copyRouse t e.fn e.desc).send (.copyComplete h gen))
    else
      let w := s.copyWork t e.fn e.desc
      let fabric := descFabric e.desc
      if w.filtered || (fabric && !s.fabricReaches t.part ((descDst e.desc).extractLsb' 48 12)) then
        .next (s.copyEnd h gen (statusOf 0 0 0x20))
      else match w.bad with
      | some b =>
        let sent := if fabric && !w.refused && b.1 == 0x08 then s.fabricSend t e (copyRows e.fn e.desc) else w.state
        .next ((sent.freeCopyEntry h gen).engineFault h gen b)
      | none =>
        if fabric then .next (if w.refused then s.copyEnd h gen (statusOf 0 0 0x06) else s.fabricSend t e (copyRows e.fn e.desc))
        else if w.refused then .next ((w.state.someWrites w.writes).copyEnd h gen (statusOf 0 0 0x06))
        else .next ((w.state.doWrites w.writes).copyEnd h gen (statusOf 0 0 0))
  | _, _ => .next s

/-- FABRIC_ACK (R411): the last acknowledgement of a command fills its future. -/
def execFabricAck (h : BitVec 17) (gen : OpId) (refused : Bool) (s : State) : Out :=
  match s.copyEntry h gen with
  | none => .next s
  | some e =>
    match e.acks, e.status with
    | some k, none =>
      let bad := e.refused || refused
      if 1 < k then .next (s.putCopyEntry { e with acks := some (k - 1), refused := bad })
      else .next (s.copyEnd h gen (statusOf 0 0 (if bad then 0x20 else 0)))
    | _, _ => .next s

/-- A copy command as its thread issues it (R341): it waits for a free entry, is checked, and takes the entry. A command
with nothing to move completes at once (R342, R343). -/
def State.copyIssue (s : State) (fn : BitVec 2) (d a : BitVec 6) : Out :=
  let t := s.th
  let desc := t.getV a
  if s.copyFull t.hwid then .next s
  else match s.copyBad fn desc with
    | some b => s.asyncBad b
    | none =>
      let gen := s.nextGen
      let s := s.startOp (.s d) (descScope desc) s.insn (.copy fn desc t.rm t.enables)
      let e : CopyEntry := ⟨t.hwid, gen, t.hwid, fn, none, desc, none, false⟩
      let s := { s with queues := { s.queues with copyQ := s.queues.copyQ ++ [(coreOf t.hwid, e)] } }
      if fn = 3 then (s.send (.confluenceContribution t.hwid gen)).retire
      else if fn = 2 ∧ (maskPools desc).isEmpty then (s.copyEnd t.hwid gen (statusOf 0 0 1)).retire
      else if (copySrcs fn desc).isEmpty then (s.copyEnd t.hwid gen (statusOf 0 0 0)).retire
      else (s.send (.copyComplete t.hwid gen)).retire

/-- CPY (R342). -/
def execCpy (d a : BitVec 6) (s : State) : Out := s.copyIssue 0 d a

/-- CPY2D (R342). -/
def execCpy2d (d a : BitVec 6) (s : State) : Out := s.copyIssue 1 d a

/-- CPYM (R343). -/
def execCpym (d a : BitVec 6) (s : State) : Out := s.copyIssue 2 d a

/-- CPYR (R344). -/
def execCpyr (d a : BitVec 6) (s : State) : Out := s.copyIssue 3 d a

-- Confluence groups (R330, R331, R344).

/-- The confluence engine of a thread's column: 4 x stack + quadrant (R19). -/
def engineOf (h : BitVec 17) : BitVec 5 := BitVec.ofNat 5 (4 * (stackOf (dieOf h)).toNat + (quadOf h).toNat)

/-- The bytes an engine holds. -/
def State.engineLoad (s : State) (e : BitVec 5) : Nat :=
  ((s.queues.groups.filter (·.engine == e)).flatMap (fun g => g.parts.map (fun c => c.bytes.length))).sum

/-- Remove a group. -/
def State.dropGroup (s : State) (g : Group) : State :=
  { s with queues := { s.queues with groups := s.queues.groups.filter (fun x => !(x.engine == g.engine && x.key == g.key)) } }

/-- Put a group back, the last of its engine. -/
def State.putGroup (s : State) (g : Group) : State :=
  let s := s.dropGroup g
  { s with queues := { s.queues with groups := s.queues.groups ++ [g] } }

/-- A contributor of a complete group gets its result: the write at its DST on the CONFLUENCE path, its status with the
flags, and FPTRAP for the observing instruction when an enable that held at its issue asks for it (R330, R344, R403). A
destination that meets the contributor's source gets free bytes (R341). -/
def State.confDeliver (s : State) (c : Contribution) (bs : List Byte) (fl : Flags) : State :=
  match s.op? c.hwid c.gen with
  | none => s
  | some (t, o) =>
    let ag := t.engine
    let ps := s.engPlaces ag false c.dst.toNat bs.length
    if s.filterRefuses t c.dst.toNat bs.length then s.copyEnd c.hwid c.gen (statusOf 0 0 0x20)
    else match s.dataCheck ag ps true with
    | .error e => (s.freeCopyEntry c.hwid c.gen).engineFault c.hwid c.gen e
    | .ok _ =>
        let x : VReg × BitVec 5 := match o.kind with | .copy _ d _ en => (d, en) | _ => (⟨0, 0⟩, 0)
        let sp := s.engPlaces ag false (descSrc x.1).toNat (descLen x.1)
        let ws := spread ps bs
        let w := if ps.any (fun p => sp.any (fun q => p.meets q)) then s.freeBytes ws else (s, ws)
        let refused := s.engRefused ag .engWrite c.dst.toNat bs.length
        let s := if refused then w.1.someWrites (w.2.map (fun w => (ag, w))) else w.1.engWrite ag w.2
        let status := statusOf 0 fl (if refused then 0x06 else 0)
        let s := s.fillFlags c.hwid fl
        (if flagsTrap x.2 fl then s.fillRefused c.hwid c.gen status 0x09 (fl.zeroExtend 64)
          else s.fillWord c.hwid c.gen status).copyRecord c.hwid c.gen status

/-- The write of a contributor's result waits, for a walker or at a home. -/
def State.confWaits (s : State) (g : Group) : Bool :=
  g.parts.any (fun c => match s.op? c.hwid c.gen with
    | none => false
    | some (t, _) => s.engWaits t.engine false [] [(c.dst.toNat, confResultLen g.entry c.bytes.length)])

/-- The layers of the homes that the contributors' results go to are woken. -/
def State.confRouse (s : State) (g : Group) : State :=
  g.parts.foldl (fun (s : State) c => match s.op? c.hwid c.gen with
    | none => s
    | some (t, _) => s.rouseEng t.engine false [] [(c.dst.toNat, confResultLen g.entry c.bytes.length)]) s

/-- A complete group is reduced and written (R330). Contributions of different lengths, and a RESCALE of several in
different modes, have no stated result: their bytes are free (log entry 6). -/
def State.confComplete (s : State) (g : Group) : State :=
  let s := s.dropGroup g
  let n := (g.parts.headD ⟨0, 0, [], 0⟩).bytes.length
  let modes := g.parts.filterMap (fun c => (s.op? c.hwid c.gen).map (fun x => match x.2.kind with | .copy _ _ rm _ => rm | _ => g.rm))
  let stated := g.parts.all (fun c => c.bytes.length == n) && !(confOp g.entry == 7 && modes.any (fun m => m != g.rm))
  let r := confReduce g.entry g.rm (g.parts.map (·.bytes))
  g.parts.foldl (fun (s : State) c =>
    if stated then s.confDeliver c r.1 r.2
    else
      let k := confResultLen g.entry c.bytes.length
      let bs := (List.range k).map (fun i => Config.freeByte (s.free + i))
      State.confDeliver { s with free := s.free + k } c bs 0) s

/-- A contribution enters its group; the last one completes it, when the homes of the results are free. -/
def State.confJoin (s0 s : State) (h : BitVec 17) (gen : OpId) (g : Group) : State :=
  if g.parts.length = g.count.toNat then
    if s0.confWaits g then (s0.confRouse g).send (.confluenceContribution h gen) else s.confComplete g
  else s.putGroup g

/-- A contribution that a group refuses: CODE 0x0D, and CHANNEL at the observing instruction (R330, R344). -/
def State.confRefuse (s : State) (h : BitVec 17) (gen : OpId) : State :=
  let w := statusOf 0 0 0x0D
  (s.fillRefused h gen w 0x0D w).copyRecord h gen w

/-- CONFLUENCE_CONTRIBUTION (R330): a contribution that finds no room waits in the column. -/
def execConfluenceContribution (h : BitVec 17) (gen : OpId) (s : State) : Out :=
  match s.op? h gen with
  | some (t, ⟨_, _, _, _, .copy fn d rm _, _, _, _, _, _, _⟩) =>
    if fn ≠ 3 then .next s
    else
      let ag := t.engine
      let src := (descSrc d).toNat
      let n := descLen d
      let ps := s.engPlaces ag false src n
      let key : BitVec 16 := (descLane d 7).extractLsb' 16 16
      let eng := engineOf t.hwid
      if s.engWaits ag false [(src, n)] [] then .next ((s.rouseEng ag false [(src, n)] []).send (.confluenceContribution h gen))
      else if s.filterRefuses t src n then .next (s.copyEnd h gen (statusOf 0 0 0x20))
      else match s.dataCheck ag ps false with
      | .error e => .next ((s.freeCopyEntry h gen).engineFault h gen e)
      | .ok _ =>
        if s.engRefused ag .engRead src n then .next (s.copyEnd h gen (statusOf 0 0 0x06))
        else if 65536 < s.engineLoad eng + n then .next (s.send (.confluenceContribution h gen))
        else
          let r := s.engRead ag [] ps
          let c : Contribution := ⟨h, gen, r.2, descDst d⟩
          match s.queues.groups.find? (fun g => g.engine == eng && g.key == key) with
          | none =>
            if 16 ≤ (s.queues.groups.filter (·.engine == eng)).length then .next (s.send (.confluenceContribution h gen))
            else .next (s.confJoin r.1 h gen ⟨eng, key, descLane d 6, descIndex d, s.confEntry (descIndex d), rm, [c]⟩)
          | some g =>
            if g.count ≠ descLane d 6 ∨ g.index ≠ descIndex d ∨ (confOp g.entry = 6 ∧ g.rm ≠ rm) then .next (s.confRefuse h gen)
            else .next (s.confJoin r.1 h gen { g with parts := g.parts ++ [c] })
  | _ => .next s

-- FCANCEL (R340).

/-- The matrix command of an operation of a thread, with what it would have written. -/
def State.mmsOf (s : State) (h : BitVec 17) (gen : OpId) : Option (BitVec 9 × McqEntry) :=
  let mine (e : McqEntry) : Bool := e.hwid == h && e.gen == gen && !e.dead && !e.half
  s.queues.bcores.findSome? (fun c =>
    ((c.2.running.filter mine).or (c.2.mcq.find? mine)).map (fun e => (c.1, e)))

/-- Take a command, and its high half, out of the queues and units. -/
def State.dropMms (s : State) (h : BitVec 17) (gen : OpId) : State :=
  let mine (e : McqEntry) : Bool := e.hwid == h && e.gen == gen && !e.dead
  let idle := s.queues.bcores.filter (fun c => c.2.running.any mine)
  let s := { s with queues := { s.queues with bcores := s.queues.bcores.map (fun c =>
    (c.1, { c.2 with mcq := c.2.mcq.filter (fun e => !mine e), running := c.2.running.filter (fun e => !mine e) })) } }
  idle.foldl (fun (s : State) c => s.send (.matrixCommandStart c.1)) s

/-- FCANCEL (R340). -/
def execFcancel (d a : BitVec 6) (f : BitVec 1) (s : State) : Out :=
  let h := s.th.hwid
  match s.th.opFor f a with
  | none => (s.ws d 0).retire
  | some o =>
    let cut (s : State) (w : Word) : State := s.fillAs h o.gen (.scalar ⟨w, 0⟩) 2
    let stop (s : State) (w : Word) : Out := ((cut s w).ws d 1).retire
    let cancelled := statusOf 0 0 0x13
    match o.kind with
    | .copy fn desc _ _ =>
      if fn = 3 then (s.ws d 2).retire
      else
        let w := s.copyWork s.th fn desc
        let s := if descFabric desc || w.filtered || w.bad.isSome || s.copyWaits s.th fn desc then s else w.state.someWrites w.writes
        (((cut s cancelled).copyRecord h o.gen cancelled).ws d 1).retire
    | .mms _ =>
      match s.mmsOf h o.gen with
      | none => stop s cancelled
      | some (b, e) =>
        let r := s.mmsRun b e
        stop ((if s.mmsWaits e then s else r.state.writeSome e.agent (r.state.writable e.agent r.writes)).dropMms h o.gen) cancelled
    | .evwait _ _ => stop s cancelled
    | .chwait _ _ => stop s cancelled
    | .chrecv _ _ _ => stop s cancelled
    | .ccnt _ _ => stop s 0
    | .chsend _ _ none =>
      stop { s with queues := { s.queues with channels := s.queues.channels.map (fun (c : Channel) =>
        { c with waiting := c.waiting.filter (fun w => !decide (w = (h, o.gen))) }) } } cancelled
    | _ => (s.ws d 2).retire

end Sys2Proof.Machine
end

