-- ==== Sys2Proof/Machine/Packet.lean ====
section
/-! DEFINITION. Launch packets and phase marks: their fields and the checks of R28 that need the packet alone (R25 to R30,
R32). -/

namespace Sys2Proof.Machine

/-- A packet as its 64-bit words. -/
abbrev Packet := List Word

/-- Word k. -/
def pkW (p : Packet) (k : Nat) : Word := p.getD k 0

/-- LEN16. -/
def pkLen16 (p : Packet) : Nat := ((pkW p 0).extractLsb' 0 5).toNat
/-- KIND. -/
def pkKind (p : Packet) : Nat := ((pkW p 0).extractLsb' 5 3).toNat
/-- NLEASE. -/
def pkNLease (p : Packet) : Nat := ((pkW p 0).extractLsb' 8 4).toNat
/-- NCHAN. -/
def pkNChan (p : Packet) : Nat := ((pkW p 0).extractLsb' 12 2).toNat
/-- NSUCC. -/
def pkNSucc (p : Packet) : Nat := ((pkW p 0).extractLsb' 14 4).toNat
/-- NARG. -/
def pkNArg (p : Packet) : Nat := ((pkW p 0).extractLsb' 18 4).toNat
/-- POOLB1 in 4 KiB units. -/
def pkB1 (p : Packet) : BitVec 9 := (pkW p 0).extractLsb' 22 9
/-- POOLB2. -/
def pkB2 (p : Packet) : BitVec 9 := (pkW p 0).extractLsb' 31 9
/-- POOLB3. -/
def pkB3 (p : Packet) : BitVec 9 := (pkW p 0).extractLsb' 40 9
/-- SLICE in microseconds. -/
def pkSlice (p : Packet) : Nat := ((pkW p 1).extractLsb' 48 16).toNat
/-- ENTRY. -/
def pkEntry (p : Packet) : BitVec 48 := (pkW p 1).extractLsb' 0 48
/-- DOOMED. -/
def pkDoomed (p : Packet) : Bool := (pkW p 2).getLsbD 63
/-- WAITS. -/
def pkWaits (p : Packet) : Nat := ((pkW p 2).extractLsb' 52 11).toNat
/-- GRIDX. -/
def pkGridX (p : Packet) : Nat := ((pkW p 2).extractLsb' 36 16).toNat
/-- NGANG. -/
def pkNGang (p : Packet) : BitVec 24 := (pkW p 2).extractLsb' 12 24
/-- PRIO. -/
def pkPrio (p : Packet) : BitVec 2 := (pkW p 2).extractLsb' 10 2
/-- DENS. -/
def pkDens (p : Packet) : Nat := ((pkW p 2).extractLsb' 8 2).toNat
/-- CORE: the launch runs on B-cores. -/
def pkCore (p : Packet) : Bool := (pkW p 2).getLsbD 7
/-- GANG. -/
def pkGang (p : Packet) : Nat := ((pkW p 2).extractLsb' 0 7).toNat
/-- GRIDY. -/
def pkGridY (p : Packet) : Nat := ((pkW p 3).extractLsb' 48 16).toNat
/-- CJOB. -/
def pkJob (p : Packet) : BitVec 12 := (pkW p 3).extractLsb' 36 12
/-- CPHASE. -/
def pkPhase (p : Packet) : BitVec 12 := (pkW p 3).extractLsb' 24 12
/-- CGRAPH. -/
def pkGraph (p : Packet) : BitVec 12 := (pkW p 3).extractLsb' 12 12
/-- CLAUNCH. -/
def pkLaunch (p : Packet) : BitVec 12 := (pkW p 3).extractLsb' 0 12

/-- Threads used per core (R32). -/
def pkD (p : Packet) : Nat := 2 ^ pkDens p

/-- Cores a gang uses (R32). -/
def pkCores (p : Packet) : Nat := (pkGang p + pkD p - 1) / pkD p

/-- The least power of two that is not below a number up to 64. -/
def pow2Up (n : Nat) : Nat := if n ≤ 1 then 1 else if n ≤ 2 then 2 else if n ≤ 4 then 4 else if n ≤ 8 then 8
  else if n ≤ 16 then 16 else if n ≤ 32 then 32 else 64

/-- The core span of a gang (R32). -/
def pkSpan (p : Packet) : Nat := pow2Up (pkCores p)

/-- Lease entry i: words A and B (R27). -/
def pkLeaseW (p : Packet) (i : Nat) : Word × Word := (pkW p (4 + 2 * i), pkW p (5 + 2 * i))

/-- The leases of a packet. -/
def pkLeases (p : Packet) : List LeaseC :=
  (List.range (pkNLease p)).map (fun i =>
    let w := pkLeaseW p i
    ⟨w.1.extractLsb' 0 48, w.2.extractLsb' 0 40, w.2.getLsbD 40, w.2.getLsbD 41⟩)

/-- A lease entry is well formed (R27). -/
def leaseWordsOk (w : Word × Word) : Bool :=
  w.1.extractLsb' 48 16 == 0 && w.1.extractLsb' 0 16 == 0 && w.2.extractLsb' 42 22 == 0 && w.2.extractLsb' 0 16 == 0
    && w.2.extractLsb' 0 40 != 0

/-- A channel declaration (R27). -/
structure Chan where
  no : BitVec 2
  base : Nat
  slots : Nat
  size : Nat
  deriving DecidableEq, Repr

/-- Words A and B of channel declaration i. -/
def pkChanW (p : Packet) (i : Nat) : Word × Word := (pkW p (4 + 2 * (pkNLease p + i)), pkW p (5 + 2 * (pkNLease p + i)))

/-- A channel declaration from its words. -/
def chanOf (w : Word × Word) : Chan :=
  ⟨w.2.extractLsb' 32 2, (w.1.extractLsb' 0 48).toNat, (w.2.extractLsb' 0 16).toNat, (w.2.extractLsb' 16 16).toNat⟩

/-- A declaration is well formed (R27). -/
def chanWordsOk (w : Word × Word) : Bool :=
  let c := chanOf w
  w.1.extractLsb' 48 16 == 0 && w.1.extractLsb' 0 6 == 0 && w.2.extractLsb' 34 30 == 0
    && c.slots != 0 && c.size % 8 == 0 && decide (8 ≤ c.size) && decide (c.size ≤ 4096)

/-- The declaration of a channel number below NCHAN (R346). -/
def pkChan (p : Packet) (c : BitVec 2) : Option Chan :=
  if c.toNat < pkNChan p then ((List.range (pkNChan p)).map (fun i => chanOf (pkChanW p i))).find? (fun x => x.no == c) else none

/-- The first word of the successor handles. -/
def pkSuccAt (p : Packet) : Nat := 4 + 2 * (pkNLease p + pkNChan p)

/-- The successor handles (R27). -/
def pkSuccs (p : Packet) : List Word := (List.range (pkNSucc p)).map (fun i => pkW p (pkSuccAt p + i))

/-- The argument payload (R27). -/
def pkArgs (p : Packet) : List Word := (List.range (pkNArg p)).map (fun i => pkW p (pkSuccAt p + pkNSucc p + i))

/-- A handle is well formed. -/
def handleOk (h : Word) : Bool := h.extractLsb' 0 4 == 0 && h.extractLsb' 56 8 == 0

/-- The words that carry something. -/
def pkUsed (p : Packet) : Nat := pkSuccAt p + pkNSucc p + pkNArg p

/-- A launch packet of a queue passes the checks of R28 that need it alone. -/
def launchOk (p : Packet) : Bool :=
  decide (2 ≤ pkLen16 p) && decide (pkLen16 p ≤ 16) && pkKind p == 1 && decide (pkNLease p ≤ 12)
    && decide (pkUsed p ≤ 2 * pkLen16 p)
    && decide ((pkB1 p).toNat ≤ (pkB2 p).toNat) && decide ((pkB2 p).toNat ≤ (pkB3 p).toNat) && decide ((pkB3 p).toNat ≤ 256)
    && (pkEntry p).extractLsb' 0 2 == 0
    && pkGridX p != 0 && pkNGang p != 0 && pkDens p != 3 && pkGang p != 0 && decide (pkGang p ≤ 64) && pkGridY p != 0
    && pkLaunch p != 0 && pkWaits p == 0
    && decide (pkGang p * (pkNGang p).toNat ≤ 16777215)
    && !(pkCore p && decide (2 < pkCores p))
    && (List.range (pkNLease p)).all (fun i => leaseWordsOk (pkLeaseW p i))
    && (List.range (pkNChan p)).all (fun i => chanWordsOk (pkChanW p i))
    && (pkSuccs p).all handleOk
    && (List.range (2 * pkLen16 p - pkUsed p)).all (fun i => pkW p (pkUsed p + i) == 0)

/-- A phase mark: KIND 2, LEN16 2, CPHASE and CJOB, every other field zero (R30). -/
def markOk (p : Packet) : Bool :=
  pkW p 0 == 0x42 && pkW p 1 == 0 && pkW p 2 == 0 && pkW p 3 &&& 0xFFFF000000FFFFFF == 0

end Sys2Proof.Machine
end

