-- ==== Sys2Proof/Machine/Channels.lean ====
section
/-! DEFINITION. Dataflow channels, the work dispenser and SUBMIT (R324 to R326, R329, R346 to R348). -/

namespace Sys2Proof.Machine

-- Channels (R324, R346).

/-- A channel's counters and waiting sends; all 0 when the launch's first gang binds. -/
def State.channel (s : State) (l : BitVec 16) (c : BitVec 2) : Channel :=
  (s.queues.channels.find? (fun x => x.lrec == l && x.ch == c)).getD ⟨l, c, 0, 0, 0, [], []⟩

/-- Put a channel back. -/
def State.putChannel (s : State) (x : Channel) : State :=
  { s with queues := { s.queues with
      channels := x :: s.queues.channels.filter (fun y => !(y.lrec == x.lrec && y.ch == x.ch)) } }

/-- The declaration of a channel of a launch. -/
def State.chanDecl (s : State) (l : BitVec 16) (c : BitVec 2) : Option Chan := (s.launch? l).bind (fun r => pkChan r.packet c)

/-- The home die of a channel's counters: that of its ring's first line (R324). -/
def State.chanHome (s : State) (l : BitVec 16) (c : BitVec 2) : Option (BitVec 6) :=
  match s.launch? l, s.chanDecl l c with
  | some r, some d => (s.walk r.asid d.base).bind (fun x => if isHbm (BitVec.ofNat 52 x.pa) then some x.home else none)
  | _, _ => none

/-- A channel's counters lie on a sleeping die, or their page's tables do: the request waits, and wakes it (R22). -/
def State.chanSleeps (s : State) (l : BitVec 16) (c : BitVec 2) : Option (BitVec 6) :=
  if s.layers.isEmpty then none
  else match s.launch? l, s.chanDecl l c with
    | some r, some d =>
      (match s.walkStop r.asid d.base with
        | some x => if isHbm (BitVec.ofNat 52 x) then some (s.homeOf (BitVec.ofNat 52 x)) else none
        | none => s.chanHome l c).filter (fun d => !s.awake d)
    | _, _ => none

/-- The address of slot number `j` of a ring (R346). -/
def Chan.slot (c : Chan) (j : BitVec 32) : Nat := c.base + j.toNat % c.slots * c.size

/-- FL advances over the filled slots in reservation order (R324); at most as many as are filled. -/
def advanceFl (c : Channel) : Nat → Channel
  | 0 => c
  | n + 1 => if c.filled.contains c.fl then advanceFl { c with fl := c.fl + 1, filled := c.filled.erase c.fl } n else c

/-- What a copy on the CHANNEL path comes to: it waits at a home, a class (CODE 0x06) or the boundary filter (CODE 0x20, log entry
51) refuses it by now, it meets a data error, it is done. -/
inductive ChanRes
  | waits (s : State)
  | refused (code : BitVec 8)
  | bad (e : BitVec 7 × Word)
  | done (s : State)

/-- Copy `n` bytes between two addresses of a thread's job on the CHANNEL path. -/
def State.chanCopy (s : State) (t : Thread) (src dst n : Nat) : ChanRes :=
  let ag := t.engine
  let sp := s.engPlaces ag false src n
  let dp := s.engPlaces ag false dst n
  if s.engWaits ag false [(src, n)] [(dst, n)] then .waits (s.rouseEng ag false [(src, n)] [(dst, n)])
  else if s.filterRefuses t src n || s.filterRefuses t dst n then .refused 0x20
  else if s.engRefused ag .engRead src n || s.engRefused ag .engWrite dst n then .refused 0x06
  else match s.dataCheck ag sp false with
    | .error e => .bad e
    | .ok _ => match s.dataCheck ag dp true with
      | .error e => .bad e
      | .ok _ =>
          let r := s.engRead ag [] sp
          .done (r.1.engWrite ag (spread dp r.2))

/-- A copy of a channel's slot ends an operation: VALUE when done, a CODE when it is refused, the task on a data error (R335,
R341). -/
def State.chanEnd (s : State) (h : BitVec 17) (gen : OpId) (v : BitVec 32) : ChanRes → State
  | .waits s => s
  | .refused c => s.fillWord h gen (statusOf 0 0 c)
  | .bad e => s.engineFault h gen e
  | .done s => s.fillWord h gen (statusOf v 0 0)

/-- CHWAIT and CHRECV of a launch's channel whose condition holds complete (R346). -/
def State.settleChan (s : State) (l : BitVec 16) (ch : BitVec 2) : State :=
  match s.chanDecl l ch, s.chanSleeps l ch with
  | none, _ => s
  | _, some d => (s.rouse d).sendOnce (.channelReserve l ch)
  | some dcl, none =>
    (s.threads.filter (·.lrec == l)).foldl (fun (s : State) t =>
      t.ops.foldl (fun (s : State) o =>
        let c := s.channel l ch
        let k := (c.fl - c.rd).toNat
        match o.kind with
        | .chwait ch' n => if ch' = ch ∧ n ≤ k then (s.fillWord t.hwid o.gen (statusOf (c.fl - c.rd) 0 0)) else s
        | .chrecv ch' dst j =>
          if ch' = ch ∧ j < k ∧ (s.op? t.hwid o.gen).isSome then
            match s.chanCopy t (dcl.slot (c.rd + BitVec.ofNat 32 j)) dst.toNat dcl.size with
            | .waits s => s.sendOnce (.channelReserve l ch)
            | r => s.chanEnd t.hwid o.gen 0 r
          else s
        | _ => s) s) s

/-- The channel operand's checks: its declaration, or a reason (R346). Reserved bits are checked first (DEDUCED, log entry
20). -/
def State.chanOperand (s : State) (x : Word) (noN : Bool) : Except (BitVec 8) (BitVec 2 × Nat × Chan) :=
  if x.extractLsb' 48 16 ≠ 0 ∨ x.extractLsb' 2 14 ≠ 0 ∨ (noN ∧ x.extractLsb' 16 32 ≠ 0) then .error 0x01
  else match s.chanDecl s.th.lrec (x.extractLsb' 0 2) with
    | none => .error 0x07
    | some c => .ok (x.extractLsb' 0 2, (x.extractLsb' 16 32).toNat, c)

/-- CHSEND (R346). -/
def execChsend (d a b : BitVec 6) (s : State) : Out :=
  let t := s.th
  match s.chanOperand (s.rs b) true with
  | .error r => s.perm r
  | .ok (ch, _, c) =>
    match s.rangesBad t true [((s.rs a).toNat, c.size)] [] with
    | some e => s.asyncBad e
    | none =>
      let gen := s.nextGen
      let x := s.channel t.lrec ch
      let s := (s.startOp (.s d) 5 s.insn (.chsend ch (s.rs a) none)).putChannel { x with waiting := x.waiting ++ [(t.hwid, gen)] }
      (s.send (.channelReserve t.lrec ch)).retire

/-- CHRECV (R346). -/
def execChrecv (d a b : BitVec 6) (s : State) : Out :=
  let t := s.th
  match s.chanOperand (s.rs b) false with
  | .error r => s.perm r
  | .ok (ch, k, c) =>
    if c.slots ≤ k then s.perm 0x02
    else match s.rangesBad t true [] [((s.rs a).toNat, c.size)] with
      | some e => s.asyncBad e
      | none => ((s.startOp (.s d) 5 s.insn (.chrecv ch (s.rs a) k)).settleChan t.lrec ch).retire

/-- CHWAIT (R346). -/
def execChwait (d b : BitVec 6) (s : State) : Out :=
  match s.chanOperand (s.rs b) false with
  | .error r => s.perm r
  | .ok (ch, n, c) =>
    if c.slots < n then s.perm 0x02
    else ((s.startOp (.s d) 5 s.insn (.chwait ch n)).settleChan s.th.lrec ch).retire

/-- CHADV (R346): it waits for the thread's CHRECV copies. -/
def execChadv (d b : BitVec 6) (s : State) : Out :=
  let t := s.th
  match s.chanOperand (s.rs b) false with
  | .error r => s.perm r
  | .ok (ch, n, _) =>
    if t.ops.any (fun o => match o.kind with | .chrecv _ _ _ => true | _ => false) then .next s
    else match s.chanSleeps t.lrec ch with
    | some d => .next (s.rouse d)
    | none =>
      let c := s.channel t.lrec ch
      let k := c.fl - c.rd
      if k.toNat < n then s.trap 0x0D (k.zeroExtend 64)
      else
        let rd := c.rd + BitVec.ofNat 32 n
        let s := s.putChannel { c with rd }
        let s := if c.waiting.isEmpty then s else s.send (.channelReserve t.lrec ch)
        (s.ws d (rd.zeroExtend 64)).retire

/-- CHANNEL_RESERVE (R324): receives that waited at a home go on, and the first waiting send takes slot WR when there is
room. -/
def execChannelReserve (l : BitVec 16) (ch : BitVec 2) (s : State) : Out :=
  if (s.chanSleeps l ch).isSome then .next (s.settleChan l ch)
  else
  let s := s.settleChan l ch
  let c := s.channel l ch
  match s.chanDecl l ch, c.waiting with
  | some dcl, w :: rest =>
    match s.op? w.1 w.2 with
    | some (_, o) =>
      match o.kind with
      | .chsend ch' src none =>
        if ch' = ch ∧ (c.wr - c.rd).toNat < dcl.slots then
          let s := (s.putOp w.1 { o with kind := .chsend ch src (some c.wr) }).putChannel { c with wr := c.wr + 1, waiting := rest }
          let s := s.send (.channelSlotFilled l ch c.wr)
          .next (if rest.isEmpty then s else s.send (.channelReserve l ch))
        else .next s
      | _ => .next (s.putChannel { c with waiting := rest })
    | none => .next ((s.putChannel { c with waiting := rest }).send (.channelReserve l ch))
  | _, _ => .next s

/-- The send that holds reservation `res` of a channel: of a live thread of the launch, or orphaned. -/
def State.sender (s : State) (l : BitVec 16) (ch : BitVec 2) (res : BitVec 32) : Option (BitVec 17 × Thread × Op) :=
  let mine (o : Op) : Bool := match o.kind with | .chsend c _ (some r) => c == ch && r == res | _ => false
  (s.threads.findSome? (fun t => if t.lrec == l then (t.ops.find? mine).map (fun o => (t.hwid, t, o)) else none)).or
    ((s.queues.orphans.find? (fun x => x.2.1.lrec == l && mine x.2.2)).map (fun x => (orphanId, x.2.1, x.2.2)))

/-- CHANNEL_SLOT_FILLED (R324, R346): the bytes of a reserved slot are performed, FL advances, and waiting CHWAIT and
CHRECV proceed. -/
def execChannelSlotFilled (l : BitVec 16) (ch : BitVec 2) (res : BitVec 32) (s : State) : Out :=
  match s.chanDecl l ch, s.sender l ch res with
  | some dcl, some (h, t, o) =>
    match o.kind with
    | .chsend _ src _ =>
      match s.chanCopy t src.toNat (dcl.slot res) dcl.size with
      | .waits s => .next (s.send (.channelSlotFilled l ch res))
      | .done s =>
        let s := s.chanEnd h o.gen res (.done s)
        let c := s.channel l ch
        .next ((s.putChannel (advanceFl { c with filled := res :: c.filled } (c.filled.length + 1))).settleChan l ch)
      | r => .next ((s.chanEnd h o.gen res r).settleChan l ch)
    | _ => .next s
  | _, _ => .next s

-- The dispenser (R329, R347).

/-- WDQ (R347): the address is checked as it stands, without translation. -/
def execWdq (d a : BitVec 6) (s : State) : Out :=
  let t := s.th
  let x := s.rs a
  if x.toNat % 4 ≠ 0 then s.trap 0x03 x
  else if x.toNat < 0x800000000000 ∨ 0x800000000000 + poolB t.poolb1 < x.toNat + 4 then s.perm 0x04
  else ((s.startOp (.s d) 2 s.insn (.wdq x)).send (.wdqRequest t.hwid s.nextGen)).retire

/-- The dispenser's answer (R329). -/
def Launch.coordinate (r : Launch) : BitVec 32 :=
  let n := r.disp.toNat
  if n < pkGridX r.packet * pkGridY r.packet then
    BitVec.ofNat 32 ((n % pkGridX r.packet) * 65536 + n / pkGridX r.packet)
  else 0xFFFFFFFF

/-- WDQ_REQUEST (R22, R329, R347): the dispenser's home is taken to be the die that owns the launch (log entry 109); while it
sleeps the request waits. The answer is written to the stash word and fills the future. A request whose task has ended
keeps its coordinate (R44, R347). -/
def execWdqRequest (h : BitVec 17) (gen : OpId) (s : State) : Out :=
  match s.op? h gen with
  | some (t, ⟨_, _, _, _, .wdq x, _, _, _, _, _, _⟩) =>
    match s.launch? t.lrec with
    | none => .next (s.dropOp h gen)
    | some r =>
      let v := r.coordinate
      let p : Place := ⟨stashKey (dieOf t.hwid) (poolOf t.hwid) (x.toNat - 0x800000000000), 4, 7, dieOf t.hwid, 3, x⟩
      if s.homeWaits t.engine [p] true then .next ((s.rouseHomes t.engine [p] true).send (.wdqRequest h gen))
      else if !s.awake r.die then .next ((s.rouse r.die).send (.wdqRequest h gen))
      else
      let s := s.putLaunch { r with disp := if v = 0xFFFFFFFF then r.disp else r.disp + 1 }
      let s := s.engWrite t.engine [(p, bytesOfNat 4 v.toNat)]
      .next ((s.fillWord h gen (statusOf v 0 0)))
  | _ => .next s

-- SUBMIT (R326, R348).

/-- The lines of `n` bytes of a queue, each with its home die (R22, R325). -/
def State.queueLines (s : State) (k n : Nat) : List (Nat × BitVec 6) :=
  (List.range ((k + n - 1) / 64 + 1 - k / 64)).map (fun i =>
    let l := lineOf k + 64 * i
    (l, s.homeOf (BitVec.ofNat 52 l)))

/-- The homes of some bytes of a queue cannot serve its producer or reader now (R22, R326; log entry 115). -/
def State.queueShut (s : State) (k n : Nat) : Bool := (s.queueLines k n).any (fun x => s.homeShut x.1 x.2)

/-- A producer or reader that waits wakes the layers of the homes it needs (R22). -/
def State.rouseQueue (s : State) (k n : Nat) : State :=
  (s.queueLines k n).foldl (fun (s : State) x => if isHbm (BitVec.ofNat 52 x.1) then s.rouse x.2 else s) s

/-- The address of a slot of a queue (R325). -/
def State.slotAddr (s : State) (q : BitVec 8) (idx : Word) : Nat :=
  let w0 := (s.queueEntry q).1
  queueBase w0 + 0x100 + 256 * (idx.toNat % queueSlots w0)

/-- Write words to a slot of a queue, word 0 with the rest in one step (R326). -/
def State.placePacket (s : State) (q : BitVec 8) (idx : Word) (bs : List Byte) : State :=
  let k := s.slotAddr q idx
  { s with mem := Memory.setMany s.mem ((keysFrom k bs.length).zip bs) }

/-- Reserve a slot: the old RSV (R326). -/
def State.reserveSlot (s : State) (q : BitVec 8) : State × Word :=
  let base := queueBase (s.queueEntry q).1
  let r := Memory.read64 s.mem base
  ({ s with mem := Memory.write64 s.mem base (r + 1) }, r)

/-- A reservation may be written: RSV − RIDX was below SLOTS (R326). -/
def State.slotFree (s : State) (q : BitVec 8) (res : Word) : Bool :=
  let w0 := (s.queueEntry q).1
  decide ((res - (s.queueIdx w0).2).toNat < queueSlots w0)

/-- A SUBMIT with a free slot copies its packet, rings the doorbell and completes (R348); one that waits at a home is served
again with the queue's reader. -/
def State.submitGo (s : State) (h : BitVec 17) (t : Thread) (gen : OpId) (q : BitVec 8) (res x : Word) (n : Nat) : State :=
  let ag := t.engine
  let ps := s.engPlaces ag false x.toNat n
  let k := s.slotAddr q res
  if s.engWaits ag false [(x.toNat, n)] [] || s.queueShut k n then
    ((s.rouseEng ag false [(x.toNat, n)] []).rouseQueue k n).sendOnce (.launchPacket q)
  else if s.engRefused ag .engRead x.toNat n then (s.fillWord h gen (statusOf 0 0 0x06))
  else match s.dataCheck ag ps false with
    | .error e => s.engineFault h gen e
    | .ok _ =>
      let r := s.engRead ag [] ps
      let s := (r.1.placePacket q res r.2).ring q
      (s.fillWord h gen (statusOf (res.extractLsb' 0 32) 0 0))

/-- The SUBMITs that wait for a slot of a queue and now have one (R348). -/
def State.serveSubmits (s : State) (q : BitVec 8) : State :=
  let waiting : List (BitVec 17 × Thread × Op) :=
    s.threads.flatMap (fun t => t.ops.map (fun o => (t.hwid, t, o))) ++ s.queues.orphans.map (fun x => (orphanId, x.2.1, x.2.2))
  waiting.foldl (fun (s : State) w =>
    match w.2.2.kind with
    | .submit q' res x n => if q' = q ∧ s.slotFree q res then s.submitGo w.1 w.2.1 w.2.2.gen q res x n else s
    | _ => s) s

/-- The queue admits packets of an ASID (R351). -/
def State.queueAdmits (s : State) (q : BitVec 8) (asid : BitVec 16) : Bool :=
  let e := s.queueEntry q
  e.1.getLsbD 63 && e.1.getLsbD 62 && e.2.extractLsb' 0 16 == asid

/-- A SUBMIT that is admitted (R348): it waits for the thread's earlier stores, a release at MODULE scope; it reserves a slot with
an atomic add, opens its handle, and where the slot is free the packet goes out; where it is not the operation waits for it. -/
def State.submitNow (s : State) (d : BitVec 6) (q : BitVec 8) (x : Word) (n : Nat) : Out :=
  let gen := s.nextGen
  let base := queueBase (s.queueEntry q).1
  if s.coveredOut s.th none then .next s
  else if s.queueShut base 16 then .next (s.rouseQueue base 16)
  else
  let r := s.reserveSlot q
  let u := r.1.startOp (.s d) 5 s.insn (.submit q r.2 x n)
  (if u.slotFree q r.2 then u.submitGo s.th.hwid u.th gen q r.2 x n else u).retire

/-- The checks of SUBMIT that need LEN16, `n` (R348): the length, the packet's range, the queue's permission. -/
def State.submitPacket (s : State) (d : BitVec 6) (q : BitVec 8) (x : Word) (n : Nat) : Out :=
  if n < 2 ∨ 16 < n then s.perm 0x02
  else match s.rangesBad s.th true [(x.toNat, 16 * n)] [] with
    | some e => s.asyncBad e
    | none => if !s.queueAdmits q s.th.asid then s.perm 0x09 else s.submitNow d q x (16 * n)

/-- SUBMIT (R348): the checks in the order of R341, word 0 being read for LEN16; then the reservation. -/
def execSubmit (d a b : BitVec 6) (s : State) : Out :=
  let ps := s.engPlaces s.th.engine false (s.rs a).toNat 8
  if (s.rs b).extractLsb' 8 56 ≠ 0 then s.perm 0x01
  else if (s.rs a).toNat % 16 ≠ 0 then s.trap 0x03 (s.rs a)
  else match s.rangesBad s.th true [((s.rs a).toNat, 16)] [] with
    | some e => s.asyncBad e
    | none =>
      if s.engWaits s.th.engine false [((s.rs a).toNat, 8)] [] then .next (s.rouseEng s.th.engine false [((s.rs a).toNat, 8)] [])
      else match s.dataCheck s.th.engine ps false with
      | .error e => s.failed e
      | .ok _ => s.submitPacket d ((s.rs b).extractLsb' 0 8) (s.rs a) (natOfBytes (s.engRead s.th.engine [] ps).2 % 32)

end Sys2Proof.Machine
end

