-- ==== Sys2Proof/Machine/Counters.lean ====
section
/-! DEFINITION. Completion counters, successor release, the roll-call tree, the end of tasks and gangs, cancellation, EXIT
and YIELD's stop (R31, R35 to R37, R42 to R46, R142, R372 to R376, R383, R384, R404). -/

namespace Sys2Proof.Machine

-- Status words (R36).

/-- The smaller of two causes, 0 being none. -/
def minCause (a b : Nat) : Nat := if a = 0 then b else if b = 0 then a else min a b

/-- Two status words combined (R36). -/
def combineWord (a b : Word) : Word :=
  let f (lo n : Nat) (w : Word) : Nat := w.toNat / 2 ^ lo % 2 ^ n
  statusWord (min (f 0 24 a + f 0 24 b) 0xFFFFFF) (min (f 24 16 a + f 24 16 b) 0xFFFF) (max (f 53 1 a) (f 53 1 b))
    (BitVec.ofNat 8 (minCause (f 45 8 a) (f 45 8 b))) (BitVec.ofNat 5 (f 40 5 a) ||| BitVec.ofNat 5 (f 40 5 b))

-- Completion (R372 to R374).

/-- The progress word of CCNT (R383). -/
def Counter.progress (c : Counter) : Word :=
  BitVec.ofNat 64 (c.state.toNat * 2 ^ 62 + c.closed.toNat * 2 ^ 61 + c.canc.toNat * 2 ^ 60 + c.expect.toNat * 2 ^ 24 + c.ended.toNat)

/-- What a CCNT of a counter answers. -/
def Counter.reading (c : Counter) (progress : Bool) : Word := if progress then c.progress else c.status

/-- Fill the CCNT futures that wait for a counter (R374 step 4, R383). -/
def State.fillCcnt (s : State) (cid : BitVec 12) : State :=
  s.threads.foldl (fun (s : State) t =>
    t.ops.foldl (fun (s : State) o =>
      match o.kind with
      | .ccnt c p => if c = cid then (s.fillWord t.hwid o.gen ((s.ctr cid).reading p)) else s
      | _ => s) s) s

/-- A counter becomes DONE (R374 step 1). -/
def State.ctrDone (s : State) (c : Counter) : State := s.putCtr { (c.setState 2) with donecyc := BitVec.ofNat 64 s.cycle }

/-- A counter's own condition of completion (R374). -/
def Counter.complete (c : Counter) : Bool :=
  match c.level.toNat with
  | 0 => c.ended == c.expect
  | 1 => c.ended == c.expect && c.expect != 0
  | _ => c.closed && c.ended == c.expect

/-- A graph, phase or job counter that meets its condition completes (R374). -/
def State.settleCtr (s : State) (cid : BitVec 12) : State :=
  let c := s.ctr cid
  if c.level ≠ 0 ∧ c.state ≠ 2 ∧ c.complete then (s.ctrDone c).fillCcnt cid else s

/-- A graph, phase or job counter receives a launch's final word (R374 step 2). -/
def State.countUp (s : State) (cid : BitVec 12) (w : Word) : State :=
  if cid = 0 then s
  else
    let c := s.ctr cid
    (s.putCtr { (c.setEnded (c.ended + 1)) with status := combineWord c.status w }).settleCtr cid

/-- A host write of a counter word, after which the entry may meet its condition (R372, R374). DEDUCED: the condition of
R374 asks for no ACTIVE state, so a phase or job closed while it is IDLE completes at once. -/
def State.hostWriteCtr (s : State) (cid : BitVec 12) (word : Nat) (v : Word) : State :=
  let s := s.writeCtr cid word v
  if (s.ctr cid).valid then s.settleCtr cid else s

-- Successor release (R31).

/-- The physical address of a byte of a job's space, as a walk gives it. -/
def State.walkPA (s : State) (asid : BitVec 16) (va : Nat) : Option Nat := (s.walk asid va).map (fun l => l.pa + va % l.size)

/-- The words at an address of a job, 8-byte aligned. -/
def State.jobWords (s : State) (asid : BitVec 16) (va n : Nat) : List Word :=
  (List.range n).map (fun i => match s.walkPA asid (va + 8 * i) with
    | some pa => BitVec.ofNat 64 (natOfBytes (s.homeBytes pa 8))
    | none => 0)

/-- Copy a released packet into a slot of its queue that it has reserved, with WAITS 0 (R31). A LEN16 outside 2 to 16 has no
packet length: 16 x min(LEN16, 16) bytes are copied, none for 0, so that the slot stays empty (DESIGN CHOICE, log entry
105). -/
def State.copySuccessor (s : State) (x : Release) : State :=
  let va := (x.handle.extractLsb' 0 48).toNat
  let n := pkLen16 (s.jobWords x.asid va 1)
  let p := s.jobWords x.asid va (2 * min n 16)
  let p := p.set 2 (pkW p 2 &&& 0x800FFFFFFFFFFFFF)
  (s.placePacket x.q x.index (p.flatMap (fun w => bytesOfNat 8 w.toNat))).ring x.q

/-- The home of some words of a job cannot serve a reader now, or the walker to them waits (R22). -/
def State.jobShut (s : State) (asid : BitVec 16) (va n : Nat) : Bool :=
  (List.range ((n + 7) / 8)).any (fun i => (s.walkStop asid (va + 8 * i)).isSome
    || (s.walk asid (va + 8 * i)).any (fun l => s.homeShut (lineOf (l.pa + (va + 8 * i) % l.size)) l.home))

/-- The layers that a reader of some words of a job needs are woken (R22). -/
def State.rouseJob (s : State) (asid : BitVec 16) (va n : Nat) : State :=
  (List.range ((n + 7) / 8)).foldl (fun (s : State) i =>
    match s.walkStop asid (va + 8 * i), s.walk asid (va + 8 * i) with
    | some _, _ => s.rouseWalk asid (va + 8 * i)
    | none, some l => if isHbm (BitVec.ofNat 52 l.pa) then s.rouse l.home else s
    | none, none => s) s

/-- The address and the length in bytes of a released packet in its job's space. -/
def State.releaseSrc (s : State) (x : Release) : Nat × Nat :=
  let va := (x.handle.extractLsb' 0 48).toNat
  (va, 16 * max 1 (min (pkLen16 (s.jobWords x.asid va 1)) 16))

/-- A released packet cannot be copied now: the home of its words, or of its slot, serves nothing (R22). -/
def State.releaseShut (s : State) (x : Release) : Bool :=
  s.jobShut x.asid (s.releaseSrc x).1 (s.releaseSrc x).2 || s.queueShut (s.slotAddr x.q x.index) 256

/-- A released packet that waits for a home wakes the layers it needs, and the queue's reader comes back to it. -/
def State.releaseRouse (s : State) (x : Release) : State :=
  ((s.rouseJob x.asid (s.releaseSrc x).1 (s.releaseSrc x).2).rouseQueue (s.slotAddr x.q x.index) 256).sendOnce (.launchPacket x.q)

/-- Put a released packet into its queue (R31, R326): it reserves a slot, and waits where the slot is not free, or for a home. A
queue that is not VALID takes nothing. -/
def State.enqueueSuccessor (s : State) (asid : BitVec 16) (h : Word) : State :=
  let q : BitVec 8 := h.extractLsb' 48 8
  if !(s.queueEntry q).1.getLsbD 63 then s
  else
    let r := s.reserveSlot q
    let x : Release := ⟨asid, h, q, r.2⟩
    let waiting : State := { r.1 with queues := { r.1.queues with releases := r.1.queues.releases ++ [x] } }
    if !r.1.slotFree q r.2 then waiting
    else if r.1.releaseShut x then waiting.releaseRouse x
    else r.1.copySuccessor x

/-- The released packets that wait for a slot of a queue, or for a home, and need wait no more (R22, R326). -/
def State.serveReleases (s : State) (q : BitVec 8) : State :=
  let mine := s.queues.releases.filter (fun x => x.q == q && s.slotFree q x.index)
  let go := mine.filter (fun x => !s.releaseShut x)
  let s := go.foldl (fun (s : State) x => s.copySuccessor x)
    { s with queues := { s.queues with releases := s.queues.releases.filter (fun x => !go.contains x) } }
  (mine.filter (fun x => !go.contains x)).foldl (fun (s : State) x => s.releaseRouse x) s

/-- Release a successor (R31): one atomic decrement of WAITS at its home, with DOOMED set when the predecessor failed; a packet
whose WAITS is zero is copied. One whose WAITS is zero already is copied as it stands: the rule does not say what the decrement
then does (DESIGN CHOICE, log entry 106). A handle whose page is not mapped releases nothing. -/
def State.releaseSuccessor (s : State) (asid : BitVec 16) (h : Word) (doomed : Bool) : State :=
  let va := (h.extractLsb' 0 48).toNat
  match s.walk asid (va + 16) with
  | none => s
  | some l =>
    let pa := l.pa + (va + 16) % l.size
    let line : BitVec 52 := BitVec.ofNat 52 (lineOf pa)
    let s := (s.takeTurn (some (.event (.successorRelease asid h doomed))) [lineOf pa]).atHome
      (decide (l.cls = 0 ∨ l.cls = 1)) .atom line l.home 0
    let w := Memory.read64 s.mem pa
    let waits := (w.extractLsb' 52 11).toNat
    if waits = 0 then s.enqueueSuccessor asid h
    else
      let w' := (w - 0x0010000000000000) ||| (if doomed then 0x8000000000000000 else 0)
      let s := { s with mem := Memory.write64 s.mem pa w' }
      if waits = 1 then s.enqueueSuccessor asid h else s

/-- The line a release decrements in, with its home die: none when its page is not mapped. -/
def State.succLine (s : State) (asid : BitVec 16) (h : Word) : Option (Nat × BitVec 6) :=
  let va := (h.extractLsb' 0 48).toNat + 16
  (s.walk asid va).map (fun l => (lineOf (l.pa + va % l.size), l.home))

/-- The base of the queue a released packet goes to, where the queue is VALID. -/
def State.succQueue (s : State) (h : Word) : Option Nat :=
  let e := (s.queueEntry (h.extractLsb' 48 8)).1
  if e.getLsbD 63 then some (queueBase e) else none

/-- A release waits (R22, R295): for its walker, at the packet's home, or at the queue's. -/
def State.succWaits (s : State) (asid : BitVec 16) (h : Word) (doomed : Bool) : Bool :=
  (s.walkStop asid ((h.extractLsb' 0 48).toNat + 16)).isSome
    || (s.succLine asid h).any (fun x => s.homeHolds (some (.event (.successorRelease asid h doomed))) false x.1 x.2)
    || (s.succQueue h).any (fun b => s.queueShut b 16)

/-- A release that waits wakes the layers it needs, takes its place at its home, and comes back. -/
def State.succRouse (s : State) (asid : BitVec 16) (h : Word) (doomed : Bool) : State :=
  let w : Option Waiter := some (.event (.successorRelease asid h doomed))
  let s := s.rouseWalk asid ((h.extractLsb' 0 48).toNat + 16)
  let s := match s.succLine asid h with
    | some x => s.linesQueue w [x] (fun l => .getu ⟨BitVec.ofNat 52 l, 0, 31, 3, 0⟩)
    | none => s
  let s := match s.succQueue h with
    | some b => s.rouseQueue b 16
    | none => s
  s.send (.successorRelease asid h doomed)

/-- Release successors in packet order (R31): the first that must wait keeps back those behind it. -/
def State.releaseList (s : State) (asid : BitVec 16) (doomed : Bool) : List Word → State × List Word
  | [] => (s, [])
  | h :: r =>
    if s.succWaits asid h doomed then (s.succRouse asid h doomed, h :: r)
    else (s.releaseSuccessor asid h doomed).releaseList asid doomed r

/-- Release successors in packet order, then fill the CCNT futures of a launch counter (R31, R374). -/
def State.releaseAll (s : State) (x : Succs) : State :=
  let r := s.releaseList x.asid x.doomed x.handles
  if r.2.isEmpty then (if x.cid = 0 then r.1 else r.1.fillCcnt x.cid)
  else { r.1 with queues := { r.1.queues with succs := r.1.queues.succs ++ [{ x with handles := r.2 }] } }

/-- SUCCESSOR_RELEASE (R31): a release that waited goes on, with those behind it; or a release of its own. -/
def execSuccessorRelease (asid : BitVec 16) (h : BitVec 64) (doomed : Bool) (s : State) : Out :=
  match s.queues.succs.find? (fun x => x.asid == asid && x.doomed == doomed && x.handles.head? == some h) with
  | some x => .next (State.releaseAll { s with queues := { s.queues with succs := s.queues.succs.erase x } } x)
  | none => .next (s.releaseAll ⟨asid, doomed, [h], 0⟩)

-- Launches (R37, R374).

/-- LAUNCHID of a launch: ASID and CLAUNCH (R116). -/
def Launch.id (r : Launch) : BitVec 28 := r.asid ++ pkLaunch r.packet

/-- The gangs that have ended or been dropped (R37). -/
def Launch.endedGangs (r : Launch) : Nat :=
  (r.gangs.filter (fun g => g.state == .ended || g.state == .dropped)).length
    + (if r.canc then (pkNGang r.packet).toNat - r.gangs.length else 0)

/-- A report of a task of a gang is still to be sent, on its way, or held in a node (R35). -/
def State.reporting (s : State) (l : BitVec 16) (g : BitVec 24) : Bool :=
  (s.counters.roll ++ s.counters.rollSent).any (fun a => a.lrec == l && a.gangs.contains g)
    || s.threads.any (fun t => t.lrec == l && t.ended && t.gangid.extractLsb' 0 24 == g)

/-- The gangs that have ended or been dropped and whose tasks' words have all reached the launch counter (R35, R37; log entry
66). -/
def State.countedGangs (s : State) (r : Launch) : Nat :=
  r.endedGangs - (r.gangs.filter (fun g => (g.state == .ended || g.state == .dropped) && s.reporting r.lrec g.idx)).length

/-- A slot's record names a launch. -/
def State.slotLaunch (s : State) (k : TSlot) : Option (BitVec 16) :=
  if k.w0.getLsbD 63 then
    (s.tables.launchE.find? (fun e => e.die == k.die && e.lent == k.w0.extractLsb' 57 6)).map (·.lrec)
  else none

/-- The checks of the records of a completed launch fail with reason 0x01 (R354, R370). -/
def State.rejectPending (s : State) (l : BitVec 16) : State :=
  { s with tables := { s.tables with slots := s.tables.slots.map (fun k =>
      if k.state == .pending && s.slotLaunch k == some l then { k with state := .rejected, reason := 0x01 } else k) } }

/-- The last steps of a launch whose counter completes (R374, R378): the counter is DONE, the word is forwarded, the
successors are released, as doomed after a fault or a cancel (R31, R46), CCNT futures fill; its barrier cells become
FREE. -/
def State.finishLaunch (s : State) (r : Launch) : State :=
  let c := s.ctr (pkLaunch r.packet)
  let w := c.status
  let bad := w.extractLsb' 24 16 != 0 || w.getLsbD 53 || r.canc
  let s := (s.ctrDone (c.setEnded (pkNGang r.packet))).putLaunch { r with live := false }
  let s := State.rejectPending { s with counters := { s.counters with cells := s.counters.cells.filter (fun x => x.owner != r.id) } } r.lrec
  let s := ((s.countUp (pkGraph r.packet) w).countUp (pkPhase r.packet) w).countUp (pkJob r.packet) w
  s.releaseAll ⟨r.asid, bad, pkSuccs r.packet, pkLaunch r.packet⟩

/-- Bring ENDED of a launch counter up to date: a gang counts when its tasks' words are in (log entry 66). The launch completes
when every gang has ended or been dropped and no thread of it is left. -/
def State.checkLaunch (s : State) (l : BitVec 16) : State :=
  match s.launch? l with
  | none => s
  | some r =>
    if !r.live then s
    else if s.countedGangs r = (pkNGang r.packet).toNat then (if s.threads.any (·.lrec == l) then s else s.finishLaunch r)
    else s.putCtr ((s.ctr (pkLaunch r.packet)).setEnded (BitVec.ofNat 24 (s.countedGangs r)))

/-- A word of a launch leaves for a node (R35). -/
def State.sendRoll (s : State) (a : RollAcc) : State :=
  State.send { s with counters := { s.counters with rollSent := s.counters.rollSent ++ [a] } } (.rollcallStatusWord a.lrec a.node a.word)

/-- A word of a launch has reached a node: the gangs whose tasks it counts. -/
def State.takeRoll (s : State) (l : BitVec 16) (n : RollNode) (w : Word) : State × List (BitVec 24) :=
  match s.counters.rollSent.find? (fun a => a.lrec == l && a.node == n && a.word == w) with
  | some a => ({ s with counters := { s.counters with rollSent := s.counters.rollSent.erase a } }, a.gangs)
  | none => (s, [])

-- The roll-call tree (R35).

/-- The parent of a node. -/
def rollParent : RollNode → RollNode
  | .core n =>
    if n.toNat < 16384 then .group (BitVec.ofNat 11 (n.toNat / 16))
    else .group (BitVec.ofNat 11 (1024 + 4 * ((n.toNat - 16384) / 8) + (n.toNat - 16384) % 8 / 2))
  | .group n =>
    if n.toNat < 1024 then .quadrant (BitVec.ofNat 8 (n.toNat / 4))
    else .quadrant (BitVec.ofNat 8 (n.toNat - 1024))
  | .quadrant n => .die (BitVec.ofNat 6 (n.toNat / 4))
  | .die n => .stack (BitVec.ofNat 3 (n.toNat / 8))
  | .stack _ => .launch
  | .launch => .launch

/-- A node and the nodes above it. -/
def rollChain (n : RollNode) : List RollNode :=
  let a := rollParent n
  let b := rollParent a
  let c := rollParent b
  let d := rollParent c
  [n, a, b, c, d, rollParent d]

/-- The core node of a thread. -/
def coreNode (h : BitVec 17) : RollNode := .core (coreOf h)

/-- A node has what it waits for (R35): no thread of the launch below it still to report, no bind record of it pending
there, and no word on its way below. Records of a cancelled launch can no longer bind and hold nothing back (log entry
22). -/
def State.nodeReady (s : State) (l : BitVec 16) (n : RollNode) : Bool :=
  !(s.threads.any (fun t => t.lrec == l && (rollChain (coreNode t.hwid)).contains n)
    || s.tables.slots.any (fun k => k.state == .pending && s.slotLaunch k == some l && (s.launch? l).any (!·.canc)
        && (rollChain (coreNode (hwidOfSlot k.die k.slot))).contains n)
    || s.counters.roll.any (fun a => a.lrec == l && a.node != n && (rollChain a.node).contains n)
    || s.pending.any (fun e => match e with
        | .rollcallStatusWord x m _ => x == l && m != .launch && (rollChain m).contains n
        | _ => false))

/-- Forward the accumulators of a launch whose nodes are ready (R35). -/
def State.rollScan (s : State) (l : BitVec 16) : State :=
  s.counters.roll.foldl (fun (s : State) a =>
    if a.lrec = l ∧ s.nodeReady l a.node then
      State.sendRoll { s with counters := { s.counters with roll := s.counters.roll.filter (fun x => !(x.lrec == l && x.node == a.node)) } }
        { a with node := rollParent a.node }
    else s) s

/-- ROLLCALL_STATUS_WORD (R35): a node combines the word and forwards when complete; the launch counter combines. -/
def execRollcallStatusWord (l : BitVec 16) (n : RollNode) (w : BitVec 64) (s : State) : Out :=
  let (s, gs) := s.takeRoll l n w
  match n with
  | .launch =>
    match s.launch? l with
    | none => .next s
    | some r =>
      if r.live then
        let c := s.ctr (pkLaunch r.packet)
        .next ((s.putCtr { c with status := combineWord c.status w }).checkLaunch l)
      else .next s
  | _ =>
    let old := (s.counters.roll.find? (fun x => x.lrec == l && x.node == n)).getD ⟨l, n, 0, []⟩
    let s := { s with counters := { s.counters with
      roll := ⟨l, n, combineWord old.word w, old.gangs ++ gs⟩ :: s.counters.roll.filter (fun x => !(x.lrec == l && x.node == n)) } }
    .next (s.rollScan l)

-- Slots, pools and guest tiles of a thread that leaves (R35, R187, R218, R356, R369).

/-- A timetable slot, FREE without a record. -/
def State.slot (s : State) (d : BitVec 6) (k : BitVec 11) : TSlot :=
  (s.tables.slots.find? (fun x => x.die == d && x.slot == k)).getD ⟨d, k, 0, 0, 0, 0, .free, 0⟩

/-- Put a slot; a FREE one keeps no record. -/
def State.putSlot (s : State) (x : TSlot) : State :=
  let rest := s.tables.slots.filter (fun y => !(y.die == x.die && y.slot == x.slot))
  { s with tables := { s.tables with slots := if x.state = .free then rest else x :: rest } }

/-- Make the slot of a thread FREE. -/
def State.freeSlot (s : State) (h : BitVec 17) : State := s.putSlot { s.slot (dieOf h) (slotOf h) with state := .free }

/-- The last thread of a launch leaves a pool (R218, R220): dirty mapped lines are written back, the map is cleared. -/
def State.leavePool (s : State) (d : BitVec 6) (p : BitVec 5) : State :=
  let s := (s.caches.stashLines.filter (fun r => r.die == d && r.pool == p)).foldl (fun (s : State) r => s.stashLeave r) s
  { s with caches := { s.caches with
      stashMaps := s.caches.stashMaps.filter (fun m => !(m.die == d && m.pool == p))
      pools := s.caches.pools.filter (fun u => !(u.die == d && u.pool == p)) } }

/-- A thread leaves its slot: what the module holds in its name goes, its pool is left when it was the last there, its
guest tiles are discarded, the MIGRATE mark goes with the last privileged thread (R369). -/
def State.leave (s : State) (t : Thread) : State :=
  let h := t.hwid
  let s := ((s.releaseNames h).dropThread h).freeSlot h
  let s := { s with queues := { s.queues with guestTiles := s.queues.guestTiles.filter (·.hwid != h) } }
  let s := if s.threads.any (fun u => dieOf u.hwid == dieOf h && poolOf u.hwid == poolOf h) then s else s.leavePool (dieOf h) (poolOf h)
  if isB h && !s.threads.any (fun u => isB u.hwid && u.priv && bcoreOf u.hwid == bcoreOf h) then
    s.putBCore (bcoreOf h) { s.bcore (bcoreOf h) with migrate := false }
  else s

-- Gangs (R43 to R45, R355, R404).

/-- The live threads of a gang. -/
def State.gangThreads (s : State) (l : BitVec 16) (g : BitVec 24) : List Thread :=
  s.threads.filter (fun t => t.lrec == l && t.gangid.extractLsb' 0 24 == g)

/-- The index of a thread's task within its gang (R117). -/
def Thread.tig (t : Thread) : BitVec 7 := (t.geompos.extractLsb' 32 6).zeroExtend 7

/-- The resume record of a task, as before its first stop when there is none (R404). -/
def Gang.record (g : Gang) (k : BitVec 7) : Resume := (g.resume.find? (·.task == k)).getD ⟨k, 0, 0, 0⟩

/-- Put a resume record. -/
def Gang.putRecord (g : Gang) (r : Resume) : Gang := { g with resume := r :: g.resume.filter (·.task != r.task) }

/-- A gang re-enters its launch's queue of unfinished gangs, behind those that re-entered before it (R43, R355). -/
def Launch.reenter (r : Launch) (g : Gang) : Launch :=
  { r with gangs := { g with state := .reentered, preempt := none, started := none } :: r.gangs.filter (fun x => x.idx != g.idx) }

/-- Change a gang of a launch. -/
def State.withGang (s : State) (l : BitVec 16) (k : BitVec 24) (f : Gang → Gang) : State :=
  match s.launch? l with
  | some r => s.putLaunch (r.putGang (f (r.gang k)))
  | none => s

/-- The gang index of a thread. -/
def Thread.gangIdx (t : Thread) : BitVec 24 := t.gangid.extractLsb' 0 24

/-- The nodes that hold words of a launch forward those that nothing holds back any more, and its counter looks again (R35,
R37). -/
def State.rollOn (s : State) (l : BitVec 16) : State := (s.rollScan l).checkLaunch l

/-- When every thread of a gang that still has one has stopped, they become free and the gang re-enters the launch's queue
(R43); when none is left, it has ended. -/
def State.gangSettle (s : State) (l : BitVec 16) (k : BitVec 24) : State :=
  let ts := s.gangThreads l k
  if ts.isEmpty then
    match s.launch? l with
    | none => s
    | some r =>
      let g := r.gang k
      (if g.resume.any (·.state == 1) then s.putLaunch (r.reenter g)
      else if g.state = .dropped then s
      else s.putLaunch (r.putGang { g with state := .ended, preempt := none, started := none })).rollOn l
  else if ts.all (fun t => decide (t.wait = .stopped)) then
    let s := ts.foldl (fun (s : State) t => s.leave t) s
    (match s.launch? l with
    | some r => s.putLaunch (r.reenter (r.gang k))
    | none => s).rollOn l
  else s

/-- TASK_EXIT_REPORT (R35, R142, R374, R399): when the thread's stores are performed, to the mirrors of the bell too, and what its
host B-core does for it is done, the status word goes to the core node, the thread and its slot become free. A participant whose fork a fatal fault has
ended reports nothing (R39). -/
def execTaskExitReport (h : BitVec 17) (s : State) : Out :=
  match s.thread? h with
  | none => .next s
  | some t =>
    let word : Option (Option Word) := match t.wait with
      | .exiting => some (some (statusWord 1 0 0 0 t.reportFlags))
      | .faulted w => some (some w)
      | .cancelled w => some (some w)
      | .dropped => some none
      | _ => none
    match word with
    | none => .next s
    | some w =>
      let s := s.drain h t.buf.length
      if !t.ops.isEmpty || s.beatsOut h || (s.thread? h).any (fun t => !t.buf.isEmpty) then .next (s.send (.taskExitReport h))
      else
        let s := s.leave t
        let s := match w with
          | some w => (s.withGang t.lrec t.gangIdx (fun g => g.putRecord { g.record t.tig with state := 2 })).sendRoll
              ⟨t.lrec, coreNode h, w, [t.gangIdx]⟩
          | none => s.rollOn t.lrec
        .next ((s.realignSettle t).gangSettle t.lrec t.gangIdx)

/-- The refusal to be raised first at an EXIT or a stopping YIELD: the oldest in program order (R254, R344). -/
def Thread.oldestRefusal (t : Thread) : Option Refused :=
  (t.refused.filter (fun f => f.cause != 0x09)).foldl (fun a f => match a with
    | none => some f
    | some x => if (t.opGen - x.gen).toNat < (t.opGen - f.gen).toNat then some f else some x) none

/-- TASK_STOP (R43): when a stopping task's operations have completed, a refusal still to be raised is raised at the YIELD,
else the resume record is written. -/
def execTaskStop (h : BitVec 17) (s : State) : Out :=
  match s.thread? h with
  | none => .next s
  | some t =>
    match t.wait with
    | .stopping v =>
      let s := s.drain h t.buf.length
      if !t.ops.isEmpty || !t.held.isEmpty || s.bellOut h 5 || (s.thread? h).any (fun t => !t.buf.isEmpty) then
        .next (s.send (.taskStop h))
      else match t.oldestRefusal with
        | some f =>
          .next (s.deliver { t with wait := .none, buf := [], refused := t.refused.erase f }
            ⟨f.cause, f.tval, false, 0, t.groupStart, (s.fetchWord t).getD 0, t.repLeftNow⟩)
        | none =>
          let s := s.withGang t.lrec t.gangIdx (fun g =>
            let r := g.record t.tig
            g.putRecord { r with value := v, state := 1, flags := r.flags ||| t.flags })
          let s := s.putThread { t with wait := .stopped, buf := [] }
          let s := s.putSlot { s.slot (dieOf h) (slotOf h) with state := .stopping }
          .next ((s.realignSettle { t with wait := .stopped }).gangSettle t.lrec t.gangIdx)
    | _ => .next s

-- EXIT and joins (R39, R142, R382).

/-- The join of R39 for a participant whose operations have completed: the state in which it falls through, with P, or in
which it has ended. -/
def State.join (s : State) (t : Thread) (f : Fork) : State × Option (BitVec 7) :=
  let mine (j : JoinCell) : Bool := j.die == f.die && j.pool == f.pool && j.cell == f.cell
  match s.counters.joins.find? mine with
  | none => (s.putThread { t with fork := none }, some 1)
  | some j =>
    let fl := j.flags ||| t.flags
    if j.count ≤ 1 then
      let s := { s with counters := { s.counters with joins := s.counters.joins.filter (fun x => !mine x) } }
      let t := { t with fcsr := (t.fcsr &&& 0xFFFFFFFFFFFFFFE0) ||| fl.zeroExtend 64, fork := none, innerFork := 0 }
      ((s.putThread t).discardCopies t (fun _ => true), some j.parts)
    else
      let s := { s with counters := { s.counters with
        joins := s.counters.joins.map (fun x => if mine x then { x with count := x.count - 1, flags := fl } else x) } }
      (((s.leave t).rollScan t.lrec).realignSettle t, none)

/-- EXIT (R142, R254, R344): it waits until the thread's operations and held stores are done, raises the refusals still
held, performs the join of an open fork, and reports. -/
def execExitTask (s : State) : Out :=
  let t := s.th
  if !t.ops.isEmpty || !t.held.isEmpty || !t.buf.isEmpty || s.bellOut t.hwid 5 then .next s
  else match t.oldestRefusal with
    | some f => State.trap { s with th := { t with refused := t.refused.erase f } } f.cause f.tval
    | none =>
      let go (s : State) : Out := .next (({ s with th := { s.th.count with wait := .exiting } }.send (.taskExitReport t.hwid)).realignSettle t)
      match t.fork with
      | none => go s
      | some f =>
        match s.join t f with
        | (s, some _) => go s
        | (s, none) => .next s

/-- JOINC (R382). -/
def execJoinc (d : BitVec 6) (s : State) : Out :=
  let t := s.th
  if !t.ops.isEmpty || !t.held.isEmpty || !t.buf.isEmpty then .next s
  else if t.innerFork ≠ 0 then (State.ws { s with th := { t with innerFork := t.innerFork - 1 } } d 1).retire
  else match t.fork with
    | none => (s.ws d 1).retire
    | some f =>
      match s.join t f with
      | (s, some p) => (s.ws d (p.zeroExtend 64)).retire
      | (s, none) => .next s

-- Cancellation (R46, R384).

/-- Cancel the tasks of some threads (R46): each reports cancelled with its flags; of a fork one participant reports. A
task that has ended already, an EXIT that has drained among them, stands (R47). A cancel falls before a group's first word or
between two of its repeats, so that the prefix words of a group whose instruction has not issued have not either (R68). -/
def State.cancelThreads (s : State) (ts : List Thread) : State :=
  ((ts.filter (fun t => !t.ended)).map (fun t => { t with instret := t.wholeCount })).foldl (fun (s : State) t =>
    let sameFork (u : Thread) : Bool := decide (u.fork.map (fun g => (g.die, g.pool, g.cell)) = t.fork.map (fun g => (g.die, g.pool, g.cell)))
    let later := match t.fork with
      | some f => ts.any (fun u => sameFork u && (match u.fork with | some g => decide (g.part.toNat < f.part.toNat) | none => false))
      | none => false
    if later then s.endTask { t with fork := none } .dropped
    else
      let s := match t.fork with
        | some f => { s with counters := { s.counters with joins := s.counters.joins.filter (fun j => !(j.die == f.die && j.pool == f.pool && j.cell == f.cell)) } }
        | none => s
      s.endTask { t with fork := none } (.cancelled (statusWord 0 0 1 0 t.reportFlags))) s

/-- The word of a stopped task that is dropped (R36). -/
def droppedWord (r : Resume) : Word := statusWord 0 0 1 0 r.flags

/-- Cancel a launch (R46, R355, R384): its counter takes CANC, gangs that have not bound are dropped, their stopped tasks
report, its threads stop. -/
def State.cancelLaunch (s : State) (r : Launch) : State :=
  if !r.live then s
  else
    let s := s.putCtr ((s.ctr (pkLaunch r.packet)).setBit 57)
    let unbound (g : Gang) : Bool := g.state != .ended && g.state != .dropped && (s.gangThreads r.lrec g.idx).isEmpty
    let words := (r.gangs.filter unbound).flatMap (fun g => (g.resume.filter (·.state == 1)).map (fun x => (g.idx, droppedWord x)))
    let gangs := r.gangs.map (fun g => if unbound g then { g with state := .dropped, preempt := none } else g)
    let s := s.putLaunch { r with canc := true, gangs }
    let s := words.foldl (fun (s : State) w => s.sendRoll ⟨r.lrec, .launch, w.2, [w.1]⟩) s
    (s.cancelThreads (s.threads.filter (·.lrec == r.lrec))).rollOn r.lrec

/-- A launch is counted at a counter (R46). -/
def Launch.countedAt (r : Launch) (c : Counter) : Bool :=
  r.asid == c.asid &&
    match c.level.toNat with
    | 0 => pkLaunch r.packet == c.cid
    | 1 => pkGraph r.packet == c.cid
    | 2 => pkPhase r.packet == c.cid
    | _ => pkJob r.packet == c.cid

/-- Cancel the level of a counter (R46, R384), and whether the cancel had an effect. -/
def State.cancelLevel (s : State) (cid : BitVec 12) : State × Bool :=
  let c := s.ctr cid
  match c.state.toNat with
  | 0 => (((s.ctrDone { (c.setBit 57) with status := statusWord 0 0 1 0 0 })).fillCcnt cid, true)
  | 1 =>
    let s := s.putCtr (c.setBit 57)
    ((s.launches.filter (fun r => r.live && r.countedAt c)).foldl (fun (s : State) r =>
      match s.launch? r.lrec with | some r => s.cancelLaunch r | none => s) s, true)
  | _ => (s, false)

/-- The checks of a counter operand (R383). -/
def State.ctrCheck (s : State) (x : Word) : Option (BitVec 8) :=
  if x.extractLsb' 12 52 ≠ 0 then some 0x01
  else
    let c := s.ctr (x.extractLsb' 0 12)
    if !c.valid || c.asid != s.th.asid then some 0x03 else none

/-- CCNT (R383). -/
def execCcnt (d a b : BitVec 6) (s : State) : Out :=
  let x := s.rs a
  let y := s.rs b
  let cid : BitVec 12 := x.extractLsb' 0 12
  let p := y.getLsbD 1
  match s.ctrCheck x with
    | some r => s.perm r
    | none =>
      if y.extractLsb' 2 62 ≠ 0 then s.perm 0x01
      else if y.getLsbD 0 then
        let gen := s.nextGen
        let s := s.startOp (.s d) 5 s.insn (.ccnt cid p)
        (if (s.ctr cid).state = 2 then (s.fillWord s.th.hwid gen ((s.ctr cid).reading p)) else s).retire
      else (s.ws d ((s.ctr cid).reading p)).retire

/-- CANCEL (R384): it retires when the cancel is recorded; a thread of the level stops after it. -/
def execCancelCounter (d a : BitVec 6) (s : State) : Out :=
  let x := s.rs a
  match s.ctrCheck x with
  | some r => s.perm r
  | none =>
    let cid : BitVec 12 := x.extractLsb' 0 12
    let s := s.ws d (if (s.ctr cid).state = 2 then 0 else 1)
    .next (State.cancelLevel { s with th := s.th.retire } cid).1

/-- HOST_CANCEL (R46): as CANCEL, for the host driver. -/
def execHostCancel (cid : BitVec 12) (s : State) : Out :=
  if (s.ctr cid).valid then .next (s.cancelLevel cid).1 else .next s

-- Pre-emption (R43, R45).

/-- Raise a pre-emption request against a bound gang (R43): one already pending stands; REALIGN waits end. -/
def State.raisePreempt (s : State) (l : BitVec 16) (k : BitVec 24) : State :=
  match s.launch? l with
  | none => s
  | some r =>
    let g := r.gang k
    if g.preempt.isSome || (s.gangThreads l k).isEmpty then s
    else
      (s.putLaunch (r.putGang { g with preempt := some s.cycle })).mapThreads (fun t =>
        if t.lrec == l && t.gangIdx == k then (match t.wait with | .realign _ _ _ => { t with wait := .none } | _ => t) else t)

/-- SLICE_EXPIRY (R43): the slice of a bound gang is over. -/
def execSliceExpiry (l : BitVec 16) (k : BitVec 24) (s : State) : Out :=
  match s.launch? l with
  | none => .next s
  | some r =>
    match (r.gang k).started with
    | some c =>
      if pkSlice r.packet ≠ 0 ∧ c + pkSlice r.packet * cyclesPerUs ≤ s.cycle then
        .next ((s.withGang l k (fun g => { g with started := none })).raisePreempt l k)
      else .next s
    | none => .next s

/-- A task has reached a boundary: it has ended, has stopped, or has come to a YIELD at which it stops (R43, R45, R47). -/
def Thread.boundaryReached (t : Thread) : Bool :=
  t.ended || (match t.wait with | .stopping _ | .stopped => true | _ => false)

/-- GRACE_EXPIRY (R45): a gang with a task that has not reached a boundary is cancelled, its stopped tasks with it. When the
last one has reached it the gang is pre-empted (R47). -/
def execGraceExpiry (l : BitVec 16) (k : BitVec 24) (s : State) : Out :=
  match s.launch? l with
  | none => .next s
  | some r =>
    match (r.gang k).preempt with
    | some c =>
      if graceEnd r c ≤ s.cycle ∧ (s.gangThreads l k).any (fun t => !t.boundaryReached) then
        let s := s.withGang l k (fun g => { g with preempt := none, resume := g.resume.map (fun x =>
          if x.state = 1 then { x with state := 0 } else x) })
        .next (s.cancelThreads (s.gangThreads l k))
      else .next s
    | none => .next s

end Sys2Proof.Machine
end

