-- ==== Sys2Proof/Machine/Barrier.lean ====
section
/-! DEFINITION. Barrier cells, the bell's slots and frames, and range forks (R38, R39, R327, R328, R367, R377 to R382). -/

namespace Sys2Proof.Machine

-- Barrier cells (R377 to R380).

/-- The slots at a cell's level (R378). -/
def CellId.slots : CellId → Nat
  | .cls _ _ _ => 64
  | .bpair _ _ _ => 8
  | .die _ _ => 1056
  | .stack _ _ => 8448
  | .master _ _ => 8448

/-- A thread's slot at a cell's level (R378). -/
def CellId.me (c : CellId) (h : BitVec 17) : BitVec 14 :=
  match c with
  | .cls _ _ _ => BitVec.ofNat 14 (h.toNat % 64)
  | .bpair _ _ _ => BitVec.ofNat 14 (h.toNat % 8)
  | .die _ _ => (slotOf h).zeroExtend 14
  | _ => BitVec.ofNat 14 (1056 * (layerOf (dieOf h)).toNat + (slotOf h).toNat)

/-- The cell operand (R377): the cell of the thread's own class, die or stack, or a reason. -/
def cellOf (h : BitVec 17) (x : Word) : Except (BitVec 8) CellId :=
  let i := (x.extractLsb' 0 6).toNat
  if x.extractLsb' 10 54 ≠ 0 ∨ x.extractLsb' 6 2 ≠ 0 then .error 0x01
  else match (x.extractLsb' 8 2).toNat with
    | 0 =>
      if 16 ≤ i then .error 0x02
      else .ok (if isB h then .bpair (dieOf h) (quadOf h) (BitVec.ofNat 4 i) else .cls (dieOf h) (BitVec.ofNat 4 (poolOf h).toNat) (BitVec.ofNat 4 i))
    | 1 => .ok (.die (dieOf h) (BitVec.ofNat 6 i))
    | 2 => if 32 ≤ i then .error 0x02 else .ok (.stack (dieOf h) (BitVec.ofNat 5 i))
    | _ => .error 0x02

/-- The state of a cell; none when it is FREE. -/
def State.cell? (s : State) (c : CellId) : Option Cell := s.counters.cells.find? (fun x => decide (x.id = c))

/-- Put a cell's state; none makes it FREE. -/
def State.putCell (s : State) (c : CellId) (x : Option Cell) : State :=
  { s with counters := { s.counters with
      cells := x.toList ++ s.counters.cells.filter (fun y => !decide (y.id = c)) } }

/-- Why a barrier operation is refused (R376, R379). -/
inductive BarBad
  | perm (r : BitVec 8)
  | passed (phase : BitVec 32)
  deriving DecidableEq, Repr

/-- BARI on a cell (R379). -/
def barI (c : CellId) (x : Option Cell) (owner : BitVec 28) (count : BitVec 24) : Except BarBad (Option Cell) :=
  if x.any (fun y => y.owner != owner) then .error (.perm 0x03)
  else if x.any (fun y => y.arrived != 0) then .error (.perm 0x05)
  else if c.slots < count.toNat then .error (.perm 0x02)
  else if count = 0 then .ok none
  else .ok (some ⟨c, owner, count, 0, 0, 0, []⟩)

/-- BARR, or BARD with `drop`, on a cell by slot `me` (R379): the cell afterwards and the PHASE the operation found. -/
def barArrive (x : Option Cell) (owner : BitVec 28) (me : BitVec 14) (drop : Bool) : Except BarBad (Cell × BitVec 32) :=
  match x with
  | none => .error (.perm 0x03)
  | some y =>
    if y.owner ≠ owner then .error (.perm 0x03)
    else if y.expect = 0 ∨ y.drop.contains me then .error (.passed y.phase)
    else
      let z := { y with arrived := y.arrived + 1
                        drops := if drop then y.drops + 1 else y.drops
                        drop := if drop then me :: y.drop else y.drop }
      .ok (if z.arrived = z.expect then
          { z with expect := z.expect - z.drops, arrived := 0, drops := 0, phase := z.phase + 1 } else z, y.phase)

/-- Wake the BARR waiters of a cell whose phase has changed (R379): s[d] is the new PHASE, with an unbound acquire. -/
def State.wakeBarr (s : State) (c : CellId) (phase : BitVec 32) : State :=
  let up := s.threads.filter (fun t => match t.wait with | .barr i _ _ => decide (i = c) | _ => false)
  if up.isEmpty then s
  else (s.dropCopiesOf up).mapThreads (fun t =>
    match t.wait with
    | .barr i _ d => if i = c then { (t.setS d ⟨phase.zeroExtend 64, 0⟩).retire with wait := .none } else t
    | _ => t)

/-- LAUNCHID [27:0] of a thread, as cells hold their owner (R378). -/
def Thread.owner (t : Thread) : BitVec 28 := t.launchid.extractLsb' 0 28

/-- Raise what refuses a barrier operation. -/
def State.barBad (s : State) (x : Word) : BarBad → Out
  | .perm r => s.perm r
  | .passed p => s.trap 0x0A (x ||| (p.zeroExtend 64 <<< 32))

/-- The VALUE of a stack barrier beat (R380). -/
def barBeat (sub : Nat) (i : BitVec 5) (count : BitVec 24) (me : BitVec 14) : Word :=
  BitVec.ofNat 64 (sub * 2 ^ 62 + i.toNat * 2 ^ 48 + count.toNat * 2 ^ 24 + me.toNat)

/-- A barrier operation on a stack cell (R380): a beat, whose application at the local mirror completes the instruction. An
arrival releases the thread's earlier stores first (R379). -/
def State.barStack (s : State) (sub : Nat) (d : BitVec 6) (c : CellId) (count : BitVec 24) : Out :=
  let t := s.th
  let i : BitVec 5 := match c with | .stack _ i => i | _ => 0
  if sub = 0 ∧ 8448 < count.toNat then s.perm 0x02
  else if !s.ownsBellSlot (dieOf t.hwid) t.part then s.perm 0x04
  else if s.bellFull || (sub != 0 && s.coveredOut t none) then .next s
  else
    let s := s.sendBeat 6 0 (barBeat sub i count (c.me t.hwid)) 0
    .next { s with th := { s.th with wait := .beat d } }

/-- BARI (R379, R380). -/
def execBari (a b : BitVec 6) (s : State) : Out :=
  let t := s.th
  let y := s.rs b
  match cellOf t.hwid (s.rs a) with
  | .error r => s.perm r
  | .ok c =>
    if y.extractLsb' 24 40 ≠ 0 then s.perm 0x01
    else match c with
      | .stack _ _ => s.barStack 0 0 c (y.extractLsb' 0 24)
      | _ =>
        match barI c (s.cell? c) t.owner (y.extractLsb' 0 24) with
        | .error e => s.barBad (s.rs a) e
        | .ok x => (s.putCell c x).retire

/-- BARR and BARD on a class or die cell (R379): the arrival releases every earlier store of the thread. -/
def State.barArriveAt (s : State) (d a : BitVec 6) (c : CellId) (drop : Bool) : Out :=
  let t := s.th
  match barArrive (s.cell? c) t.owner (c.me t.hwid) drop with
  | .error e => s.barBad (s.rs a) e
  | .ok (x, phase) =>
   if s.coveredOut t none then .next s
   else
    let s := s.putCell c (some x)
    if drop then
      let s := if x.phase = phase then s else s.wakeBarr c x.phase
      (s.ws d (phase.zeroExtend 64)).retire
    else
      let s := { s with th := { s.th with wait := .barr c phase d } }
      .next (if x.phase = phase then s else s.wakeBarr c x.phase)

/-- An arrival (R379, R380). -/
def State.arrive (s : State) (sub : Nat) (d a : BitVec 6) : Out :=
  match cellOf s.th.hwid (s.rs a) with
  | .error r => s.perm r
  | .ok c =>
    match c with
    | .stack _ _ => s.barStack sub d c 0
    | _ => s.barArriveAt d a c (sub == 2)

/-- BARR (R379). -/
def execBarr (d a : BitVec 6) (s : State) : Out := s.arrive 1 d a

/-- BARD (R379). -/
def execBard (d a : BitVec 6) (s : State) : Out := s.arrive 2 d a

-- The bell (R233, R234, R327, R328, R380).

/-- The dies of a stack. -/
def stackDies (st : BitVec 3) : List (BitVec 6) := (List.range 8).map (fun k => BitVec.ofNat 6 (8 * st.toNat + k))

/-- The word a BST or BAMO leaves (R265). -/
def bellNew (op : BitVec 4) (old v : Word) : Word :=
  match op.toNat with
  | 1 => old + v
  | 2 => if old.slt v then v else old
  | 3 => old ||| v
  | _ => v

/-- A window write applied at a key (R234, R265). -/
def State.bellAt (s : State) (k : Nat) (b : Beat) : State :=
  { s with mem := Memory.write64 s.mem k (bellNew b.op (Memory.read64 s.mem k) b.value) }

/-- Apply a barrier beat to one copy of a stack cell: the state, with waiters of the copy woken, and the answer. -/
def State.barAt (s : State) (c : CellId) (b : Beat) : State × Except BarBad (BitVec 32) :=
  let count : BitVec 24 := b.value.extractLsb' 24 24
  let me : BitVec 14 := b.value.extractLsb' 0 14
  if b.value.extractLsb' 62 2 = 0 then
    match barI c (s.cell? c) b.owner count with
    | .error e => (s, .error e)
    | .ok x => (s.putCell c x, .ok 0)
  else
    match barArrive (s.cell? c) b.owner me (b.value.extractLsb' 62 2 == 2) with
    | .error e => (s, .error e)
    | .ok (x, phase) =>
      let s := s.putCell c (some x)
      (if x.phase = phase then s else s.wakeBarr c x.phase, .ok phase)

/-- The writer of a barrier beat goes on when the beat is applied at its mirror (R380): a refusal is raised there, a BARI or
BARD completes, a BARR waits for the phase or has it. -/
def State.beatDone (s : State) (b : Beat) (r : Except BarBad (BitVec 32)) : State :=
  let idx : BitVec 5 := b.value.extractLsb' 48 5
  let c : CellId := .stack (dieOf b.hwid) idx
  match s.thread? b.hwid with
  | none => s
  | some t =>
    match t.wait with
    | .beat d =>
      let t := { t with wait := .none }
      let raise (code : BitVec 7) (v : Word) : State :=
        s.deliver t ⟨code, v, false, 0, t.groupStart, (s.fetchWord t).getD 0, t.repLeftNow⟩
      match r with
      | .error (.perm x) => raise 0x05 (BitVec.ofNat 64 (((s.fetchWord t).getD 0).toNat * 2 ^ 32 + x.toNat))
      | .error (.passed p) => raise 0x0A (BitVec.ofNat 64 (0x200 + idx.toNat + p.toNat * 2 ^ 32))
      | .ok phase =>
        match (b.value.extractLsb' 62 2).toNat with
        | 0 => s.putThread t.retire
        | 2 => s.putThread (t.setS d ⟨phase.zeroExtend 64, 0⟩).retire
        | _ =>
          let now := ((s.cell? c).map (·.phase)).getD phase
          if now = phase then s.putThread { t with wait := .barr c phase d }
          else (s.discardCopies t (fun _ => true)).putThread (t.setS d ⟨now.zeroExtend 64, 0⟩).retire
    | _ => s

/-- The mirror of a layer applies a beat (R234, R265, R380): a BAMO of the layer returns the old word, its barrier operation
goes on. -/
def State.applyMirror (s : State) (d : BitVec 6) (b : Beat) : State :=
  if b.op.toNat ≤ 4 then
    let k := bellMirrorKey d (8 * b.word.toNat)
    let old := Memory.read64 s.mem k
    let s := s.bellAt k b
    if b.op = 0 ∨ d ≠ b.die then s else s.fillWord b.hwid b.gen old
  else if b.op = 6 then
    let x := s.barAt (.stack d (b.value.extractLsb' 48 5)) b
    if d = b.die then x.1.beatDone b x.2 else x.1
  else s

/-- A layer hears a beat; a mirror that lags applies it later, and all in slot order (R234, R282). -/
def State.hearBeat (s : State) (d : BitVec 6) (b : Beat) : State :=
  if s.queues.lagging.contains d then { s with queues := { s.queues with mirrorQ := s.queues.mirrorQ ++ [⟨d, b⟩] } }
  else s.applyMirror d b

/-- A layer's mirror applies every beat it has heard, and lags no more. -/
def State.catchUp (s : State) (d : BitVec 6) : State :=
  (s.queues.mirrorQ.filter (·.die == d)).foldl (fun (s : State) w => s.applyMirror d w.beat)
    { s with queues := { s.queues with
        mirrorQ := s.queues.mirrorQ.filter (·.die != d), lagging := s.queues.lagging.filter (· != d) } }

/-- A layer's mirror comes to lag behind the slots of the bell: the order of R282 is not bound to time. -/
def State.lagMirror (s : State) (d : BitVec 6) (on : Bool) : State :=
  if on then { s with queues := { s.queues with lagging := d :: s.queues.lagging.filter (· != d) } } else s.catchUp d

/-- A beat at the end of its slot (R327, R328): the master applies it, and every awake layer hears it. -/
def State.applyBeat (s : State) (st : BitVec 3) (b : Beat) : State :=
  let s := if b.op.toNat ≤ 4 then s.bellAt (bellMasterKey st (8 * b.word.toNat)) b
    else if b.op = 6 then (s.barAt (.master st (b.value.extractLsb' 48 5)) b).1
    else s
  ((stackDies st).filter s.awake).foldl (fun (s : State) d => s.hearBeat d b) s

/-- A base die's shootdown beat (R303): each awake layer drops its copies of the page and acknowledges; the base die
acknowledges for a sleeping one. -/
def State.dropPage (s : State) (d : BitVec 6) (page : BitVec 36) : State :=
  let inPage (l : Nat) : Bool := decide (l / 65536 = page.toNat)
  { s with caches := { s.caches with
      copies := s.caches.copies.filter (fun c => !(c.die == d && inPage c.line.toNat))
      replicas := s.caches.replicas.filter (fun r => !(r.1 == d && inPage r.2.toNat))
      tlbs := s.caches.tlbs.filter (fun e => !(e.unit.die == d && decide ((e.leaf.extractLsb' 16 36).toNat = page.toNat))) } }

/-- The base die of a stack sends a shootdown beat. -/
def State.shootBeat (s : State) (st : BitVec 3) (page : BitVec 36) : State :=
  (stackDies st).foldl (fun (s : State) d => (s.dropPage d page).send (.shootdownAck page d)) s

/-- The layers of a stack that are waking copy the master, window and cells, at a frame boundary, and are awake (R235). -/
def State.wakeLayers (s : State) (st : BitVec 3) : State :=
  let up := (s.layers.filter (fun l => stackOf l.die == st && l.state == .waking)).map (·.die)
  let lo := bellMasterKey st 0
  let master := s.mem.filter (fun c => decide (lo ≤ c.1) && decide (c.1 < lo + 2 ^ 20))
  let cells := s.counters.cells.filterMap (fun c => match c.id with
    | .master x i => if x = st then some (i, c) else none
    | _ => none)
  up.foldl (fun (s : State) d =>
    { s with
      mem := Memory.setMany s.mem (master.map (fun c => (bellMirrorKey d (c.1 - lo), c.2)))
      counters := { s.counters with cells := cells.map (fun c => { c.2 with id := .stack d c.1 }) ++ s.counters.cells }
      layers := s.layers.filter (fun l => l.die != d) }) s

/-- Something waits for a slot of a stack's frame, or for its end. -/
def State.bellBusy (s : State) (st : BitVec 3) : Bool :=
  s.layers.any (fun l => stackOf l.die == st && l.state == .waking) ||
  s.queues.baseQ.any (·.1 == st) || s.queues.bellQ.any (fun q => stackOf q.die == st && !q.beats.isEmpty)

/-- BELL_SLOT (R327, R328): the owner of the slot sends the head of its queue; after slot 255 the frame ends and the
pending writes of BELLTAB take effect (R367) and waking layers are awake (R235). -/
def execBellSlot (st : BitVec 3) (s : State) : Out :=
  let i := s.queues.bellSlot[st.toNat]?.getD 0
  let e := s.belltab st i
  let s1 : State :=
    if e.extractLsb' 14 2 = 1 then
      let d : BitVec 6 := st ++ e.extractLsb' 11 3
      let part : BitVec 4 := e.extractLsb' 0 4
      match s.bellQueue d part with
      | b :: rest =>
        if s.awake d then ((s.putBellQueue d part rest).applyBeat st b).perfCount d 0x4800 0x4880 0x0030 none 1 else s
      | [] => s
    else if e.extractLsb' 14 2 = 2 then
      match s.queues.baseQ.find? (·.1 == st) with
      | some x => State.shootBeat { s with queues := { s.queues with baseQ := s.queues.baseQ.erase x } } st x.2
      | none => s
    else s
  let s2 : State := { s1 with queues := { s1.queues with bellSlot := s1.queues.bellSlot.setIfInBounds st.toNat (i + 1) } }
  let s3 : State :=
    if i = 255 then
      (State.applyBelltab { s2 with queues := { s2.queues with
        bellFrame := s2.queues.bellFrame.setIfInBounds st.toNat (s2.queues.bellFrame[st.toNat]?.getD 0 + 1) } } st).wakeLayers st
    else s2
  .next (if s3.bellBusy st then s3.send (.bellSlot st) else s3)

/-- BELL_FRAME_BOUNDARY (R367, R235): between two frames the pending writes of BELLTAB take effect and waking layers are
awake. -/
def execBellFrameBoundary (st : BitVec 3) (s : State) : Out :=
  .next (if s.queues.bellSlot[st.toNat]?.getD 0 = 0 then (s.applyBelltab st).wakeLayers st else s)

-- Binding and forks (R34, R38, R218, R381).

/-- The constant cache and the L1 of a pool are emptied (R218): what it owns goes home. -/
def State.emptyPool (s : State) (d : BitVec 6) (p : BitVec 5) : State :=
  let s := (s.caches.classF.filter (fun c => c.die == d && c.pool == p)).foldl
    (fun (s : State) c => ((s.returnLine d p c.line).trimDie d c.line).1) s
  { s with caches := { s.caches with copies := s.caches.copies.filter (fun c => !(c.die == d && c.pool == p)) } }

/-- A cell's launch is another one than `l` (R378). -/
def State.foreignCell (s : State) (l : BitVec 16) (c : Cell) : Bool := (s.launch? l).all (fun r => r.id != c.owner)

/-- The first thread of a launch binds on a pool (R218, R323, R378): the stash is cleared, map and caches are emptied, the
event queues too. The class cells that another launch owns become FREE. The rule speaks of a class; the cells of a pair of B-cores
become FREE when either of their two pools is taken (DESIGN CHOICE, log entry 125). -/
def State.enterPool (s : State) (d : BitVec 6) (p : BitVec 5) (l : BitVec 16) : State :=
  if s.caches.pools.any (fun u => u.die == d && u.pool == p) then s
  else
    let s := (s.leavePool d p).emptyPool d p
    let k := stashKey d p 0
    let mine (c : CellId) : Bool := match c with
      | .cls x y _ => x == d && y.zeroExtend 5 == p
      | .bpair x y _ => x == d && decide (16 + 2 * y.toNat ≤ p.toNat ∧ p.toNat ≤ 17 + 2 * y.toNat)
      | _ => false
    { s with
      mem := s.mem.filter (fun c => !(decide (k ≤ c.1) && decide (c.1 < k + 2 ^ 20)))
      caches := { s.caches with pools := ⟨d, p, l⟩ :: s.caches.pools }
      queues := { s.queues with events := s.queues.events.filter (fun e => !(e.1 == d && e.2.1 == p)) }
      counters := { s.counters with cells := s.counters.cells.filter (fun c => !(mine c.id && s.foreignCell l c)) } }

/-- The launch that holds a pool. -/
def State.poolHolder (s : State) (d : BitVec 6) (p : BitVec 5) : Option (BitVec 16) :=
  (s.caches.pools.find? (fun u => u.die == d && u.pool == p)).map (·.lrec)

/-- The threads bound on a pool. -/
def State.boundOn (s : State) (d : BitVec 6) (p : BitVec 5) : Nat :=
  (s.threads.filter (fun t => dieOf t.hwid == d && poolOf t.hwid == p)).length

/-- The register reserve [B3, 1 MiB) holds 2,560 bytes for each of `n` threads (R121). -/
def reserveHolds (b3 n : Nat) : Bool := decide (2560 * n ≤ 0x100000 - b3)

/-- The threads a fork may recruit, in the order of its recruit tree (R38): the thread's own class, then the other classes
of its quadrant; for a native thread the B-cores of its quadrant (log entry 21). -/
def recruitTree (h : BitVec 17) : List (BitVec 17) :=
  let base := (dieOf h).toNat * 1024 + (quadOf h).toNat * 256
  if isB h then (List.range 8).map (fun k => BitVec.ofNat 17 (65536 + base + k))
  else
    let own := (h.toNat / 64) % 4
    let cls := own :: (List.range 4).filter (· != own)
    cls.flatMap (fun c => (List.range 64).map (fun k => BitVec.ofNat 17 (base + 64 * c + k)))

/-- A thread is idle for recruitment by a thread, `taken` being recruited already (R381). -/
def State.idleFor (s : State) (t : Thread) (taken : List (BitVec 17)) (h : BitVec 17) : Bool :=
  let d := dieOf h
  let p := poolOf h
  decide ((s.slot d (slotOf h)).state = .free) && (s.thread? h).isNone
    && (match s.poolHolder d p with | none => true | some l => l == t.lrec)
    && s.partOf d p == t.part
    && (isB h || reserveHolds (poolB t.poolb3) (s.boundOn d p + (taken.filter (fun x => dieOf x == d && poolOf x == p)).length + 1))

/-- Recruit up to `n` helpers. -/
def State.recruit (s : State) (t : Thread) : Nat → List (BitVec 17) → List (BitVec 17) → List (BitVec 17)
  | 0, _, taken => taken
  | _, [], taken => taken
  | n + 1, h :: rest, taken =>
    if s.idleFor t taken h then s.recruit t n rest (taken ++ [h]) else s.recruit t (n + 1) rest taken

/-- Write FORKR's destination pair: the bounds of a sub-range (R38, R106). -/
def Thread.setRange (t : Thread) (d : BitVec 6) (lo hi : Nat) : Thread :=
  (t.setS d ⟨BitVec.ofNat 64 lo, 0⟩).setS (d + 1) ⟨BitVec.ofNat 64 hi, 0⟩

/-- A helper of a fork (R38, R381): copies of the scalar registers, the bind registers and the leases of the forking thread,
every other register at its reset value. -/
def helperOf (t : Thread) (h : BitVec 17) (f : Fork) (pc instret : Word) (d : BitVec 6) (lo hi : Nat) : Thread :=
  { Thread.idle h with
    live := true, s := t.s, fcsr := t.fcsr, pc, instret
    taskid := t.taskid, gangid := t.gangid, launchid := t.launchid, geomdim := t.geomdim, geompos := t.geompos
    argp := t.argp, poolb1 := t.poolb1, poolb2 := t.poolb2, poolb3 := t.poolb3, shipto := t.shipto
    lrec := t.lrec, priv := t.priv, part := t.part, prio := t.prio, leases := t.leases
    fork := some f, resumeFlags := t.resumeFlags }.setRange d lo hi

/-- The lowest free join cell of a class (R381). -/
def State.freeJoin (s : State) (d : BitVec 6) (p : BitVec 5) : Option (BitVec 4) :=
  ((List.range 16).find? (fun i => !s.counters.joins.any (fun j => j.die == d && j.pool == p && j.cell.toNat == i))).map (BitVec.ofNat 4)

/-- FORKR (R38, R381): it waits at issue in shadow or with a pending register. -/
def execForkr (d a b : BitVec 6) (s : State) : Out :=
  let t := s.th
  let n := (s.rs a).toNat
  let c := max 1 (s.rs b).toNat
  if t.inShadow || t.anyPending then .next s
  else if t.fork.isSome then
    if t.innerFork = 0xFFFF then s.trap 0x05 (s.rs a)
    else State.retire { s with th := { t.setRange d 0 n with innerFork := t.innerFork + 1 } }
  else
    let want := min ((n + c - 1) / c - 1) 63
    match s.freeJoin (dieOf t.hwid) (poolOf t.hwid) with
    | none => State.retire { s with th := t.setRange d 0 n }
    | some cell =>
      let hs := (s.recruit t want ((recruitTree t.hwid).filter (· != t.hwid)) [])
      if hs.isEmpty then State.retire { s with th := t.setRange d 0 n }
      else
        let p := hs.length + 1
        let f (i : Nat) : Fork := ⟨dieOf t.hwid, poolOf t.hwid, cell, BitVec.ofNat 7 i⟩
        let lo (i : Nat) := i * n / p
        let me := { (t.setRange d 0 (lo 1)).retire with fork := some (f 0) }
        let s := { s with th := me
                          counters := { s.counters with joins := ⟨dieOf t.hwid, poolOf t.hwid, cell, BitVec.ofNat 7 p, BitVec.ofNat 7 p, 0⟩ :: s.counters.joins } }
        .next ((hs.zipIdx 1).foldl (fun (s : State) x =>
          let s := s.enterPool (dieOf x.1) (poolOf x.1) t.lrec
          let s := s.bindThread (helperOf t x.1 (f x.2) (t.pc + 4) me.instret d (lo x.2) (lo (x.2 + 1)))
          s.putSlot ⟨dieOf x.1, slotOf x.1, 0, 0, 0, 0, .running, 0⟩) s)

end Sys2Proof.Machine
end

