-- ==== Sys2Proof/Machine/Launch.lean ====
section
/-! DEFINITION. Queue readers: launch packets and phase marks, their checks, acceptance and rejection (R28 to R31, R326,
R353, R373). -/

namespace Sys2Proof.Machine

/-- The module takes packets and its timetable cores run: not before step 7 of a start, not in recovery, not shut down
(R371, R413, R415, R423). -/
def State.running (s : State) : Bool := s.boundary.ready && !s.boundary.recovery && !s.boundary.shutdown

/-- The packet at the head of a queue whose reader is awake (R326): 32 words of its slot; none while word 0 is zero. -/
def State.headPacket (s : State) (q : BitVec 8) : Option Packet :=
  let w0 := (s.queueEntry q).1
  if s.running && (s.reader q).awake && w0.getLsbD 63 then
    let k := queueBase w0 + 0x100 + 256 * ((s.queueIdx w0).2.toNat % queueSlots w0)
    let p := (List.range 32).map (fun i => Memory.read64 s.mem (k + 8 * i))
    if pkW p 0 = 0 then none else some p
  else none

/-- A packet stands behind a phase mark whose preceding phase still has a launch that has not completed (R30). -/
def State.gated (s : State) (q : BitVec 8) : Bool :=
  let r := s.reader q
  r.gate && s.launches.any (fun l => l.live && l.q == q && pkPhase l.packet == r.prev)

/-- The packet has been read: word 0 becomes zero, RIDX grows, producers that wait go on, the reader looks on (R326). -/
def State.advanceReader (s : State) (q : BitVec 8) : State :=
  let w0 := (s.queueEntry q).1
  let ridx := (s.queueIdx w0).2
  let k := queueBase w0 + 0x100 + 256 * (ridx.toNat % queueSlots w0)
  let m := Memory.write64 (Memory.write64 s.mem k 0) (queueBase w0 + 8) (ridx + 1)
  ((State.serveReleases { s with mem := m } q).serveSubmits q).send (.launchPacket q)

-- The counters a packet names (R373).

/-- A graph, phase or job counter takes a launch; id 0 names none. -/
def State.levelOk (s : State) (asid : BitVec 16) (level : BitVec 2) (cid : BitVec 12) : Bool :=
  let c := s.ctr cid
  cid == 0 || (c.valid && c.asid == asid && c.level == level && c.state != 2 && !c.closed && !c.canc)

/-- The entry is a launch counter of the packet's ASID. -/
def Counter.launchOf (c : Counter) (asid : BitVec 16) : Bool := c.valid && c.asid == asid && c.level == 0

/-- The counter was cancelled while IDLE: DONE, CANC set and no gang ended (R384). -/
def Counter.cancelledIdle (c : Counter) : Bool := c.state == 2 && c.canc && c.ended == 0

/-- The counters of a launch packet pass the checks of R373, and later packets naming a launch counter cancelled while IDLE
are rejected (R384). -/
def State.countersOk (s : State) (asid : BitVec 16) (p : Packet) : Bool :=
  let c := s.ctr (pkLaunch p)
  c.launchOf asid && c.state != 1 && !c.cancelledIdle
    && s.levelOk asid 1 (pkGraph p) && s.levelOk asid 2 (pkPhase p) && s.levelOk asid 3 (pkJob p)

/-- The ASID table has a VALID entry (R363). -/
def State.asidValid (s : State) (asid : BitVec 16) : Bool := (s.asidEntry asid).2.getLsbD 63

/-- The ASID of a queue. -/
def State.queueAsid (s : State) (q : BitVec 8) : BitVec 16 := (s.queueEntry q).2.extractLsb' 0 16

/-- Every check of R28 and R373 on a launch packet at the head of a queue. -/
def State.packetOk (s : State) (q : BitVec 8) (p : Packet) : Bool :=
  launchOk p && pkPhase p == (s.reader q).phase && s.asidValid (s.queueAsid q) && s.countersOk (s.queueAsid q) p

-- Rejection (R28, R373).

/-- The successors of a rejected packet: the well-formed handles that lie within its length (log entry 23). -/
def rejectedSuccs (p : Packet) : List Word :=
  if pkSuccAt p + pkNSucc p ≤ 2 * pkLen16 p then (pkSuccs p).filter handleOk else []

/-- Count a rejected launch at a graph, phase or job counter that can take it (R373). -/
def State.countRejected (s : State) (asid : BitVec 16) (level : BitVec 2) (cid : BitVec 12) (w : Word) : State :=
  let c := s.ctr cid
  if cid ≠ 0 ∧ c.valid ∧ c.asid = asid ∧ c.level = level ∧ c.state ≠ 2 then
    (if level = 1 then s else s.putCtr (c.setExpect (c.expect + 1))).countUp cid w
  else s

/-- The word of a rejected launch (R28): cancelled 1, lowest fault cause 0xFF. -/
def rejectedWord : Word := statusWord 0 0 1 0xFF 0

/-- Reject a launch packet (R28, R373): its counter completes where it may be written, else a rejection record goes to the
host; its successors are released as doomed. The rule gives EXPECT 0 and ENDED 0 and does not say what CANC becomes: it is cleared,
but of a counter cancelled while IDLE, whose later packets must still be rejected (DESIGN CHOICE, log entry 124). -/
def State.rejectPacket (s : State) (q : BitVec 8) (p : Packet) : State :=
  let asid := s.queueAsid q
  let cid := pkLaunch p
  let c := s.ctr cid
  let s :=
    if cid ≠ 0 ∧ c.launchOf asid ∧ c.state ≠ 1 then
      let w1 := if c.cancelledIdle then c.w1 else c.w1 &&& 0xFDFFFFFFFFFFFFFF
      let s := s.ctrDone { ((({ c with w1 := w1 } : Counter).setEnded 0).setExpect 0) with status := rejectedWord }
      (((s.countRejected asid 1 (pkGraph p) rejectedWord).countRejected asid 2 (pkPhase p) rejectedWord).countRejected
        asid 3 (pkJob p) rejectedWord)
    else s.mail (.rejection q cid)
  s.releaseAll ⟨asid, true, rejectedSuccs p, if c.launchOf asid ∧ c.state ≠ 1 then cid else 0⟩

-- Acceptance (R29, R353, R373).

/-- A named counter becomes ACTIVE if it was IDLE; a phase or job counter counts the launch. -/
def State.joinLevel (s : State) (cid : BitVec 12) (counted : Bool) : State :=
  if cid = 0 then s
  else
    let c := s.ctr cid
    let c := if c.state = 0 then c.setState 1 else c
    s.putCtr (if counted then c.setExpect (c.expect + 1) else c)

/-- The counters at acceptance. -/
def State.acceptCounters (s : State) (p : Packet) : State :=
  let c := s.ctr (pkLaunch p)
  let c := ((({ c with status := 0, w1 := c.w1 &&& 0xFDFFFFFFFFFFFFFF } : Counter).setEnded 0).setExpect (pkNGang p)).setState 1
  (((s.putCtr c).joinLevel (pkGraph p) false).joinLevel (pkPhase p) true).joinLevel (pkJob p) true

/-- The least index that no launch record uses; when all are used, the least of a completed launch open nowhere. -/
def State.freeLrec (s : State) : Option (BitVec 16) :=
  let used (i : Nat) : Bool := s.launches.any (fun r => r.lrec.toNat == i)
  let busy (i : Nat) : Bool := s.launches.any (fun r => r.lrec.toNat == i && r.live) || s.tables.launchE.any (fun e => e.lrec.toNat == i)
    || s.queues.orphans.any (fun o => o.2.1.lrec.toNat == i)
  (((List.range 65536).find? (fun i => !used i)).or ((List.range 65536).find? (fun i => !busy i))).map (BitVec.ofNat 16)

/-- Accept a launch packet (R29, R31, R353, R373): a launch record, its argument block, its channels empty; a doomed
packet completes at once. -/
def State.acceptPacket (s : State) (q : BitVec 8) (p : Packet) (l : BitVec 16) : State :=
  let asid := s.queueAsid q
  let e := (s.asidEntry asid).2
  let die : BitVec 6 := (s.queueEntry q).1.extractLsb' 56 6
  let r : Launch :=
    { lrec := l, q, asid, part := e.extractLsb' 0 4, priv := e.getLsbD 62, die
      packet := p.take (2 * pkLen16 p), args := pkArgs p, disp := 0, nextGang := 0, gangs := []
      canc := pkDoomed p, live := true, fcount := 0, faults := [] }
  let s := s.acceptCounters p
  let s := { s with
    launches := s.launches.filter (fun (x : Launch) => x.lrec != l) ++ [r]
    queues := { s.queues with channels := s.queues.channels.filter (fun (c : Channel) => c.lrec != l) } }
  let s := s.mail (.posted die l)
  if pkDoomed p then
    (s.putCtr { s.ctr (pkLaunch p) with status := statusWord 0 0 1 0 0 }).finishLaunch r
  else s

-- The reader's events.

/-- The reader of a queue sleeps until a doorbell rings. -/
def State.readerSleeps (s : State) (q : BitVec 8) : State := s.putReader { s.reader q with awake := false }

/-- The reader of a queue waits for the home of the queue's words or of the slot it reads (R22, R326). -/
def State.readerWaits (s : State) (q : BitVec 8) : Bool :=
  let w0 := (s.queueEntry q).1
  s.running && (s.reader q).awake && w0.getLsbD 63
    && (s.queueShut (queueBase w0) 16 || s.queueShut (s.slotAddr q (s.queueIdx w0).2) 256)

/-- The layers that the reader of a queue needs are woken, and it comes back by an event. -/
def State.readerRouse (s : State) (q : BitVec 8) (e : Instr) : State :=
  let w0 := (s.queueEntry q).1
  ((s.rouseQueue (queueBase w0) 16).rouseQueue (s.slotAddr q (s.queueIdx w0).2) 256).send e

/-- LAUNCH_PACKET (R28, R31, R326, R353, R373): producers that waited for a slot go on, and the reader takes the launch packet
at the head of its queue. A phase mark there is taken by its own event. -/
def execLaunchPacket (q : BitVec 8) (s : State) : Out :=
  let s := (s.serveReleases q).serveSubmits q
  if s.readerWaits q then .next (s.readerRouse q (.launchPacket q))
  else match s.headPacket q with
  | none => .next (s.readerSleeps q)
  | some p =>
    if pkKind p = 2 then .next (s.send (.phaseMark q))
    else if s.gated q then .next (s.send (.launchPacket q))
    else
      let s := s.putReader { s.reader q with gate := false }
      if s.packetOk q p then
        match s.freeLrec with
        | none => .next (s.send (.launchPacket q))
        | some l => .next ((s.advanceReader q).acceptPacket q p l)
      else .next ((s.advanceReader q).rejectPacket q p)

/-- A phase mark passes the checks of R30 and R373. -/
def State.phaseMarkOk (s : State) (q : BitVec 8) (p : Packet) : Bool :=
  let asid := s.queueAsid q
  let c := s.ctr (pkPhase p)
  markOk p && s.asidValid asid && pkPhase p != 0 && c.valid && c.asid == asid && c.level == 2 && c.state == 0
    && s.levelOk asid 3 (pkJob p)

/-- An accepted phase mark opens its phase, with CLOSED 0, and closes the preceding one (R30, R373). DEDUCED: an entry that
the host has reset and that the next mark names again is the one that opens. -/
def State.openPhase (s : State) (q : BitVec 8) (p : Packet) : State :=
  let r := s.reader q
  let c := s.ctr (pkPhase p)
  let s := s.putCtr { (c.setState 1) with w1 := (c.setState 1).w1 &&& 0xEFFFFFFFFFFFFFFF }
  let s := s.joinLevel (pkJob p) false
  let s := if r.phase = 0 ∨ r.phase = pkPhase p then s else (s.putCtr ((s.ctr r.phase).setBit 60)).settleCtr r.phase
  s.putReader { s.reader q with phase := pkPhase p, prev := r.phase, gate := true }

/-- PHASE_MARK (R30, R373): the reader takes the phase mark at the head of its queue; a rejected one is skipped with a
record to the host. A mark that stands behind another mark waits as a launch packet does. -/
def execPhaseMark (q : BitVec 8) (s : State) : Out :=
  if s.readerWaits q then .next (s.readerRouse q (.phaseMark q))
  else match s.headPacket q with
  | none => .next (s.readerSleeps q)
  | some p =>
    if pkKind p ≠ 2 then .next (s.send (.launchPacket q))
    else if s.gated q then .next (s.send (.phaseMark q))
    else
      let s := s.putReader { s.reader q with gate := false }
      if s.phaseMarkOk q p then .next ((s.advanceReader q).openPhase q p)
      else .next ((s.advanceReader q).mail (.rejection q (pkPhase p)))

/-- DOORBELL_WRITE (R407): a write of any value wakes the queue's reader. -/
def execDoorbellWrite (q : BitVec 8) (s : State) : Out := .next (s.ring q)

end Sys2Proof.Machine
end

