-- ==== Sys2Proof/Machine/Timetable.lean ====
section
/-! DEFINITION. The timetable: bind records, their checks and the start of a gang, the launch table, claims, leases and the
other firmware commands (R32 to R34, R44, R353 to R362, R370). -/

namespace Sys2Proof.Machine

-- The timetable core (R350, R360).

/-- The timetable core of a die runs: the module runs and the layer is awake (log entry 24). -/
def State.coreRuns (s : State) (d : BitVec 6) : Bool := s.running && s.awake d

/-- What a die's timetable core shows. -/
def State.firmware (s : State) (d : BitVec 6) : Firmware :=
  (s.tables.firmware.find? (fun f => f.die == d)).getD ⟨d, false, 0, .done⟩

/-- Put a timetable core's registers. -/
def State.putFirmware (s : State) (f : Firmware) : State :=
  { s with tables := { s.tables with firmware := f :: s.tables.firmware.filter (fun x => x.die != f.die) } }

/-- A command completes with a status word (R360). -/
def State.fwDone (s : State) (d : BitVec 6) (r : FwResult) : State := s.putFirmware { s.firmware d with result := r }

/-- A refused write sets REFUSED, raises a firmware event and changes nothing else (R350). -/
def State.fwRefusedWrite (s : State) (d : BitVec 6) : State :=
  let f := s.firmware d
  s.putFirmware { f with refused := true, events := f.events + 1 }

-- Bind records (R357).

/-- LENT. -/
def TSlot.lent (k : TSlot) : BitVec 6 := k.w0.extractLsb' 57 6
/-- GANGID. -/
def TSlot.gang (k : TSlot) : BitVec 24 := k.w0.extractLsb' 33 24
/-- TIG. -/
def TSlot.tig (k : TSlot) : Nat := (k.w0.extractLsb' 27 6).toNat
/-- ASID. -/
def TSlot.asid (k : TSlot) : BitVec 16 := k.w0.extractLsb' 11 16
/-- LSi. -/
def TSlot.ls (k : TSlot) (i : Nat) : BitVec 8 :=
  if i < 8 then BitVec.ofNat 8 (k.w1.toNat / 2 ^ (8 * i)) else BitVec.ofNat 8 (k.w2.toNat / 2 ^ (8 * (i - 8)))
/-- HOSTSEL. -/
def TSlot.hostsel (k : TSlot) : Bool := k.w3.getLsbD 26
/-- HOST. -/
def TSlot.host (k : TSlot) : BitVec 9 := k.w3.extractLsb' 17 9
/-- GTILE. -/
def TSlot.gtile (k : TSlot) : BitVec 3 := k.w3.extractLsb' 14 3
/-- GSW. -/
def TSlot.gsw (k : TSlot) : BitVec 5 := k.w3.extractLsb' 9 5
/-- GSV. -/
def TSlot.gsv (k : TSlot) : Bool := k.w3.getLsbD 8
/-- MIG. -/
def TSlot.mig (k : TSlot) : Bool := k.w3.getLsbD 7
/-- The thread of the slot. -/
def TSlot.hwid (k : TSlot) : BitVec 17 := hwidOfSlot k.die k.slot
/-- The slot exists: 1,056 for each die (R356). -/
def slotExists (k : BitVec 11) : Bool := decide (k.toNat < 1056)

/-- The fields of a record hold values of R357 for a launch with `n` leases. -/
def TSlot.fieldsOk (k : TSlot) (n : Nat) : Bool :=
  let b := isB k.hwid
  k.w0.extractLsb' 0 11 == 0 && k.w2.extractLsb' 32 32 == 0 && k.w3.extractLsb' 27 37 == 0 && k.w3.extractLsb' 0 7 == 0
    && k.gtile != 7 && decide (k.gsw.toNat ≤ 16)
    && (List.range 12).all (fun i => decide (i < n) || k.ls i == 0)
    && (if b then !k.hostsel && k.gtile == 0 else !k.gsv && !k.mig)

/-- The B-core that a record makes the host of its thread (R14, R357). -/
def TSlot.hostCore (k : TSlot) : BitVec 9 :=
  if k.hostsel then k.host
  else BitVec.ofNat 9 (8 * k.die.toNat + 2 * (quadOf k.hwid).toNat + (poolOf k.hwid).toNat % 4 / 2)

/-- The core of a slot within its quadrant (R32). -/
def TSlot.coreInQuad (k : TSlot) : Nat :=
  if isB k.hwid then (k.hwid.extractLsb' 2 1).toNat else (k.hwid.extractLsb' 2 6).toNat

-- Placement (R32).

/-- Each task of a gang is on the core its index gives, within one aligned span of one quadrant, and the tasks of a core
take its bound threads in order. -/
def placeOk (p : Packet) (g : List TSlot) : Bool :=
  let d := pkD p
  match g with
  | [] => true
  | k :: _ =>
    let base := k.coreInQuad - k.tig / d
    g.all (fun x => isB x.hwid == pkCore p && quadOf x.hwid == quadOf k.hwid && decide (x.tig / d ≤ x.coreInQuad)
        && decide (x.coreInQuad = base + x.tig / d))
      && decide (base % pkSpan p = 0)
      && g.all (fun x => g.all (fun y => !decide (x.coreInQuad = y.coreInQuad ∧ x.tig < y.tig) || decide (x.slot.toNat < y.slot.toNat)))

-- The checks of a gang (R359).

/-- A lease table entry; FREE without a record (R361). -/
def State.leaseEntry (s : State) (d : BitVec 6) (e : BitVec 8) : LeaseE :=
  (s.tables.leaseE.find? (fun x => x.die == d && x.entry == e)).getD ⟨d, e, 0, 0, 0, 0⟩

/-- Put a lease table entry. -/
def State.putLease (s : State) (x : LeaseE) : State :=
  { s with tables := { s.tables with leaseE := x :: s.tables.leaseE.filter (fun y => !(y.die == x.die && y.entry == x.entry)) } }

/-- BASE. -/
def LeaseE.base (x : LeaseE) : Nat := (x.w0.extractLsb' 0 48).toNat
/-- LENGTH. -/
def LeaseE.len (x : LeaseE) : Nat := (x.w1.extractLsb' 0 40).toNat
/-- ASID. -/
def LeaseE.asid (x : LeaseE) : BitVec 16 := x.w2.extractLsb' 48 16

/-- A PINNED entry proves a packet's lease. -/
def LeaseE.proves (x : LeaseE) (asid : BitVec 16) (l : LeaseC) : Bool :=
  x.state == 3 && x.asid == asid && decide (x.base ≤ l.base.toNat) && decide (l.base.toNat + l.len.toNat ≤ x.base + x.len)
    && (!l.r || x.w2.getLsbD 45) && (!l.w || x.w2.getLsbD 44)

/-- The tasks a gang has still to run: all of them, or the stopped set (R355). The rule does not say what records of a gang that
runs already still need: the same set, so that a second complete set of records is checked as the first was (DESIGN CHOICE, log
entry 121). -/
def Gang.needs (g : Gang) (n : Nat) : List Nat :=
  if g.resume.any (·.state == 1) then (List.range n).filter (fun i => (g.record (BitVec.ofNat 7 i)).state == 1)
  else List.range n

/-- A higher-priority gang of the partition has re-entered and is not bound (R48, R359 row 0x0A). -/
def State.outranked (s : State) (r : Launch) : Bool :=
  s.launches.any (fun x => x.live && x.part == r.part && decide ((pkPrio r.packet).toNat < (pkPrio x.packet).toNat)
    && x.gangs.any (fun g => g.state != .ended && g.state != .dropped && g.resume.any (·.state == 1) && (s.gangThreads x.lrec g.idx).isEmpty))

/-- The guest tiles granted at a B-core by bound threads. -/
def State.granted (s : State) (b : BitVec 9) : Nat :=
  ((s.threads.filter (fun t => !isB t.hwid && t.shipto.extractLsb' 0 9 == b)).map (fun t => t.grant.toNat)).sum

/-- The first failing row of R359 for the complete records of a gang of a launch, 0 when none fails. -/
def State.gangReason (s : State) (r : Launch) (k : BitVec 24) (g : List TSlot) : BitVec 8 :=
  let p := r.packet
  let d := (g.head?.map (·.die)).getD 0
  let pools := (g.map (fun x => poolOf x.hwid)).eraseDups
  let hosts := (g.map (·.hostCore)).eraseDups
  if !r.live || decide ((r.gang k).state ≠ .claimed d) || !g.all (fun x => x.fieldsOk (pkNLease p)) then 0x01
  else if !g.all (fun x => x.asid == r.asid) then 0x02
  else if !placeOk p g then 0x03
  else if !pools.all (fun x => s.partOf d x == r.part) then 0x04
  else if !pools.all (fun x => (s.poolHolder d x).all (· == r.lrec)) then 0x05
  else if !g.all (fun x => (pkLeases p).zipIdx.all (fun l => (s.leaseEntry d (x.ls l.2)).proves r.asid l.1)) then 0x06
  else if !pkCore p && !pools.all (fun x => reserveHolds ((pkB3 p).toNat * 4096) (s.boundOn d x + (g.filter (fun y => poolOf y.hwid == x)).length)) then 0x07
  else if !g.all (fun x => !x.hostsel || decide (x.host.toNat / 2 = 4 * d.toNat + (quadOf x.hwid).toNat))
      || (!pkCore p && !hosts.all (fun b => decide (s.granted b + ((g.filter (fun x => x.hostCore == b)).map (fun x => x.gtile.toNat)).sum ≤ 6))) then 0x08
  else if !r.priv && g.any (fun x => x.gsv || x.mig) then 0x09
  else if s.outranked r then 0x0A
  else 0

-- The start of a gang (R33, R34, R44, R116, R117, R187).

/-- The thread a record binds, with the state of R34: `host` is SHIPTO, `v` the value in s1. -/
def boundThread (r : Launch) (k : TSlot) (host : BitVec 9) (res : Resume) : Thread :=
  let p := r.packet
  let gang := k.gang.toNat
  let task : Word := BitVec.ofNat 64 (gang * pkGang p + k.tig)
  let t : Thread := { Thread.idle k.hwid with
    live := true
    pc := (pkEntry p).zeroExtend 64
    taskid := task
    gangid := k.gang.zeroExtend 64
    launchid := r.id.zeroExtend 64
    geomdim := BitVec.ofNat 64 (pkGang p * 2 ^ 32 + pkGridY p * 2 ^ 16 + pkGridX p)
    geompos := BitVec.ofNat 64 (k.tig * 2 ^ 32 + (gang / pkGridX p) % 65536 * 2 ^ 16 + gang % pkGridX p)
    argp := BitVec.ofNat 64 (0x800000100000 + 128 * r.lrec.toNat)
    poolb1 := BitVec.ofNat 64 ((pkB1 p).toNat * 4096)
    poolb2 := BitVec.ofNat 64 ((pkB2 p).toNat * 4096)
    poolb3 := BitVec.ofNat 64 ((pkB3 p).toNat * 4096)
    shipto := host.zeroExtend 64
    lrec := r.lrec, priv := r.priv, part := r.part, prio := pkPrio p, grant := k.gtile
    leases := pkLeases p
    resumeFlags := res.flags }
  (t.setS 1 ⟨if res.state = 1 then res.value else 0, 0⟩).setS 2 ⟨task, 0⟩

/-- Bind one slot of a gang. SHIPTO of a native thread is a value the spec does not state (log entry 6). -/
def State.bindSlot (s : State) (r : Launch) (k : TSlot) : State :=
  let h := k.hwid
  let s := s.enterPool (dieOf h) (poolOf h) r.lrec
  let x := if isB h then s.freshNat 2 else (s, k.hostCore.toNat)
  let s := x.1.bindThread (boundThread r k (BitVec.ofNat 9 x.2) ((r.gang k.gang).record (BitVec.ofNat 7 k.tig)))
  let tiles := (List.range k.gtile.toNat).map (fun i => GuestTile.mk h (BitVec.ofNat 3 i) 0 0 0)
  let s := { s with queues := { s.queues with guestTiles := tiles ++ s.queues.guestTiles } }
  let b := bcoreOf h
  let c := s.bcore b
  let s := if k.gsv || k.mig then
      s.putBCore b { c with gshare := if k.gsv then k.gsw else c.gshare, migrate := c.migrate || k.mig }
    else s
  s.putSlot { k with state := .running, reason := 0 }

/-- Start a gang (R33): all its threads become ready in one step, and its slice begins (R43). -/
def State.startGang (s : State) (r : Launch) (k : BitVec 24) (g : List TSlot) : State :=
  (g.foldl (fun (s : State) x => s.bindSlot r x) s).withGang r.lrec k (fun x => { x with preempt := none, started := some s.cycle })

/-- Reject the records of a gang (R358); roll-call nodes that waited for them no longer do (R35). -/
def State.rejectRecords (s : State) (g : List TSlot) (reason : BitVec 8) : State :=
  let ls := (g.filterMap s.slotLaunch).eraseDups
  ls.foldl (fun (s : State) l => s.rollOn l) (g.foldl (fun (s : State) k => s.putSlot { k with state := .rejected, reason }) s)

/-- The dispatch hardware looks at the records of a gang after one has become PENDING (R358). -/
def State.dispatch (s : State) (d : BitVec 6) (lent : BitVec 6) (k : BitVec 24) : State :=
  let g := s.tables.slots.filter (fun x => x.die == d && x.state == .pending && x.lent == lent && x.gang == k)
  match ((s.tables.launchE.find? (fun e => e.die == d && e.lent == lent)).bind (fun e => s.launch? e.lrec)) with
  | none => s.rejectRecords g 0x01
  | some r =>
    if !r.live then s.rejectRecords g 0x01
    else
      let need := (r.gang k).needs (pkGang r.packet)
      let have_ := g.map (·.tig)
      if have_.any (fun i => !need.contains i) || decide (have_.eraseDups.length ≠ have_.length) then s.rejectRecords g 0x03
      else if need.all (fun i => have_.contains i) then
        let reason := s.gangReason r k g
        if reason ≠ 0 then s.rejectRecords g reason else s.startGang r k g
      else s

/-- BIND_RECORD_WRITE (R356, R358): a record into a FREE or REJECTED slot; VALID 0 makes a REJECTED slot FREE. -/
def execBindRecordWrite (d : BitVec 6) (slot : BitVec 11) (w0 w1 w2 w3 : BitVec 64) (s : State) : Out :=
  if !s.coreRuns d then .next s
  else
    let k := s.slot d slot
    if !slotExists slot || (k.state != .free && k.state != .rejected) then .next (s.fwRefusedWrite d)
    else if !w0.getLsbD 63 then .next (s.putSlot { k with state := .free })
    else
      let k : TSlot := ⟨d, slot, w0, w1, w2, w3, .pending, 0⟩
      .next ((s.putSlot k).dispatch d k.lent k.gang)

-- The launch table and claims (R354, R355).

/-- The launch open in an entry. -/
def State.openLaunch (s : State) (d lent : BitVec 6) : Option Launch :=
  (s.tables.launchE.find? (fun e => e.die == d && e.lent == lent)).bind (fun e => s.launch? e.lrec)

/-- OPEN (R354): an empty entry takes a launch record that exists. -/
def execOpenLent (d lent : BitVec 6) (l : BitVec 16) (s : State) : Out :=
  if !s.coreRuns d then .next s
  else if (s.launch? l).isNone || s.tables.launchE.any (fun e => e.die == d && e.lent == lent) then .next (s.fwDone d .refused)
  else .next (State.fwDone { s with tables := { s.tables with launchE := ⟨d, lent, l⟩ :: s.tables.launchE } } d .done)

/-- A slot of the die is PENDING, RUNNING or STOPPING for an entry. -/
def State.entryBusy (s : State) (d lent : BitVec 6) : Bool :=
  s.tables.slots.any (fun k => k.die == d && k.w0.getLsbD 63 && k.lent == lent && k.state != .rejected && k.state != .free)

/-- CLOSE (R354). -/
def execCloseLent (d lent : BitVec 6) (s : State) : Out :=
  if !s.coreRuns d then .next s
  else
    match s.openLaunch d lent with
    | none => .next (s.fwDone d .refused)
    | some r =>
      if s.entryBusy d lent || r.gangs.any (fun g => g.state == .claimed d) then .next (s.fwDone d .refused)
      else .next (State.fwDone { s with tables := { s.tables with
        launchE := s.tables.launchE.filter (fun e => !(e.die == d && e.lent == lent)) } } d .done)

/-- The stopped tasks of a gang as a bit set. -/
def Gang.stoppedSet (g : Gang) : BitVec 64 :=
  (g.resume.filter (·.state == 1)).foldl (fun a x => a ||| (1#64 <<< x.task.toNat)) 0

/-- The gang that a claim takes (R355): the re-entered one that came first, else the lowest index not claimed. -/
def Launch.nextClaim (r : Launch) : Option Gang :=
  if r.canc || !r.live then none
  else match (r.gangs.filter (fun g => g.state == .reentered)).getLast? with
    | some g => some g
    | none =>
      match (r.gangs.filter (fun g => g.state == .fresh)).foldl (fun (a : Option Gang) g => match a with
          | none => some g
          | some x => if g.idx.toNat < x.idx.toNat then some g else some x) none with
      | some g => some g
      | none => if r.nextGang.toNat < (pkNGang r.packet).toNat then some (r.gang r.nextGang) else none

/-- CLAIM (R355). -/
def execClaim (d lent : BitVec 6) (s : State) : Out :=
  if !s.coreRuns d then .next s
  else
    match s.openLaunch d lent with
    | none => .next (s.fwDone d .refused)
    | some r =>
      match r.nextClaim with
      | none => .next (s.fwDone d .none)
      | some g =>
        let fresh := r.gangs.all (fun x => x.idx != g.idx)
        let r := { r.putGang { g with state := .claimed d } with nextGang := if fresh then r.nextGang + 1 else r.nextGang }
        .next ((s.putLaunch r).fwDone d (.gang g.idx g.stoppedSet))

/-- A claim is returned (R355): a gang that had re-entered is so again, in its old place among those that did. -/
def Launch.unclaim (r : Launch) (g : Gang) : Launch :=
  r.putGang { g with state := if g.resume.any (·.state == 1) then .reentered else .fresh }

/-- UNCLAIM (R355, R360): a claimed gang with no slot PENDING, RUNNING or STOPPING is unclaimed again. -/
def execUnclaim (d lent : BitVec 6) (k : BitVec 24) (s : State) : Out :=
  if !s.coreRuns d then .next s
  else
    match s.openLaunch d lent with
    | none => .next (s.fwDone d .refused)
    | some r =>
      let g := r.gang k
      let pend := s.tables.slots.any (fun x => x.state == .pending && s.slotLaunch x == some r.lrec && x.gang == k)
      if g.state != .claimed d || pend || !(s.gangThreads r.lrec k).isEmpty then .next (s.fwDone d .refused)
      else
        .next ((s.putLaunch (r.unclaim g)).fwDone d .done)

/-- PREEMPT (R360, R43): a request against a gang that runs on the die. -/
def execPreemptCmd (d lent : BitVec 6) (k : BitVec 24) (s : State) : Out :=
  if !s.coreRuns d then .next s
  else
    match s.openLaunch d lent with
    | none => .next (s.fwDone d .refused)
    | some r =>
      if (r.gang k).state != .claimed d || (s.gangThreads r.lrec k).isEmpty then .next (s.fwDone d .refused)
      else .next ((s.raisePreempt r.lrec k).fwDone d .done)

/-- BELLPART (R360, R367): PART of an entry that the core's layer owns. -/
def execBellpart (d : BitVec 6) (slot : BitVec 8) (part : BitVec 4) (s : State) : Out :=
  if !s.coreRuns d then .next s
  else
    let e := s.belltab (stackOf d) slot
    if e.extractLsb' 14 2 = 1 ∧ e.extractLsb' 11 3 = layerOf d then
      .next ((s.writeBelltab (stackOf d) slot (part.zeroExtend 16) true).fwDone d .done)
    else .next (s.fwDone d .refused)

-- Leases (R361, R362).

/-- The words of a lease entry hold values of R361: bits not listed are zero and STATE is the hardware's. -/
def leaseEntryOk (w0 w1 w2 : Word) : Bool :=
  w0.extractLsb' 48 16 == 0 && w0.extractLsb' 0 16 == 0 && w1.extractLsb' 40 24 == 0 && w1.extractLsb' 0 16 == 0
    && w1 != 0 && w2 &&& 0x0000CFFFFFFFFFFF == 0

/-- A firmware write of the words of a lease entry (R361): while it is FREE or FAILED, else refused (R350). -/
def State.writeLease (s : State) (d : BitVec 6) (e : BitVec 8) (w0 w1 w2 : Word) : State :=
  let x := s.leaseEntry d e
  if (x.state = 0 ∨ x.state = 4) ∧ leaseEntryOk w0 w1 w2 then s.putLease { x with w0, w1, w2 } else s.fwRefusedWrite d

/-- LEASE (R361, R362): the words that come with the command are written, and a FREE entry becomes REQUESTED; its walk
follows. -/
def execLeaseCmd (d : BitVec 6) (e : BitVec 8) (w0 w1 w2 : BitVec 64) (s : State) : Out :=
  if !s.coreRuns d then .next s
  else
    let s1 := s.writeLease d e w0 w1 w2
    if (s.leaseEntry d e).state = 0 ∧ leaseEntryOk w0 w1 w2 then
      .next (((s1.putLease { s1.leaseEntry d e with state := 1 }).send (.leaseWalkDone d e)).fwDone d .done)
    else .next (s1.fwDone d .refused)

/-- The slots PENDING, RUNNING or STOPPING that name an entry (R361): USERS. -/
def State.leaseUsers (s : State) (d : BitVec 6) (e : BitVec 8) : Nat :=
  (s.tables.slots.filter (fun k => k.die == d && k.w0.getLsbD 63 && k.state != .free && k.state != .rejected
    && (match (s.slotLaunch k).bind s.launch? with
        | some r => (List.range (pkNLease r.packet)).any (fun i => k.ls i == e)
        | none => false))).length

/-- RELEASE (R362). -/
def execReleaseCmd (d : BitVec 6) (e : BitVec 8) (s : State) : Out :=
  if !s.coreRuns d then .next s
  else
    let x := s.leaseEntry d e
    if x.state = 4 ∨ (x.state = 3 ∧ s.leaseUsers d e = 0) then .next ((s.putLease { x with state := 0 }).fwDone d .done)
    else .next (s.fwDone d .refused)

/-- Every page of a range is valid and well formed (R214, R362). -/
def State.rangeMapped (s : State) (asid : BitVec 16) (base len : Nat) : Bool :=
  (List.range (len / 65536)).all (fun i => (s.walk asid (base + 65536 * i)).isSome)

/-- The first page of a range whose walk waits for a home of its tables (R22, R365). -/
def State.rangeStop (s : State) (asid : BitVec 16) (base len : Nat) : Option Nat :=
  ((List.range (len / 65536)).map (fun i => base + 65536 * i)).find? (fun x => (s.walkStop asid x).isSome)

/-- LEASE_WALK_DONE (R362): PINNED, or WAITING with a residency request to the host. -/
def execLeaseWalkDone (d : BitVec 6) (e : BitVec 8) (s : State) : Out :=
  let x := s.leaseEntry d e
  if x.state ≠ 1 then .next s
  else match s.rangeStop x.asid x.base x.len with
  | some v => .next ((s.rouseWalk x.asid v).send (.leaseWalkDone d e))
  | none =>
  if s.rangeMapped x.asid x.base x.len then .next (s.putLease { x with state := 3 })
  else .next ((s.putLease { x with state := 2 }).mail (.residency d e))

/-- HOST_RANGE_MAPPED (R362): the range is walked again. -/
def execHostRangeMapped (d : BitVec 6) (e : BitVec 8) (s : State) : Out :=
  let x := s.leaseEntry d e
  if x.state = 2 then .next ((s.putLease { x with state := 1 }).send (.leaseWalkDone d e)) else .next s

/-- HOST_LEASE_REFUSE (R362). -/
def execHostLeaseRefuse (d : BitVec 6) (e : BitVec 8) (s : State) : Out :=
  let x := s.leaseEntry d e
  if x.state = 2 then .next (s.putLease { x with state := 4 }) else .next s

-- The mailbox of the timetable core (R360, R412).

/-- FIRMWARE_MAILBOX_SEND (R360, R412): at most one message each microsecond, a faster one waits; the boundary filter
decides which kinds may leave. -/
def execFirmwareMailboxSend (d : BitVec 6) (kind : BitVec 8) (m : BitVec 512) (s : State) : Out :=
  if !s.coreRuns d then .next s
  else if !s.boundary.filter.any (fun r => match r with | .mail k => k == kind | _ => false) then .next (s.fwDone d .refused)
  else if s.boundary.fwSend.any (fun x => x.1 == d && decide (s.cycle < x.2 + cyclesPerUs)) then
    .next (s.send (.firmwareMailboxSend d kind m))
  else
    let s := { s with boundary := { s.boundary with
      fwSend := (d, s.cycle) :: s.boundary.fwSend.filter (fun (x : BitVec 6 × Nat) => x.1 != d) } }
    .next (s.mail (.firmware d m))

end Sys2Proof.Machine
end

