-- ==== Sys2Proof/Machine/Pages.lean ====
section
/-! DEFINITION. The homes of APPEND and SEALED pages: appends, seals, frees and their shootdown; page migration; the TLB
invalidation of the host; SYSC (R216, R227 to R232, R253 to R255, R303, R365, R398). -/

namespace Sys2Proof.Machine

-- Arrivals at a home (R22, R216, R228, R230, R254, R303).

/-- A message for a page reaches its home: in the state given it is served now, or it waits. A sleeping home is woken (R22). A page
that is being moved takes it into its queue, and the queue that an old home forwards comes first at the new one (R216); a page being
freed queues every request and serves them in arrival order after its reset (R303). -/
def State.inTurn (s : State) (e : Instr) (page : BitVec 36) : State × Bool :=
  let line : BitVec 52 := page ++ 0#16
  let wait (s : State) : State × Bool := (s.send e, false)
  let here (r : HomeReq) : Bool := r.who.isNone && decide (r.req = e)
  if s.early e then wait s
  else if isHbm line && !s.awake (s.homeOf line) then wait (s.rouse (s.homeOf line))
  else match s.migrationOf page.toNat with
  | some m =>
    let set (q : List HomeReq) : State := { s with caches := { s.caches with migrations := s.caches.migrations.map (fun (x : Migration) =>
      if x.page = m.page ∧ x.frame = m.frame then { x with queued := q } else x) } }
    if !m.moved then (set (m.queued ++ [⟨e, none⟩]), false)
    else if (s.foremost m.queued).any here then (set (m.queued.erase ⟨e, none⟩), true)
    else wait s
  | none =>
    match s.caches.appendPages.find? (fun g => g.page == page) with
    | none => (s, true)
    | some g =>
      if g.freeing.isNone && g.queued.isEmpty then (s, true)
      else if g.freeing.isNone && (s.foremost g.queued).any here then (s.putPage { g with queued := g.queued.erase ⟨e, none⟩ }, true)
      else if g.queued.any here then wait s
      else wait (s.putPage { g with queued := g.queued ++ [⟨e, none⟩] })

/-- Zero the bytes [lo, hi) of a page. -/
def State.zeroPage (s : State) (page : BitVec 36) (lo hi : Nat) : State := s.zeroBytes (page.toNat * 65536 + lo) (hi - lo)

/-- Where an append of `z` bytes goes (R228). -/
def appendOff (g : AppendPage) (z : Nat) : Nat := (g.reserve.toNat + (z - 1)) / z * z

/-- APPEND_ARRIVAL (R228, R254): the home reserves the bytes in arrival order, returns −1 when there is no room, and
refuses on a page that is sealed or whose seal has arrived. -/
def execAppendArrival (h : BitVec 17) (gen : OpId) (s : State) : Out :=
  match s.op? h gen with
  | none => .next s
  | some (_, o) =>
    match o.kind with
    | .append ea page data =>
      let (s, now) := s.inTurn (.appendArrival h gen) page
      if !now then .next s
      else
        let g := s.pageRec page 0
        let z := data.length
        let off := appendOff g z
        if g.isSealed || !g.seals.isEmpty then .next (s.fillRefused h gen 0xFFFFFFFFFFFFFFFE 0x06 ea)
        else if 65536 < off + z then .next (s.fillWord h gen 0xFFFFFFFFFFFFFFFF)
        else
          let s := s.zeroPage page g.reserve.toNat off
          let s := s.putPage { g with
            reserve := BitVec.ofNat 17 (off + z)
            writes := g.writes ++ [⟨BitVec.ofNat 17 off, BitVec.ofNat 7 z, false, h, gen⟩] }
          .next (s.send (.appendWriteDone page (BitVec.ofNat 17 off)))
    | _ => .next s

/-- Set the class of a leaf (R230, R232). -/
def State.setLeafClass (s : State) (pte : BitVec 52) (cls : Nat) : State :=
  let w := Memory.read64 s.mem pte.toNat
  { s with mem := Memory.write64 s.mem pte.toNat ((w &&& 0xFC7FFFFFFFFFFFFF) ||| BitVec.ofNat 64 (cls * 2 ^ 55)) }

/-- The seals that wait take effect once every append before them is done (R230): the page becomes SEALED. -/
def State.sealPage (s : State) (page : BitVec 36) : State :=
  let g := s.pageRec page 0
  if g.writes.isEmpty && !g.seals.isEmpty then
    let s := (s.putPage { g with isSealed := true, seals := [] }).setLeafClass g.pte 3
    g.seals.foldl (fun (s : State) x => (s.fillWord x.1 x.2 (g.reserve.zeroExtend 64))) s
  else s

/-- The performed writes at the head of a page's reservations: done passes them, their futures fill (R228, R253). -/
def State.advanceDone (s : State) (page : BitVec 36) : Nat → State
  | 0 => s
  | n + 1 =>
    let g := s.pageRec page 0
    match g.writes with
    | w :: rest =>
      if w.performed then
        let s := s.putPage { g with done := w.off + w.size.zeroExtend 17, writes := rest }
        ((s.fillWord w.hwid w.gen (w.off.zeroExtend 64))).advanceDone page n
      else s
    | [] => s

/-- The home of a page sleeps: what needs the page's record waits for it (R22). -/
def State.pageAsleep (s : State) (page : BitVec 36) : Bool :=
  isHbm (page ++ 0#16) && !s.awake (s.homeOf (page ++ 0#16))

/-- APPEND_WRITE_DONE (R228): the write of a reservation is performed. -/
def execAppendWriteDone (page : BitVec 36) (off : BitVec 17) (s : State) : Out :=
  let g := s.pageRec page 0
  if s.pageAsleep page then .next ((s.rouse (s.homeOf (page ++ 0#16))).send (.appendWriteDone page off))
  else match g.writes.find? (fun w => w.off == off && !w.performed) with
  | none => .next s
  | some w =>
    let data := match (s.op? w.hwid w.gen).map (·.2.kind) with
      | some (.append _ _ d) => d
      | _ => []
    let k := page.toNat * 65536 + off.toNat
    let s := { s with mem := Memory.setMany s.mem ((keysFrom k data.length).zip data) }
    let s := s.putPage { g with writes := g.writes.map (fun (x : AppendWrite) => if x.off == off then { x with performed := true } else x) }
    .next ((s.advanceDone page (g.writes.length + 1)).sealPage page)

/-- SEAL_ARRIVAL (R230): in arrival order among the page's appends; a page already sealed answers its length. -/
def execSealArrival (h : BitVec 17) (gen : OpId) (s : State) : Out :=
  match s.op? h gen with
  | none => .next s
  | some (_, o) =>
    match o.kind with
    | .sealOp _ page pte =>
      let (s, now) := s.inTurn (.sealArrival h gen) page
      if !now then .next s
      else
        let g := s.pageRec page pte
        if g.isSealed then .next ((s.fillWord h gen (g.reserve.zeroExtend 64)))
        else .next ((s.putPage { g with pte, seals := g.seals ++ [(h, gen)] }).sealPage page)
    | _ => .next s

-- Frees (R232, R303, R398).

/-- Mark a page FREEING and send the shootdown to every base die; a page being freed already takes no second one. -/
def State.startFree (s : State) (page : BitVec 36) (pte : BitVec 52) : State :=
  let g := s.pageRec page pte
  if g.freeing.isSome then s
  else
    let s := s.putPage { g with freeing := some 0, pte }
    (List.range 8).foldl (fun (s : State) k => s.send (.shootdownMessage page (BitVec.ofNat 3 k))) s

/-- The home resets a page to APPEND (R227, R232): frees complete. The requests it queued are served in their order before any
other (R303). -/
def State.resetPage (s : State) (page : BitVec 36) : State :=
  let g := s.pageRec page 0
  let s := s.putPage { g with reserve := 0, done := 0, isSealed := false, freeing := none, frees := [] }
  let s := s.setLeafClass g.pte 2
  let lo := page.toNat * 65536
  let s := { s with mem := s.mem.filter (fun c => !(decide (lo ≤ c.1) && decide (c.1 < lo + 65536))) }
  g.frees.foldl (fun (s : State) x => (s.fillWord x.1 x.2 0)) s

/-- SHOOTDOWN_MESSAGE (R303): a base die takes the shootdown and will send it in its bell slot. -/
def execShootdownMessage (page : BitVec 36) (st : BitVec 3) (s : State) : Out :=
  .next (State.send { s with queues := { s.queues with baseQ := s.queues.baseQ ++ [(st, page)] } } (.bellSlot st))

/-- SHOOTDOWN_ACK (R303): after 64 of them the page is reset. -/
def execShootdownAck (page : BitVec 36) (d : BitVec 6) (s : State) : Out :=
  let g := s.pageRec page 0
  match g.freeing with
  | none => .next s
  | some a =>
   if s.pageAsleep page then .next ((s.rouse (s.homeOf (page ++ 0#16))).send (.shootdownAck page d))
   else
    let a := a ||| (1#64 <<< d.toNat)
    let s := s.putPage { g with freeing := some a }
    .next (if a = ~~~0#64 then s.resetPage page else s)

/-- SYSC FREE (R398). -/
def execSyscFree (d a : BitVec 6) (s : State) : Out :=
  let t := s.th
  let x := s.rs a
  if x.extractLsb' 0 16 ≠ 0 then s.trap 0x03 x
  else if 0x800000000000 ≤ x.toNat ∨ !leased t.leases x.toNat true true then s.trap 0x04 x
  else match s.leaf? t x.toNat with
    | none => s.failed (s.noLeaf t x.toNat)
    | some l =>
      if l.cls ≠ 3 then s.trap 0x05 x
      else if isHbm (BitVec.ofNat 52 l.pa) && !s.awake l.home then .next (s.rouse l.home)
      else
        let page := pageNo l.pa
        let gen := s.nextGen
        let s := (s.startOp (.s d) 5 s.insn (.free page l.pte)).startFree page l.pte
        let g := s.pageRec page l.pte
        (s.putPage { g with frees := g.frees ++ [(t.hwid, gen)] }).retire

/-- HOST_FREE (R232): refused unless the page is SEALED; a sleeping home is woken for it (R22). -/
def execHostFree (asid : BitVec 16) (va : BitVec 48) (s : State) : Out :=
  if (s.walkStop asid va.toNat).isSome then .next ((s.rouseWalk asid va.toNat).send (.hostFree asid va))
  else match s.walk asid va.toNat with
  | some l =>
    if l.cls ≠ 3 then .next (s.mail (.refusal (.free asid va)))
    else if isHbm (BitVec.ofNat 52 l.pa) && !s.awake l.home then .next ((s.rouse l.home).send (.hostFree asid va))
    else .next (s.startFree (pageNo l.pa) l.pte)
  | none => .next (s.mail (.refusal (.free asid va)))

/-- SYSC HOSTEV (R398). -/
def execSyscHostev (d a : BitVec 6) (s : State) : Out :=
  ((s.startOp (.s d) 5 s.insn (.hostev (s.rs a))).send (.hostevRecordAccept s.th.hwid s.nextGen)).retire

/-- HOSTEV_RECORD_ACCEPT (R398): the mailbox takes at most one record of a thread each microsecond. -/
def execHostevRecordAccept (h : BitVec 17) (gen : OpId) (s : State) : Out :=
  match s.op? h gen with
  | none => .next s
  | some (t, o) =>
    match o.kind with
    | .hostev w0 =>
      if s.queues.lastHostev.any (fun x => x.1 == t.hwid && decide (s.cycle < x.2 + cyclesPerUs)) then
        .next (s.send (.hostevRecordAccept h gen))
      else
        let s := { s with queues := { s.queues with
          lastHostev := (t.hwid, s.cycle) :: s.queues.lastHostev.filter (fun (x : BitVec 17 × Nat) => x.1 != t.hwid) } }
        let w1 : Word := (t.owner.zeroExtend 64 <<< 36) ||| t.hwid.zeroExtend 64
        .next ((s.mail (.hostev w0 w1)).fillWord h gen 0)
    | _ => .next s

-- Migration (R216).

/-- A key of an old frame as it stands in the new one. -/
def moveKey (old new n k : Nat) : Nat := if old ≤ k ∧ k < old + n then new + (k - old) else k

/-- A 52-bit address, moved. -/
def moveAddr (old new n : Nat) (a : BitVec 52) : BitVec 52 := BitVec.ofNat 52 (moveKey old new n a.toNat)

/-- A 36-bit page number, moved. -/
def movePage (old new n : Nat) (p : BitVec 36) : BitVec 36 := BitVec.ofNat 36 (moveKey old new n (p.toNat * 65536) / 65536)

/-- A coherence message, its line moved. -/
def moveMsg (old new n : Nat) (m : CohMsg) : CohMsg := { m with line := moveAddr old new n m.line }

/-- A request for a page of `n` bytes at `old`, as the new home at `new` takes it (R216): one that its home serves (R293, R228,
R230). `opPage` gives the page of an append or a seal. -/
def moveRequest (old new n : Nat) (opPage : BitVec 17 → OpId → Option (BitVec 36)) (e : Instr) : Option Instr :=
  let inside (k : Nat) : Bool := decide (old ≤ k) && decide (k < old + n)
  let moved (m : CohMsg) (f : CohMsg → Instr) : Option Instr := if inside m.line.toNat then some (f (moveMsg old new n m)) else none
  let arrival (h : BitVec 17) (g : OpId) : Option Instr := if (opPage h g).any (fun p => inside (p.toNat * 65536)) then some e else none
  match e with
  | .gets m => moved m .gets
  | .geto m f => moved m (.geto · f)
  | .geti m => moved m .geti
  | .getu m => moved m .getu
  | .wrm m k b => moved m (.wrm · k b)
  | .amoh m a w o v c => moved m (.amoh · a w o v c)
  | .putb m k b => moved m (.putb · k b)
  | .appendArrival h g => arrival h g
  | .sealArrival h g => arrival h g
  | _ => none

/-- An event in flight that is no request of R293, its page moved: the write of an append whose bytes are reserved, an access of
the host that waits at the old home. -/
def moveEvent (old new n : Nat) : Instr → Instr
  | .appendWriteDone p off => .appendWriteDone (movePage old new n p) off
  | .hostMemAccess pa w k b => .hostMemAccess (moveAddr old new n pa) w k b
  | e => e

/-- A queued request, its line and the one behind it moved. -/
def HomeReq.move (old new n : Nat) (r : HomeReq) : HomeReq :=
  { req := (moveRequest old new n (fun _ _ => none) r.req).getD r.req
    who := r.who.map (fun w => match w with
      | .event e => .event (moveEvent old new n e)
      | w => w) }

/-- An operation's page, moved. -/
def OpKind.move (old new n : Nat) : OpKind → OpKind
  | .append ea p d => .append ea (movePage old new n p) d
  | .sealOp ea p pte => .sealOp ea (movePage old new n p) pte
  | .free p pte => .free (movePage old new n p) pte
  | .range ls => .range (ls.map (fun x => (moveAddr old new n x.1, x.2)))
  | k => k

/-- A store on its way, moved. -/
def HeldStore.move (old new n : Nat) (h : HeldStore) : HeldStore :=
  { h with writes := h.writes.map (fun w => ({ w.1 with key := moveKey old new n w.1.key }, w.2)) }

/-- A thread's operations and stores on their way, moved. -/
def Thread.move (old new n : Nat) (t : Thread) : Thread :=
  { t with
    ops := t.ops.map (fun o => { o with kind := o.kind.move old new n })
    held := t.held.map (HeldStore.move old new n)
    buf := t.buf.map (HeldStore.move old new n) }

/-- A home drives every line of a region to state U by the transitions of R294, lines in state P apart (R216, R298). -/
def State.clearRegion (s : State) (r : BitVec 52) : State :=
  (List.range 8).foldl (fun (s : State) k =>
    let l := r + BitVec.ofNat 52 (64 * k)
    if s.lineState l = 3 ∨ s.lineState l = 0 then s
    else (s.settleLine (s.probeFor .atom l) l (fun _ _ => false)).setLine l 0) s

/-- Step 2 of R216: modified copies of a page come home and every other copy goes. -/
def State.gatherPage (s : State) (old n : Nat) : State :=
  let inOld (k : Nat) : Bool := decide (old ≤ k) && decide (k < old + n)
  let s := (s.caches.dir.filter (fun e => inOld e.region.toNat)).foldl (fun (s : State) e => s.clearRegion e.region) s
  { s with
    caches := { s.caches with
      copies := s.caches.copies.filter (fun c => !inOld c.line.toNat)
      dieF := s.caches.dieF.filter (fun e => !inOld e.region.toNat)
      iblocks := s.caches.iblocks.filter (fun b => !inOld b.pa.toNat)
      tlbs := s.caches.tlbs.filter (fun e => !inOld ((e.leaf.extractLsb' 16 36).toNat * 65536)) }
    pending := s.pending.filter (fun e => match e with | .dataMsg m false _ _ => !inOld m.line.toNat | _ => true) }

/-- A frame that a page is to be moved to keeps nothing of what it held: no copy, no mark, no record. -/
def State.vacate (s : State) (new n : Nat) : State :=
  let s := s.gatherPage new n
  let inNew (k : Nat) : Bool := decide (new ≤ k) && decide (k < new + n)
  { s with caches := { s.caches with
      poison := s.caches.poison.filter (fun l => !inNew l.toNat)
      badSectors := s.caches.badSectors.filter (fun l => !inNew l.toNat)
      dir := s.caches.dir.filter (fun e => !inNew e.region.toNat)
      dieCopies := s.caches.dieCopies.filter (fun c => !inNew c.line.toNat)
      replicas := s.caches.replicas.filter (fun r => !inNew r.2.toNat)
      appendPages := s.caches.appendPages.filter (fun g => !inNew (g.page.toNat * 65536)) } }

/-- Move a page (R216): steps 2 to 4. The frame, its directory entries and marks, its append record and the requests queued for it
move, the leaf is rewritten, every TLB entry goes. -/
def State.movePageTo (s : State) (l : Leaf) (new : Nat) (home : BitVec 6) : State :=
  let old := l.pa
  let n := l.size
  let s := ((s.vacate new n).gatherPage old n).copyBytes old new n
  let w := Memory.read64 s.mem l.pte.toNat
  let w' := (w &&& 0x03F000000000FFFF) ||| (home.zeroExtend 64 <<< 58) ||| BitVec.ofNat 64 new
  let s := { s with
    mem := Memory.write64 s.mem l.pte.toNat w'
    caches := { s.caches with
      poison := s.caches.poison.map (moveAddr old new n)
      badSectors := s.caches.badSectors.map (moveAddr old new n)
      dir := s.caches.dir.map (fun (e : DirEntry) => { e with region := moveAddr old new n e.region })
      appendPages := s.caches.appendPages.map (fun (g : AppendPage) => { g with page := movePage old new n g.page })
      migrations := s.caches.migrations.map (fun (m : Migration) =>
        if m.page.toNat * 65536 = old then { m with queued := m.queued.map (HomeReq.move old new n), moved := true } else m) } }
  let s := s.mapThreads (Thread.move old new n)
  let s := { s with
    pending := s.pending.map (moveEvent old new n)
    queues := { s.queues with orphans := s.queues.orphans.map (fun (o : OpId × Thread × Op) =>
      (o.1, o.2.1.move old new n, { o.2.2 with kind := o.2.2.kind.move old new n })) } }
  (List.range (n / 65536)).foldl (fun (s : State) i =>
    if new + 65536 * i < 2 ^ 40 then s.writeFrameHome (BitVec.ofNat 24 (new / 65536 + i)) (home.zeroExtend 8) else s) s

/-- A page may be moved to a frame (R216): 64 KiB or 2 MiB, of class NORMAL, CONST or APPEND, to a place its leaf can
name. -/
def State.movable (_s : State) (l : Leaf) (new : Nat) : Bool :=
  (l.cls == 0 || l.cls == 5 || l.cls == 2) && l.size != 0x40000000 && new % l.size == 0
    && (physOf new == .hbm || (physOf new == .host && l.cls == 0)) && physOf (new + (l.size - 1)) == physOf new
    && !(decide (new < l.pa + l.size) && decide (l.pa < new + l.size))

/-- A page cannot be moved yet: a home sleeps, an earlier move of it has still to be forwarded or to be made. -/
def State.moveBusy (s : State) (l : Leaf) (new : Nat) (home : BitVec 6) : Bool :=
  let inOld (k : Nat) : Bool := decide (l.pa ≤ k) && decide (k < l.pa + l.size)
  (isHbm (BitVec.ofNat 52 l.pa) && !s.awake l.home) || !s.awake home
    || s.pending.any (fun e => match e with
        | .redirect p => inOld (p.toNat * 65536)
        | _ => false)
    || s.caches.migrations.any (fun m => if m.moved then inOld (m.frame.toNat * 65536) && !m.queued.isEmpty
        else inOld (m.page.toNat * 65536) && decide (m.frame.toNat * 65536 ≠ new))

/-- A line of a page has a transaction, or an answer under way: the old home ends those before the page is moved. -/
def State.moveWaits (s : State) (l : Leaf) : Bool :=
  let inOld (k : Nat) : Bool := decide (l.pa ≤ k) && decide (k < l.pa + l.size)
  s.caches.txs.any (fun x => inOld x.line.toNat)
    || s.pending.any (fun e => match e with
        | .puto m _ => inOld m.line.toNat
        | .lostMsg m => inOld m.line.toNat
        | .dataMsg m _ _ _ => inOld m.line.toNat && m.rq != 2
        | .ackMsg m _ _ => inOld m.line.toNat
        | _ => false)

/-- A queued request as a page's queue holds it once: those of an append page are in flight too. -/
def onceMore (q : List HomeReq) (es : List Instr) : List HomeReq :=
  q ++ (es.filter (fun e => !q.any (fun r => decide (r.req = e) && r.who.isNone))).map (fun e => ⟨e, none⟩)

/-- Step 1 of R216: the old home queues every request for the page in arrival order and grants nothing further. -/
def State.freeze (s : State) (l : Leaf) (new : Nat) (home : BitVec 6) : State :=
  let old := pageNo l.pa
  if s.caches.migrations.any (fun m => m.page == old && !m.moved) then s
  else
    let opPage (h : BitVec 17) (g : OpId) := (s.op? h g).bind (fun x => x.2.kind.page?)
    let mine (e : Instr) : Bool := (moveRequest l.pa new l.size opPage e).isSome
    let inOld (k : Nat) : Bool := decide (l.pa ≤ k) && decide (k < l.pa + l.size)
    let pages := s.caches.appendPages.filter (fun g => inOld (g.page.toNat * 65536))
    let q := onceMore (pages.flatMap (·.queued) ++ s.caches.homeQ.filter (fun r => mine r.req)) (s.pending.filter mine)
    { s with
      pending := s.pending.filter (fun e => !mine e)
      caches := { s.caches with
        homeQ := s.caches.homeQ.filter (fun r => !mine r.req)
        appendPages := s.caches.appendPages.map (fun (g : AppendPage) => if inOld (g.page.toNat * 65536) then { g with queued := [] } else g)
        migrations := s.caches.migrations.filter (fun m => !m.moved || !m.queued.isEmpty)
          ++ [⟨old, pageNo new, l.size / 65536, home, q, false⟩] } }

/-- A move that has queued requests and that is not made after all gives them back to the home. -/
def State.thaw (s : State) (frame : BitVec 36) : State :=
  match s.caches.migrations.find? (fun m => m.frame == frame && !m.moved) with
  | none => s
  | some m =>
    let line (r : HomeReq) : Bool := (requestMsg r.req).isSome
    let s := { s with caches := { s.caches with
      migrations := s.caches.migrations.erase m
      homeQ := s.caches.homeQ ++ m.queued.filter line } }
    let s := (m.queued.filter (fun r => !line r)).foldl (fun (s : State) r => s.send r.req) s
    ((m.queued.filterMap (fun r => (requestMsg r.req).map (·.line))).eraseDups).foldl (fun (s : State) x => s.homeGoesOn x) s

/-- PAGE_MIGRATION (R216): the host moves a page. The old home queues the requests for it from then on, the page is moved when the
transactions in progress on it have ended, and REDIRECT forwards the queue. A page that is not mapped, or that may not be moved so,
gets the host a refusal: the rule says only that such pages are never moved (DESIGN CHOICE, log entry 107). -/
def execPageMigration (asid : BitVec 16) (va : BitVec 48) (frame : BitVec 52) (home : BitVec 6) (s : State) : Out :=
  let again (s : State) : Out := .next (s.send (.pageMigration asid va frame home))
  let refuse : Out := .next ((s.thaw (pageNo frame.toNat)).mail (.refusal (.migrate asid va)))
  if (s.walkStop asid va.toNat).isSome then again (s.rouseWalk asid va.toNat)
  else match s.walk asid va.toNat with
  | none => refuse
  | some l =>
    if !s.movable l frame.toNat then refuse
    else if s.moveBusy l frame.toNat home then again ((s.rouse l.home).rouse home)
    else
      let s := s.freeze l frame.toNat home
      if s.moveWaits l then again s
      else .next ((s.movePageTo l frame.toNat home).send (.redirect (pageNo l.pa)))

/-- REDIRECT (R216): the old home of a page forwards its queue, in order, to the new one, which serves it first: the messages are on
their way to it, and those who stand behind the other requests find their places there. -/
def execRedirect (page : BitVec 36) (s : State) : Out :=
  let done (s : State) : State := { s with caches := { s.caches with
    migrations := s.caches.migrations.filter (fun m => !m.moved || !m.queued.isEmpty) } }
  match s.caches.migrations.find? (fun m => m.page == page && m.moved && !m.queued.isEmpty) with
  | none => .next (done s)
  | some m => .next (done ((m.queued.filter (·.who.isNone)).foldl (fun (s : State) r => s.sendOnce r.req) s))

/-- HOST_INVALIDATE (R365): every TLB drops the entries of a range of an address space. -/
def execHostInvalidate (asid : BitVec 16) (va len : BitVec 48) (s : State) : Out :=
  .next { s with caches := { s.caches with tlbs := s.caches.tlbs.filter (fun e =>
    !(e.asid == asid && decide (e.va.toNat < va.toNat + len.toNat) && decide (va.toNat < e.va.toNat + e.size.toNat))) } }

end Sys2Proof.Machine
end

