-- ==== Sys2Proof/Machine/Coherence.lean ====
section
/-! DEFINITION. The coherence messages at the home directory, the die filters and the class filters (R289 to R304, R226).
What a request writes is written when its transaction completes; several requests in one cycle reach a home in the order of the
tape (log entry 108). -/

namespace Sys2Proof.Machine

-- Requests and their answers (R294, R296).

/-- A WRM with .w from a pool that holds a copy, which was updated in place (R294). -/
def State.wrmInPlace (s : State) (m : CohMsg) : Bool := m.rq == 1 && (s.classEntry m.die m.pool m.line).isSome

/-- What a request asks of its line's home (R293); the dirty bytes of an SWM copy are a masked write (R226). -/
def State.askOf (s : State) : Instr → Ask
  | .gets _ => .gets
  | .geto _ full => .geto full
  | .wrm m mask _ => .wrm (s.wrmInPlace m) (mask == ~~~0#64)
  | .putb _ mask _ => .wrm false (mask == ~~~0#64)
  | .amoh _ _ _ _ _ _ => .atom
  | .hostSnoop _ .share => .geti
  | .hostSnoop _ _ => .atom
  | _ => .geti

/-- Merge the enabled bytes of a line (R296): every other byte stays. -/
def mergeLine (mem : List Host.Cell) (l : Nat) (mask : BitVec 64) (bytes : BitVec 512) : List Host.Cell :=
  (List.range 64).foldl (fun m k => if mask.getLsbD k then Memory.set m (l + k) (lineByte bytes k) else m) mem

/-- A masked write at the home; whole sectors clear their marks (R301, R419). -/
def State.maskedWrite (s : State) (l : BitVec 52) (mask : BitVec 64) (bytes : BitVec 512) : State :=
  let whole (k : Nat) : Bool := (List.range 32).all (fun i => mask.getLsbD (k + i))
  { s with
    mem := mergeLine s.mem l.toNat mask bytes
    caches := { s.caches with badSectors := s.caches.badSectors.filter (fun x =>
      !((x.toNat == l.toNat && whole 0) || (x.toNat == l.toNat + 32 && whole 32))) } }

/-- The answer with a line's data. -/
def State.sendData (s : State) (m : CohMsg) : State := s.send (.dataMsg m false false (s.memLine m.line.toNat))

/-- The home's part of an atomic (R294): the old value and the memory after it. -/
def State.amoAt (s : State) (k n aop v cmp : Nat) : State × Nat :=
  let old := Memory.readNat s.mem k n
  ({ s with mem := Memory.writeNat s.mem k n (amoNew aop n old (v % 2 ^ (8 * n)) (cmp % 2 ^ (8 * n))) }, old)

/-- A line in state P answers POISON to a request that does not write it whole (R294, R301). -/
def State.answerPoison (s : State) (e : Instr) (m : CohMsg) : State :=
  match e with
  | .hostSnoop _ _ => s.mail .poisoned
  | _ => s.send (.poisonMsg m)

/-- The line that a host snoop returns (R409), with its check verified as it leaves the module: data that fail it are poisoned, and
post their event (R419). -/
def State.snooped (s : State) (l : BitVec 52) : State :=
  match s.caches.badSectors.find? (fun x => decide (x.toNat / 64 = l.toNat / 64)) with
  | some x => (s.mail .poisoned).machineCheck (Config.unitNo (2 ^ 15)) .check x none
  | none => s.mail (.read (s.memLine l.toNat))

/-- What a home does when a request's probes are answered: its writes, the line's next state, its answer (R294). -/
def State.complete (s : State) (e : Instr) (m : CohMsg) : State :=
  let a := s.askOf e
  if s.askPoisoned a m.line then s.answerPoison e m
  else
    let go (s : State) : State := s.transition a m.line m.die
    match e with
    | .gets _ => (go s).sendData m
    | .geto _ full => if full ∧ s.lineState m.line ≠ 1 then (go s).send (.ackMsg m false false) else (go s).sendData m
    | .geti _ => (go s).sendData m
    | .getu _ => (go s).sendData { m with rq := 3 }
    | .wrm _ mask bytes => (go (s.maskedWrite m.line mask bytes)).send (.ackMsg m false false)
    | .putb _ mask bytes => (go (s.maskedWrite m.line mask bytes)).send (.ackMsg { m with rq := 3 } false false)
    | .amoh _ aop wide off v cmp =>
      let n := if wide then 8 else 4
      let x := s.amoAt (m.line.toNat + off.toNat / n * n) n aop.toNat v.toNat cmp.toNat
      (go x.1).send (.dataMsg { m with rq := 3 } false false (BitVec.ofNat 512 x.2))
    | .hostSnoop _ _ => (go s).snooped m.line
    | _ => s

-- Transactions (R294, R295).

/-- Start a transaction on a line: it is BUSY until the dies of `need` have answered. -/
def State.startTx (s : State) (e : Instr) (l : BitVec 52) (need : BitVec 64) : State :=
  let s := s.setBusy l true
  { s with caches := { s.caches with txs := s.caches.txs ++ [⟨l, e, need⟩] } }

/-- A home serves a request for a line on which nothing is in progress (R294). -/
def State.serve (s : State) (e : Instr) (m : CohMsg) : State :=
  let s := s.homeCount m.line 0x0020
  match s.probeFor (s.askOf e) m.line with
  | .none => s.complete e m
  | .inv dies =>
    if dies = 0 then s.complete e m
    else ((List.range 64).filter (fun d => dies.getLsbD d)).foldl
      (fun (s : State) d => s.send (.invMsg { m with die := BitVec.ofNat 6 d })) (s.startTx e m.line dies)
  | .recall d => (s.startTx e m.line (1#64 <<< d.toNat)).send (.recallMsg { m with die := d })
  | .down d => (s.startTx e m.line (1#64 <<< d.toNat)).send (.downMsg { m with die := d })

/-- The oldest requests queued for a line are served while the line is free (R295); `n` bounds their number. One that someone stands
behind is served when they come. -/
def State.serveQueued (s : State) (l : BitVec 52) : Nat → State
  | 0 => s
  | n + 1 =>
    if !s.lineFree l then s
    else match s.caches.homeQ.find? (·.forLine l) with
    | none => s
    | some r =>
      match requestMsg r.req, r.who with
      | some m, none => (({ s with caches := { s.caches with homeQ := s.caches.homeQ.erase r } } : State).serve r.req m).serveQueued l n
      | _, _ => s

/-- As `serveQueued`, for all that wait. -/
def State.serveLine (s : State) (l : BitVec 52) : State := s.serveQueued l (s.caches.homeQ.length + 1)

/-- The order in which requests for a line that meet in one cycle are served: from the port the rotating pointer names on
(R299). -/
def portOrder {α : Type} (ptr : BitVec 2) (reqs : List (BitVec 2 × α)) : List α :=
  [0, 1, 2, 3].flatMap (fun i => (reqs.filter (fun r => r.1 == ptr + i)).map (·.2))

/-- A racer asks something of a line's home: a request of R293 for the line, an access of the host to it (R425), or a store of a
thread on its way whose first unit lies there. -/
def State.racesFor (s : State) (l : BitVec 52) : Racer → Bool
  | .request (.hostMemAccess pa _ _ _) => decide (lineOf pa.toNat = l.toNat)
  | .request e => (requestMsg e).any (fun m => m.line == l)
  | .store h => ((s.thread? h).bind (fun t => t.buf.head?)).any (fun b =>
      (b.writes.head?.bind (fun w => w.1.lines.head?)).any (fun x => decide (x = l.toNat)))

/-- What a racer comes to at its turn. -/
def Racer.input : Racer → Input
  | .request e => .event e
  | .store h => .drain h

/-- A racer's message is no longer in flight. -/
def Racer.leaves (p : List Instr) : Racer → List Instr
  | .request e => p.erase e
  | .store _ => p

/-- Requests for a line reach its home slice in one cycle (R299). They come next, in port order, and the pointer advances by
one when two or more of them compete. What is no request for the line takes no part. -/
def State.race (s : State) (l : BitVec 52) (reqs : List (BitVec 2 × Racer)) : State :=
  let reqs := reqs.filter (fun r => s.racesFor l r.2)
  let ptr := (lookup? s.caches.ports (s.sliceOf l)).getD 0
  let order := portOrder ptr reqs
  { s with
    tape := order.map Racer.input ++ s.tape
    pending := order.foldl Racer.leaves s.pending
    caches := { s.caches with
      ports := if order.length ≤ 1 then s.caches.ports else assoc s.caches.ports (s.sliceOf l) (ptr + 1) } }

/-- A page is of class APPEND or SEALED, as its home's record says (R227): no tier tracks its lines (R289, R303). -/
def State.untracked (s : State) (l : BitVec 52) : Bool := (s.appendPage? l.toNat).isSome

/-- A home takes a request for a line (R294, R295): one in progress on the line, or one queued for it, comes first. The queue
of a slice holds 64; beyond them a request waits in its router. -/
def State.request (s : State) (e : Instr) (m : CohMsg) : State :=
  let x := s.inTurn e (pageNo m.line.toNat)
  let s := x.1
  if !x.2 then s
  else if s.untracked m.line then
    (match e with
    | .gets _ | .geti _ | .getu _ => s.sendData { m with rq := 3 }
    | _ => s)
  else if s.lineFree m.line && !s.caches.homeQ.any (·.forLine m.line) then s.serve e m
  else if 64 ≤ (s.sliceQueue m.line).length then s.send e
  else State.homeCount { s with caches := { s.caches with homeQ := s.caches.homeQ ++ [⟨e, none⟩] } } m.line 0x0021

/-- GETS (R294). -/
def execGets (m : CohMsg) (s : State) : Out := .next (s.request (.gets m) m)

/-- GETO (R294). -/
def execGeto (m : CohMsg) (full : Bool) (s : State) : Out := .next (s.request (.geto m full) m)

/-- GETI (R294). -/
def execGeti (m : CohMsg) (s : State) : Out := .next (s.request (.geti m) m)

/-- GETU (R294). -/
def execGetu (m : CohMsg) (s : State) : Out := .next (s.request (.getu m) m)

/-- WRM (R294, R296). -/
def execWrm (m : CohMsg) (mask : BitVec 64) (bytes : BitVec 512) (s : State) : Out := .next (s.request (.wrm m mask bytes) m)

/-- PUTB (R226): the home merges an SWM line's dirty bytes. -/
def execPutb (m : CohMsg) (mask : BitVec 64) (bytes : BitVec 512) (s : State) : Out := .next (s.request (.putb m mask bytes) m)

/-- AMOH (R294). -/
def execAmoh (m : CohMsg) (aop : BitVec 4) (wide : Bool) (off : BitVec 6) (v cmp : BitVec 64) (s : State) : Out :=
  .next (s.request (.amoh m aop wide off v cmp) m)

/-- HOST_SNOOP (R409): the agent on base die 0 is the home of every line of host memory and handles a snoop as a probe. -/
def execHostSnoop (line : BitVec 52) (k : SnoopKind) (s : State) : Out :=
  let l := line &&& 0xFFFFFFFFFFFC0
  if physOf line.toNat = .host then .next (s.request (.hostSnoop l k) ⟨l, 0, 31, 3, 0⟩) else .next s

-- Answers (R294, R295, R297, R299).

/-- The last answer of a transaction completes it, and the requests that waited for the line are served. -/
def State.finishTx (s : State) (x : LineTx) : State :=
  let s := State.setBusy { s with caches := { s.caches with txs := s.caches.txs.erase x } } x.line false
  match requestMsg x.req with
  | some m => (s.complete x.req m).serveLine x.line
  | none => s

/-- The transaction on a line awaits an answer of a die. -/
def State.awaits (s : State) (l : BitVec 52) (d : BitVec 6) : Option LineTx :=
  s.caches.txs.find? (fun x => x.line == l && x.need.getLsbD d.toNat)

/-- A die has answered a probe of the transaction on a line. -/
def State.answered (s : State) (l : BitVec 52) (d : BitVec 6) (none : Bool) : State :=
  match s.awaits l d with
  | .none => s
  | some x =>
    let need := setField x.need d.toNat 1 0
    let s := s.noteAnswer l d none
    if need = 0 then s.finishTx x
    else { s with caches := { s.caches with txs := s.caches.txs.map (fun y => if y.line == l then { y with need := need } else y) } }

/-- The pool that a GETO, or a WRM that updated its copy in place, excludes from its INVs (R294). -/
def State.excluded (s : State) (l : BitVec 52) (d : BitVec 6) (p : BitVec 5) : Bool :=
  match (s.caches.txs.find? (fun x => x.line == l)).map (fun (x : LineTx) => x.req) with
  | some (.geto m _) => m.die == d && m.pool == p
  | some (.wrm m _ _) => m.die == d && m.pool == p && s.wrmInPlace m
  | _ => false

/-- A message between a line's home and a die comes before a probe: data or ownership that a winner has still to take in, with
the access that asked for it, or the line that its owner has
returned or lost (R299, R300). -/
def State.probeWaits (s : State) (m : CohMsg) : Bool :=
  s.pending.any (fun e => match e with
    | .dataMsg x false _ _ => x.line == m.line && x.die == m.die && decide (x.rq.toNat ≤ 1)
    | .ackMsg x false _ => x.line == m.line && x.die == m.die && x.rq == 0
    | .puto x _ => x.line == m.line && x.die == m.die
    | .lostMsg x => x.line == m.line && x.die == m.die
    | _ => false)

/-- INV (R297): a die with no filter entry answers at once; else its pools' shared copies go. -/
def execInvMsg (m : CohMsg) (s : State) : Out :=
  if s.probeWaits m then .next (s.send (.invMsg m))
  else
    let x := s.dieInv m.die m.line (s.excluded m.line m.die)
    .next (x.1.send (.ackMsg m true x.2))

/-- A pool of a die owns a line. -/
def State.ownedOn (s : State) (d : BitVec 6) (l : BitVec 52) : Bool :=
  s.caches.classF.any (fun c => c.die == d && c.line == l && c.state == 2)

/-- The answer to a RECALL or DOWN: the data of a line that is owned there, else an ACK (R297). -/
def State.probeAnswer (s : State) (m : CohMsg) (owned none : Bool) : State :=
  if owned then s.send (.dataMsg m true none (s.memLine m.line.toNat)) else s.send (.ackMsg m true none)

/-- RECALL (R297): the owner returns the line and keeps nothing. -/
def execRecallMsg (m : CohMsg) (s : State) : Out :=
  if s.probeWaits m then .next (s.send (.recallMsg m))
  else
    let x := s.dieRecall m.die m.line
    .next (x.1.probeAnswer m (s.ownedOn m.die m.line) x.2)

/-- DOWN (R297): the owner returns the line and keeps it shared. -/
def execDownMsg (m : CohMsg) (s : State) : Out :=
  if s.probeWaits m then .next (s.send (.downMsg m))
  else
    let x := s.dieDown m.die m.line
    .next (x.1.probeAnswer m (s.ownedOn m.die m.line) x.2)

/-- The bytes of a line at its home. -/
def State.putLine (s : State) (l : BitVec 52) (bytes : BitVec 512) : State :=
  { s with mem := Memory.setMany s.mem ((List.range 64).map (fun k => (l.toNat + k, lineByte bytes k))) }

/-- A pool takes in the ownership of a line that its home has given its die; one without room for an L1 returns it. -/
def State.takeOwned (s : State) (m : CohMsg) : State :=
  if !s.dieOwns m.line m.die then s
  else if s.poolKeeps m.die m.pool then s.record ⟨m.die, m.pool, m.line, false, true, 2, 0⟩
  else s.setLine m.line 0

/-- A pool takes in a shared copy that its home still records for its die. -/
def State.takeShared (s : State) (m : CohMsg) : State :=
  if s.lineState m.line == 1 && (s.dirOf m.line).dv.getLsbD m.die.toNat && s.poolKeeps m.die m.pool then
    s.record ⟨m.die, m.pool, m.line, false, false, 1, 0⟩
  else s

/-- A pool takes in an unrecorded copy (R222): of an SWM line, the bytes of its die's copy (R225). -/
def State.takeCopy (s : State) (m : CohMsg) (bytes : BitVec 512) : State :=
  if (s.classEntry m.die m.pool m.line).isSome || !s.poolKeeps m.die m.pool then s
  else s.install m.die m.pool m.line (((s.dieCopyOf m.die m.line.toNat).map (·.bytes)).getD bytes)

/-- ACK (R294, R297): at a home, an answer of a die; at a pool, completion, with ownership for a GETO that is FULL. The completion of
a write-back goes on with the range instructions that sent it (R257). -/
def execAckMsg (m : CohMsg) (toHome none : Bool) (s : State) : Out :=
  if toHome then .next (s.answered m.line m.die none)
  else .next (((if m.rq = 0 then s.takeOwned m else s).merged m.die m.line).serveLine m.line)

/-- DATA (R294, R297): at a home, an owner's answer, whose bytes are written; at a pool, a line, recorded for .o and .w,
unrecorded for .i, not kept for .u (R222). -/
def execDataMsg (m : CohMsg) (toHome none : Bool) (bytes : BitVec 512) (s : State) : Out :=
  if toHome then
    .next (((if (s.awaits m.line m.die).isSome && s.dieOwns m.line m.die then s.putLine m.line bytes else s)).answered m.line m.die none)
  else .next ((match m.rq.toNat with
    | 0 => s.takeOwned m
    | 1 => s.takeShared m
    | 2 => s.takeCopy m bytes
    | _ => s).serveLine m.line)

/-- PUTO (R294, R299): the owner returns the line, with its data if they are dirty. They are the answer of a RECALL or DOWN that
crosses it, whose ACK follows; a PUTO of a die that owns nothing is acknowledged and its data are discarded. -/
def execPuto (m : CohMsg) (data : Option (BitVec 512)) (s : State) : Out :=
  let s := ((s.unrecord m.die m.pool m.line).trimDie m.die m.line).1.homeCount m.line 0x0020
  let s :=
    if s.dieOwns m.line m.die && !s.ownedOn m.die m.line then
      let s := match data with | some x => s.putLine m.line x | none => s
      if s.lineBusy m.line then s else s.setLine m.line 0
    else s
  .next ((s.send (.ackMsg { m with rq := 3 } false false)).serveLine m.line)

/-- The message comes from a die's slice, not from one of its pools (log entry 108). -/
def fromSlice (m : CohMsg) : Bool := decide (24 ≤ m.pool.toNat)

/-- LOST (R300, R301): the line's only data are gone, in a pool of the die that owns the line, or in a slice; it is in state
P. A RECALL or DOWN of the die is answered by it, and the request that waited ends with POISON. -/
def execLostMsg (m : CohMsg) (s : State) : Out :=
  if !(fromSlice m || s.dieOwns m.line m.die) then .next (s.serveLine m.line)
  else
    let s := (s.unrecord m.die m.pool m.line).homeCount m.line 0x0020
    let s := ((if fromSlice m then s.dropDie m.die m.line else s).setLine m.line 3)
    let probed (e : Instr) : Bool := match e with
      | .recallMsg x => x.line == m.line && x.die == m.die
      | .downMsg x => x.line == m.line && x.die == m.die
      | _ => false
    if s.pending.any probed then
      .next (State.answered { s with pending := s.pending.filter (fun e => !probed e) } m.line m.die false)
    else .next (s.serveLine m.line)

/-- POISON (R301): the request ends with no data, so that its pool keeps no copy of the line. A write-back that a range instruction
sent ends its task. -/
def execPoisonMsg (m : CohMsg) (s : State) : Out :=
  let s := s.unrecord m.die m.pool m.line
  let s := { s with caches := { s.caches with
    copies := s.caches.copies.filter (fun c => !(c.die == m.die && c.pool == m.pool && c.line == m.line && !c.isConst)) } }
  .next (if m.rq = 1 ∧ fromSlice m then s.rangePoisoned m.die m.line else s)

-- Drops and reuse (R226, R298).

/-- A die drops its copies of a line (R226, R298): clean ones silently, an owned one by PUTO, its SWM copy with a write-back of
the dirty bytes. -/
def State.dropCopies (s : State) (d : BitVec 6) (l : BitVec 52) : State :=
  let s := (s.caches.classF.filter (fun c => c.die == d && c.line == l && !c.stash)).foldl
    (fun (s : State) c => s.returnLine d c.pool l) s
  let s := { s with caches := { s.caches with
    copies := s.caches.copies.filter (fun c => !(c.die == d && c.line == l))
    replicas := s.caches.replicas.filter (fun r => !(r.1 == d && r.2 == l)) } }
  match s.dieCopyOf d l.toNat with
  | some _ => if s.lineHeld d l then s else (s.writeBackDie d l).dropDie d l
  | none => s

/-- One pool of a die drops its copies of a line (R298): a clean one silently, so that the bits of the die filter and of the home may
stay set, an owned one by PUTO. -/
def State.dropPool (s : State) (d : BitVec 6) (p : BitVec 5) (l : BitVec 52) : State :=
  let s := (s.caches.classF.filter (fun c => c.die == d && c.pool == p && c.line == l && !c.stash)).foldl
    (fun (s : State) c => s.returnLine d c.pool l) s
  { s with caches := { s.caches with
    copies := s.caches.copies.filter (fun c => !(c.die == d && c.pool == p && c.line == l)) } }

/-- A home reuses a directory entry (R298): first every line of its region is driven to state U. An entry with a BUSY bit, or
with an answer under way, is not chosen. -/
def State.reuseDir (s : State) (r : BitVec 52) : State :=
  let r := regionOfLine r
  let lines := (List.range 8).map (fun k => r + BitVec.ofNat 52 (64 * k))
  if lines.all s.lineFree then
    let s := s.clearRegion r
    { s with caches := { s.caches with dir := s.caches.dir.filter (fun e => e.region != r) } }
  else s

/-- A die filter reuses an entry (R298): INV of every line of its region to every pool and slice it names; owned lines and dirty
SWM bytes go home. -/
def State.reuseFilter (s : State) (d : BitVec 6) (r : BitVec 52) : State :=
  let r := regionOfLine r
  let lines := (List.range 8).map (fun k => r + BitVec.ofNat 52 (64 * k))
  if lines.all s.lineFree then
    let s := lines.foldl (fun (s : State) l =>
      let s := s.probeStashOn d l.toNat
      let s := (s.caches.classF.filter (fun c => c.die == d && c.line == l)).foldl (fun (s : State) c => s.returnLine d c.pool l) s
      s.dropCopies d l) s
    (s.trimDie d r).1
  else s

end Sys2Proof.Machine
end

