-- ==== Sys2Proof/Machine/Sha384.lean ====
section
/-! DEFINITION. SHA-384, with which a start extends its measurements (R417). The spec names the function and does not give it: it
is that of FIPS 180-4 (PRESUMED, log entry 126). -/

namespace Sys2Proof.Machine

/-- A prime below `410`; there are 80. -/
def shaPrimes : List Nat :=
  (List.range 410).filter (fun n => decide (2 ≤ n) && (List.range 21).all (fun d => decide (d < 2 ∨ n ≤ d) || n % d != 0))

/-- The greatest `k`-th root of `x` from `r` on that `n` more bits can give. -/
def rootBits (k x : Nat) : Nat → Nat → Nat
  | 0, r => r
  | n + 1, r => rootBits k x n (if (r + 2 ^ n) ^ k ≤ x then r + 2 ^ n else r)

/-- The first 64 bits of the fractional part of the `k`-th root of a prime. -/
def rootFraction (k p : Nat) : BitVec 64 := BitVec.ofNat 64 (rootBits k (p * 2 ^ (64 * k)) 68 0)

/-- The round constants: cube roots of the first 80 primes. -/
def shaRounds : List (BitVec 64) := shaPrimes.map (rootFraction 3)

/-- The chaining value at the start: square roots of the ninth to the sixteenth prime. -/
def shaInit : List (BitVec 64) := ((shaPrimes.drop 8).take 8).map (rootFraction 2)

/-- A word of a list, 0 beyond it. -/
def wordAt (ws : List (BitVec 64)) (i : Nat) : BitVec 64 := ws[i]?.getD 0

/-- `n` more words of the message schedule, the newest first. -/
def shaSchedule : Nat → List (BitVec 64) → List (BitVec 64)
  | 0, ws => ws
  | n + 1, ws =>
    let x := wordAt ws 1
    let y := wordAt ws 14
    let lo := y.rotateRight 1 ^^^ y.rotateRight 8 ^^^ (y >>> 7)
    let hi := x.rotateRight 19 ^^^ x.rotateRight 61 ^^^ (x >>> 6)
    shaSchedule n ((hi + wordAt ws 6 + lo + wordAt ws 15) :: ws)

/-- One round on the eight working words, with the round's constant plus its schedule word. -/
def shaRound (v : List (BitVec 64)) (kw : BitVec 64) : List (BitVec 64) :=
  let a := wordAt v 0
  let e := wordAt v 4
  let choice := (e &&& wordAt v 5) ^^^ (~~~e &&& wordAt v 6)
  let major := (a &&& wordAt v 1) ^^^ (a &&& wordAt v 2) ^^^ (wordAt v 1 &&& wordAt v 2)
  let t := wordAt v 7 + (e.rotateRight 14 ^^^ e.rotateRight 18 ^^^ e.rotateRight 41) + choice + kw
  let u := (a.rotateRight 28 ^^^ a.rotateRight 34 ^^^ a.rotateRight 39) + major
  [t + u, a, wordAt v 1, wordAt v 2, wordAt v 3 + t, e, wordAt v 5, wordAt v 6]

/-- A chaining value after a block of 16 words. -/
def shaBlock (h block : List (BitVec 64)) : List (BitVec 64) :=
  let ws := (shaSchedule 64 block.reverse).reverse
  List.zipWith (· + ·) h ((List.zipWith (· + ·) shaRounds ws).foldl shaRound h)

/-- A message of at most 111 bytes as one padded block of 16 words, high byte first. -/
def shaPad (m : List Byte) : List (BitVec 64) :=
  let bs := m ++ [0x80] ++ List.replicate (119 - m.length) 0 ++ (List.range 8).map (fun i => BitVec.ofNat 8 (8 * m.length / 2 ^ (8 * (7 - i))))
  (List.range 16).map (fun i => ((bs.drop (8 * i)).take 8).foldl (fun (x : BitVec 64) b => (x <<< 8) ||| b.zeroExtend 64) 0)

/-- SHA-384 of a message of at most 111 bytes. -/
def sha384 (m : List Byte) : BitVec 384 :=
  ((shaBlock shaInit (shaPad m)).take 6).foldl (fun (x : BitVec 384) w => (x <<< 64) ||| w.zeroExtend 384) 0

/-- The 48 bytes of a digest, high byte first. -/
def digestBytes (d : BitVec 384) : List Byte := (List.range 48).map (fun i => BitVec.ofNat 8 (d.toNat / 2 ^ (8 * (47 - i))))

/-- A measurement extended by a digest (R417): the hash of the old value and the digest, one behind the other. -/
def extendMeasurement (old d : BitVec 384) : BitVec 384 := sha384 (digestBytes old ++ digestBytes d)

end Sys2Proof.Machine
end

