-- ==== Sys2Proof/Machine/Boundary.lean ====
section
/-! DEFINITION. The boundary of the module: the host's memory and register accesses, fabric writes, starts, recovery,
attestation, power, thermal and error events, layer sleep (R22, R235, R350 to R352, R386, R406 to R425). -/

namespace Sys2Proof.Machine

-- Host accesses (R350, R362, R407, R408).

/-- What a leaf fixes of a page while a lease is PINNED: PFN, CLS and size (R362). -/
def pinnedView (l : Option Leaf) : Option (Nat × BitVec 3 × Nat) := l.map (fun l => (l.pa, l.cls, l.size))

/-- A write would unmap or change a page of a PINNED lease (R362). -/
def State.breaksPin (s s' : State) : Bool :=
  s.tables.leaseE.any (fun x => x.state == 3 && (List.range (x.len / 65536)).any (fun i =>
    pinnedView (s.walk x.asid (x.base + 65536 * i)) != pinnedView (s'.walk x.asid (x.base + 65536 * i))))

/-- The next table of a pointer entry at a level's table, if it is one. -/
def nextTable (m : List Host.Cell) (a : Nat) : Option Nat :=
  let e := Memory.read64 m a
  if e.getLsbD 0 && !e.getLsbD 1 then some ((e.extractLsb' 8 44).toNat * 256) else none

/-- The level-4 tables of an address space (R364). -/
def State.leafTables (s : State) (asid : BitVec 16) : List Nat :=
  let down (ts : List Nat) : List Nat := ts.flatMap (fun t => (List.range 512).filterMap (fun i => nextTable s.mem (t + 8 * i)))
  down (down (down [((s.asidEntry asid).1.extractLsb' 12 40).toNat * 4096]))

/-- A word is a valid leaf of a class, and names this page. -/
def classLeaf (cls : BitVec 3) (w : Word) : Option (BitVec 36) :=
  if w.getLsbD 0 && w.getLsbD 1 && w.extractLsb' 55 3 == cls then some (w.extractLsb' 16 36) else none

/-- The level-4 leaves of a class in the address spaces: where each lies and the page it maps. -/
def State.classLeaves (s : State) (cls : BitVec 3) : List (Nat × BitVec 36) :=
  s.tables.asids.flatMap (fun e => (s.leafTables e.1).flatMap (fun t =>
    (List.range 32).filterMap (fun i => (classLeaf cls (Memory.read64 s.mem (t + 8 * i))).map (fun p => (t + 8 * i, p)))))

/-- The pages that the level-4 leaves of the address spaces map with a class. -/
def State.classPages (s : State) (cls : BitVec 3) : List (BitVec 36) := (s.classLeaves cls).map (·.2)

/-- A host write makes a leaf of class SEALED, of a page sealed before or not: only SEAL does that (R215, R230, R350). -/
def State.sealsPage (s s' : State) : Bool :=
  let old := s.classLeaves 3
  (s'.classLeaves 3).any (fun p => !old.contains p)

/-- The host driver gives a page the class APPEND (R227): both its offsets become 0 and it reads zero. -/
def State.givePage (s : State) (page : BitVec 36) : State :=
  let lo := page.toNat * 65536
  if (s.pageRec page 0).freeing.isSome then s
  else { s with
    mem := s.mem.filter (fun c => !(decide (lo ≤ c.1) && decide (c.1 < lo + 65536)))
    caches := { s.caches with appendPages := s.caches.appendPages.filter (·.page != page) } }

/-- A host write of page tables or of a table's root: a page of a PINNED lease may not change (R362), only SEAL makes a page
SEALED (R350), and the pages that come to be APPEND start empty (R227). `s'` is the state with the write, `s` the one
before it. -/
def State.hostMapped (s s' : State) (pa : BitVec 52) : State :=
  if s.breaksPin s' || s.sealsPage s' then s.mail (.refusal (.write pa))
  else
    let old := s.classPages 2
    ((s'.classPages 2).filter (fun p => !old.contains p)).foldl (fun (s : State) p => s.givePage p) s'

/-- The bytes of a host write, low byte first. -/
def hostBytes (n : Nat) (bytes : BitVec 512) : List (BitVec 8) := (List.range n).map (lineByte bytes)

/-- A physical place a host access touches. -/
def hostPlace (pa n : Nat) : Place := ⟨pa, n, 0, 0, 3, 0⟩

/-- The agent that stands for the host and for the fabric at a home: it keeps no line (R408). The event `e` stands behind its
requests. -/
def outsideAgent (asid : BitVec 16) (e : Instr) : Agent := ⟨0, 31, asid, 0, false, some (.event e)⟩

/-- The machine-check event of data that leave for the host or the fabric, whose unit is the agent of base die 0 or the next one
(R419, R421). -/
def State.consumedOutside (s : State) (unit : Nat) (code : BitVec 7) (pa : BitVec 52) : State :=
  s.machineCheck (Config.unitNo unit) (if code = 0x07 then .poison else .check) pa none

/-- HOST_MEM_ACCESS (R408, R22, R362, R419): an access of at most a line, a request at the home of its frame, which it waits
for. Poisoned data post their event. Nothing lies at a reserved address (R211). The host keeps no copy of what it reads (log
entry 110). -/
def execHostMemAccess (pa : BitVec 52) (write : Bool) (size : BitVec 7) (bytes : BitVec 512) (s : State) : Out :=
  let k := pa.toNat
  let n := size.toNat
  let inRange := match physOf k with
    | .hbm => true
    | .host => true
    | _ => false
  let l : BitVec 52 := BitVec.ofNat 52 (lineOf k)
  if physOf k = .reserved then .fault (.reservedPhysical k)
  else if n = 0 ∨ 64 < k % 64 + n ∨ !inRange then .next s
  else
   let e : Instr := .hostMemAccess pa write size bytes
   let w : Option Waiter := some (.event e)
   let ask : Instr := if write then .wrm ⟨l, 0, 31, 3, 0⟩ 0 0 else .geti ⟨l, 0, 31, 2, 0⟩
   if s.homeHolds w false (lineOf k) (s.homeOf l) then .next ((s.queueUp ⟨ask, w⟩ (lineOf k) (s.homeOf l)).send e)
   else
    let s := s.takeTurn w [lineOf k]
    let p := hostPlace k n
    match s.dataCheck (outsideAgent 0 e) [p] write with
    | .error e => .next ((s.mail .poisoned).consumedOutside (2 ^ 15) e.1 pa)
    | .ok _ =>
      let s1 := s.atHome (!s.untracked l) (if write then .wrm false (n == 64) else .geti) l 0 31
      if write then
        .next (s.hostMapped (({ s1 with mem := Memory.setMany s1.mem ((keysFrom k n).zip (hostBytes n bytes)) } : State).clearMarks [p]) pa)
      else .next (s1.mail (.read (BitVec.ofNat 512 (Memory.readNat s1.mem k n))))

/-- A queue whose entry is VALID has a reader that looks (R351). -/
def State.wakeReader (s : State) (q : BitVec 8) : State := if (s.queueEntry q).1.getLsbD 63 then s.ring q else s

/-- QUEUE_TABLE_WRITE (R351). -/
def execQueueTableWrite (q : BitVec 8) (word : BitVec 1) (v : BitVec 64) (s : State) : Out :=
  .next ((s.writeQueue q word.toNat v).wakeReader q)

/-- COUNTER_ENTRY_WRITE (R372, R374). -/
def execCounterEntryWrite (cid : BitVec 12) (word : BitVec 2) (v : BitVec 64) (s : State) : Out :=
  .next (s.hostWriteCtr cid word.toNat v)

/-- BELLTAB_WRITE (R352, R367). -/
def execBelltabWrite (st : BitVec 3) (slot : BitVec 8) (v : BitVec 16) (s : State) : Out :=
  .next (s.writeBelltab st slot v false)

/-- CONFLUENCE_TABLE_WRITE (R352, R368). -/
def execConfluenceTableWrite (i : BitVec 8) (v : BitVec 16) (s : State) : Out := .next (s.writeConf i v)

/-- PERF_SELECT_WRITE (R386, R387). -/
def execPerfSelectWrite (d : BitVec 6) (off : BitVec 16) (v : BitVec 64) (s : State) : Out :=
  .next (if perfPair off.toNat then s.perfWrite d off.toNat v else s)

/-- A host write of a register of control space (R350, R407): counters and queues act as their own events, and a root that
would change a page of a PINNED lease is refused (R362). -/
def State.hostRegWrite (s : State) (o n v : Nat) : State :=
  let merged := mergeBytes ((s.devWord .host (o / 8 * 8)).getD 0) (o % 8) n v
  if 0x5000000 ≤ o ∧ o < 0x5020000 then s.hostWriteCtr (BitVec.ofNat 12 ((o - 0x5000000) / 32)) (o % 32 / 8) merged
  else if 0x5020000 ≤ o ∧ o < 0x5021000 then
    let q := BitVec.ofNat 8 ((o - 0x5020000) / 16)
    (s.writeQueue q (o % 16 / 8) merged).wakeReader q
  else if 0x4000000 ≤ o ∧ o < 0x4100000 then s.hostMapped (s.devWrite .host o n v) (BitVec.ofNat 52 (0x4000000000000 + o))
  else s.devWrite .host o n v

/-- A naturally aligned access of 1, 2, 4 or 8 bytes (R407). -/
def regAligned (off n : Nat) : Bool := (n == 1 || n == 2 || n == 4 || n == 8) && off % n == 0

/-- The offset in control space of a register (R407). -/
def barOff (r : BarReg) : Nat := if r.bar0 then bar0Off r.off.toNat else r.off.toNat

/-- HOST_REGISTER_WRITE (R407): a naturally aligned write of 1, 2, 4 or 8 bytes through BAR0 or BAR2; any other is none. -/
def execHostRegisterWrite (reg : BarReg) (size : BitVec 4) (v : BitVec 64) (s : State) : Out :=
  let n := size.toNat
  if regAligned reg.off.toNat n then .next (s.hostRegWrite (barOff reg) n (v.toNat % 2 ^ (8 * n))) else .next s

/-- The host driver reads a register of control space (R407). -/
def State.hostRead (s : State) (reg : BarReg) (size : BitVec 4) : State :=
  if regAligned reg.off.toNat size.toNat then
    let r := s.devRead .host (barOff reg) size.toNat
    r.1.mail (.reg (BitVec.ofNat 64 r.2))
  else s

-- The fabric (R410, R411).

/-- The import table lets a module write a range: the local ASID. -/
def State.importOf (s : State) (m : BitVec 12) (va n : Nat) : Option (BitVec 16) :=
  (s.boundary.imports.find? (fun e => e.1 == m && decide (e.2.2.1.toNat ≤ va) && decide (va + n ≤ e.2.2.1.toNat + e.2.2.2.toNat))).map (·.2.1)

/-- The flits of a transfer that come poisoned, or with a check that is not that of their data (R410, R418). -/
def badFlits (bs : List Byte) (marks : FlitMarks) : List Nat :=
  ((flitChecks bs).zipIdx.filter (fun x => marks.poison.getLsbD x.2 || marks.checks.extractLsb' (16 * x.2) 16 != x.1)).map (·.2)

/-- The sectors that bad flits leave bytes in: their marks tell the next consumer (R418, R419). -/
def badFlitSectors (ps : List Place) (bad : List Nat) : List (BitVec 52) :=
  let keys := ps.flatMap (fun p => keysFrom p.key p.n)
  ((keys.zipIdx.filter (fun x => bad.contains (x.2 / 32))).map (fun x => BitVec.ofNat 52 (x.1 / 32 * 32))).eraseDups

/-- FABRIC_WRITE (R410, R411, R418): a transfer of at most 256 bytes, checked against the import table, performed at the homes
of its lines, which it waits for (R22, R425), before it is acknowledged. Host memory that the boundary filter keeps from the
partition of its address space refuses it (R412). -/
def execFabricWrite (m : BitVec 12) (va : BitVec 48) (size : BitVec 9) (bytes : BitVec 2048) (marks : FlitMarks)
    (s : State) : Out :=
  let n := size.toNat
  let answer (s : State) (refused : Bool) : Out :=
    .next { s with boundary := { s.boundary with fabricOut := s.boundary.fabricOut ++ [FabricTx.answer m va refused] } }
  if n = 0 ∨ 256 < n then .next s
  else match s.importOf m va.toNat n with
    | none => answer s true
    | some asid =>
      let e : Instr := .fabricWrite m va size bytes marks
      let ag := outsideAgent asid e
      let ps := s.engPlaces ag false va.toNat n
      let part : BitVec 4 := (s.asidEntry asid).2.extractLsb' 0 4
      let kept (p : Place) : Bool := physOf p.key == .host && (List.range p.n).any (fun i => !s.hostAllowed part (p.key + i))
      if 0x800000000000 < va.toNat + n then answer s true
      else if (s.engWalk ag [(va.toNat, n)]).isSome then .next ((s.rouseEng ag false [] [(va.toNat, n)]).send e)
      else if s.engRefused ag .engWrite va.toNat n ∨ ps.any kept then answer s true
      else if s.engWaits ag false [] [(va.toNat, n)] then .next ((s.rouseEng ag false [] [(va.toNat, n)]).send e)
      else match s.dataCheck ag ps true with
        | .error x => answer (s.consumedOutside (2 ^ 15 + 1) x.1 (BitVec.ofNat 52 ((ps.head?.map (·.key)).getD 0))) true
        | .ok _ =>
          let bs := (List.range n).map (fun i => BitVec.ofNat 8 (bytes.toNat / 2 ^ (8 * i)))
          let s := s.engWrite ag (spread ps bs)
          let bad := badFlitSectors ps (badFlits bs marks)
          answer { s with caches := { s.caches with badSectors := bad ++ s.caches.badSectors.filter (fun x => !bad.contains x) } } false

-- Starts (R413 to R415, R371).

/-- Everything a start clears is at its reset contents (R414); the tape and the numbering of free values, which are the
model's own, stay. Memory keeps the keys that `keep` admits, with their metadata marks (R298, R418); the fuses, the attempt
counter and the retained link status stay, and the ceilings are the caps in force. The bytes of a line that only a cleared cache
held lie in memory too, and are kept with it (DEDUCED, log entry 96). -/
def State.cleared (s : State) (keep : Nat → Bool) (cycle : Nat) : State :=
  { State.reset with
    mem := s.mem.filter (fun c => keep c.1)
    caches := { Caches.empty with
      poison := s.caches.poison.filter (fun l => keep l.toNat)
      badSectors := s.caches.badSectors.filter (fun l => keep l.toNat) }
    cycle
    tape := s.tape
    free := s.free
    boundary := { Boundary.reset with
      fuses := s.boundary.fuses
      attempts := s.boundary.attempts
      ready := false
      trained := s.boundary.trained
      badLinks := s.boundary.badLinks
      moduleCap := s.boundary.fuses.moduleCeil
      clockCap := s.boundary.fuses.clockCeil
      stackCap := Vector.replicate 8 s.boundary.fuses.stackCeil
      stackClock := Vector.replicate 8 s.boundary.fuses.clockCeil } }

/-- Keys of host memory, which a start leaves alone. -/
def hostKey (k : Nat) : Bool := physOf k == .host

/-- Keys of HBM or host memory (R414). -/
def retainedKey (k : Nat) : Bool := physOf k == .host || physOf k == .hbm

/-- A start failed (R415): with the counter below 3 the module starts again as a cold start, else it enters recovery. -/
def State.startFailed (s : State) : State :=
  let again := decide (s.boundary.attempts.toNat < 3)
  { s with boundary := { s.boundary with starting := false, ready := false, restart := again, recovery := !again } }

/-- A signed object is accepted only if both signatures verify, under the keys whose hashes the fuses hold (R416). -/
def Fuses.accept (f : Fuses) (x : Signed) : Bool :=
  x.rsa.ok && x.slh.ok && x.rsa.key == f.rsaKey && x.slh.key == f.slhKey

/-- The links as a start that has or has not trained them leaves them (R413): `run` says whether it trains. -/
def Boundary.train (b : Boundary) (run ok : Bool) : Boundary :=
  if run then { b with trained := ok, badLinks := if ok then [] else b.badLinks } else b

/-- A rule of the boundary filter as numbers, for its digest. -/
def FilterRule.numbers : FilterRule → List Nat
  | .dest p m => [0, p.toNat, m.toNat]
  | .host p b l => [1, p.toNat, b.toNat, l.toNat]
  | .mail k => [2, k.toNat]

/-- What the fuses hold, as numbers, for its digest. -/
def Fuses.numbers (f : Fuses) : List Nat :=
  [f.moduleCeil.toNat, f.stackCeil.toNat, f.clockCeil.toNat, f.rsaKey.toNat, f.slhKey.toNat]

/-- The digests that step 7 measures (R417): of the firmware image, the fused configuration, the filter that is loaded and Dyica's
firmware. -/
def startDigests (f : Fuses) (r : StartRun) (filter : List FilterRule) : List (BitVec 384) :=
  [r.imageDigest, Config.digestOf f.numbers, Config.digestOf (filter.flatMap FilterRule.numbers), r.dyicaDigest]

/-- One run of the start sequence after its clearing (R413, R415): `steps` is the outcome of steps 1 to 5. A failed
verification of the firmware in step 6 enters recovery. A configuration that is not accepted writes no filter, so that nothing
may leave (log entry 111). -/
def State.startRun (s : State) (r : StartRun) (steps : Bool) : State :=
  let s := { s with boundary := { s.boundary with attempts := s.boundary.attempts + 1 } }
  let f := s.boundary.fuses
  if !steps then s.startFailed
  else if !f.accept r.image then { s with boundary := { s.boundary with recovery := true } }
  else
    let filter := if f.accept r.config then r.filter else []
    let s := { s with boundary := { s.boundary with
      measurements := List.zipWith extendMeasurement s.boundary.measurements (startDigests f r filter), filter } }
    if r.inTime then { s with boundary := { s.boundary with attempts := 0, ready := true } }
    else { s with boundary := { s.boundary with starting := true } }

/-- COLD_START (R413 to R415). HBM contents are undefined after it (log entry 1). Recovery is left only by a verified image,
after which the cold start follows (R371, R415). -/
def execColdStart (r : StartRun) (s : State) : Out :=
  if s.boundary.recovery && !s.boundary.restart then .next s
  else
    let s := s.cleared hostKey 0
    .next (({ s with boundary := s.boundary.train true r.training } : State).startRun r
      (r.fuses && r.training && r.bist && r.hbm && r.bell))

/-- WARM_START (R413, R414): HBM and CYCLE are kept; links with a good status are not trained again; BIST and HBM training
are skipped. After a shutdown or a failed start, and in recovery, only a cold start follows (R415, R423). -/
def execWarmStart (r : StartRun) (s : State) : Out :=
  if s.boundary.shutdown || s.boundary.restart || s.boundary.recovery then .next s
  else
    let good := s.boundary.trained && s.boundary.badLinks.isEmpty
    let s := s.cleared retainedKey s.cycle
    .next (({ s with boundary := s.boundary.train (!good) r.training } : State).startRun r
      (r.fuses && (good || r.training) && r.bell))

/-- BOOT_TIMEOUT (R415): step 7 has not completed within 10 s. -/
def execBootTimeout (s : State) : Out := .next (if s.boundary.starting then s.startFailed else s)

/-- RECOVERY_IMAGE_LOAD (R371, R415, R416): an image both of whose signatures verify lets a cold start follow, with the counter
cleared. -/
def execRecoveryImageLoad (rsa slh : Signature) (s : State) : Out :=
  if s.boundary.recovery && s.boundary.fuses.accept ⟨rsa, slh⟩ then
    .next { s with boundary := { s.boundary with restart := true, attempts := 0 } }
  else .next s

-- Attestation (R416, R417).

/-- The responder answers: the module has started, or is in recovery (R415). -/
def State.answers (s : State) : Bool := (s.boundary.ready || s.boundary.recovery) && !s.boundary.shutdown

/-- Send an SPDM response with its two signatures (R416, R417), values the spec cannot give (log entry 10). -/
def State.spdm (s : State) (r : SpdmReply) : Out :=
  .next (if s.answers then
    State.mail { s with free := s.free + 1 } (.spdm r (Config.attest (2 ^ 400 + 2 * s.free)) (Config.attest (2 ^ 400 + 2 * s.free + 1)))
  else s)

/-- GET_VERSION (R417): SPDM 1.3. -/
def execGetVersion (s : State) : Out := s.spdm (.version 1 3)

/-- GET_CAPABILITIES (R417): no key exchange, no secured sessions. -/
def execGetCapabilities (s : State) : Out := s.spdm (.capabilities false false)

/-- NEGOTIATE_ALGORITHMS (R417): RSAPSS_3072 with SHA-384 is what the device offers. -/
def execNegotiateAlgorithms (rsapss3072 sha384 : Bool) (s : State) : Out :=
  if s.answers && rsapss3072 && sha384 then
    State.spdm { s with boundary := { s.boundary with negotiated := true } } (.algorithms true true)
  else s.spdm .error

/-- GET_DIGESTS (R417). -/
def execGetDigests (s : State) : Out := s.spdm (.digests [Config.attest 0])

/-- GET_CERTIFICATE (R417). -/
def execGetCertificate (off len : BitVec 16) (s : State) : Out :=
  s.spdm (.certificate off len (Config.attest (2 ^ 40 + off.toNat * 65536 + len.toNat)))

/-- CHALLENGE (R417). -/
def execSpdmChallenge (nonce : BitVec 256) (s : State) : Out := s.spdm (.challengeAuth nonce)

/-- The measurement of an index: 1 reads as zeros in recovery (R417). -/
def State.measurement (s : State) (i : BitVec 8) : Option (BitVec 384) :=
  if i = 0 then none
  else if i = 1 ∧ s.boundary.recovery then some 0
  else if 4 < i.toNat then none
  else s.boundary.measurements[i.toNat - 1]?

/-- GET_MEASUREMENTS (R417). -/
def execGetMeasurements (i : BitVec 8) (s : State) : Out :=
  match s.measurement i with
  | none => s.spdm .error
  | some v => s.spdm (.measurement i v)

-- Power and temperature (R22, R235, R422, R423).

/-- The stacks that a cap bears on. -/
def CapTarget.bears (who : CapTarget) (i : Nat) : Bool :=
  match who with
  | .stack n => decide (n.toNat = i)
  | _ => true

/-- A cap that is not lower than the one before it is in force: the clocks that the lower cap had brought down may go up again, to
the ceiling, and enforcement brings them down as far as the new cap asks (DESIGN CHOICE, log entry 48). -/
def Boundary.relax (b : Boundary) (who : CapTarget) (raised : Bool) : Boundary :=
  if raised then { b with stackClock := Vector.ofFn (fun (i : Fin 8) => if CapTarget.bears who i.val then b.fuses.clockCeil else b.stackClock[i]) } else b

/-- POWER_CAP_SET (R422): a cap between floor and ceiling; any other is not taken. -/
def execPowerCapSet (who : CapTarget) (watts : BitVec 16) (s : State) : Out :=
  let b := s.boundary
  match who with
  | .module =>
    if 1600 ≤ watts.toNat ∧ watts.toNat ≤ b.fuses.moduleCeil.toNat then
      .next { s with boundary := { b.relax who (decide (b.moduleCap.toNat ≤ watts.toNat)) with moduleCap := watts } }
    else .next s
  | .clock =>
    if 12 ≤ watts.toNat ∧ watts.toNat ≤ b.fuses.clockCeil.toNat then .next { s with boundary := { b with clockCap := BitVec.ofNat 8 watts.toNat } }
    else .next s
  | .stack n =>
    if watts.toNat ≤ b.fuses.stackCeil.toNat then
      .next { s with boundary := { b.relax who (decide (((b.stackCap[n.toNat]?).getD 0).toNat ≤ watts.toNat)) with
        stackCap := b.stackCap.setIfInBounds n.toNat watts } }
    else .next s

/-- The next lower clock in steps of 100 MHz, not below the floor of 1.2 GHz (R422). -/
def lowerClock (c : BitVec 8) : BitVec 8 := if 12 < c.toNat then c - 1 else c

/-- POWER_CAP_ENFORCEMENT (R23, R422): the power drawn has come above a cap in force, a fused ceiling among them, and the clock
of an affected stack goes down one step. What is drawn is the outside world's. -/
def execPowerCapEnforcement (st : BitVec 3) (s : State) : Out :=
  let b := s.boundary
  .next { s with boundary := { b with stackClock := b.stackClock.setIfInBounds st.toNat (lowerClock (b.stackClock[st.toNat]?.getD 27)) } }

/-- The clock of a die in steps of 100 MHz, 27 when it is not throttled. -/
def Boundary.clockOf (b : Boundary) (d : BitVec 6) : BitVec 8 := (lookup? b.dieClock d).getD 27

/-- The clock of a die, in 27ths of the nominal one: its own, its stack's and the cap on it (R422, R423). -/
def State.clockOf (s : State) (d : BitVec 6) : Nat :=
  min (min (s.boundary.stackClock[(stackOf d).toNat]?.getD 27).toNat (s.boundary.clockOf d).toNat) s.boundary.clockCap.toNat

/-- THERMAL_THROTTLE (R423): a die at 100 °C goes down one clock step, and further until it is below 95 °C. -/
def execThermalThrottle (d : BitVec 6) (celsius : BitVec 10) (s : State) : Out :=
  let b := { s.boundary with temps := assoc s.boundary.temps d celsius }
  if 100 ≤ celsius.toNat ∨ (95 ≤ celsius.toNat ∧ b.clockOf d ≠ 27) then
    .next { s with boundary := { b with dieClock := assoc b.dieClock d (lowerClock (b.clockOf d)) } }
  else .next { s with boundary := { b with dieClock := b.dieClock.filter (fun x => x.1 != d) } }

/-- THERMAL_SHUTDOWN (R423, R425): a die at 115 °C shuts the module down; the attempt counter is kept. -/
def execThermalShutdown (d : BitVec 6) (celsius : BitVec 10) (s : State) : Out :=
  if 115 ≤ celsius.toNat ∧ d.toNat < 64 then
    let s := s.cleared hostKey s.cycle
    .next { s with boundary := { s.boundary with shutdown := true } }
  else .next s

/-- Nothing keeps a layer awake: its slots are FREE, its send queues empty, no line it is home to or holds is in a
transaction (R22, R370). -/
def State.maySleep (s : State) (d : BitVec 6) : Bool :=
  s.awake d && !s.tables.slots.any (fun k => k.die == d && k.state != .free) && !s.threads.any (fun t => dieOf t.hwid == d)
    && s.queues.bellQ.all (fun q => q.die != d || q.beats.isEmpty)
    && !s.caches.txs.any (fun x => s.homeOn d x.line || x.need.getLsbD d.toNat)
    && !s.pending.any (fun e => match e with
      | .puto m _ => m.die == d || s.homeOn d m.line
      | .lostMsg m => m.die == d || s.homeOn d m.line
      | .dataMsg m _ _ _ => m.die == d || s.homeOn d m.line
      | .ackMsg m _ _ => m.die == d || s.homeOn d m.line
      | _ => false)

/-- What a die holds goes home (R22, R304): dirty bytes of SWM copies, owned lines by PUTO; its other copies are dropped. -/
def State.emptyDie (s : State) (d : BitVec 6) : State :=
  let s := (s.caches.dieCopies.filter (·.die == d)).foldl (fun (s : State) c => (s.writeBackDie d c.line).dropDie d c.line) s
  let s := (s.caches.stashLines.filter (·.die == d)).foldl (fun (s : State) r => s.stashLeave r) s
  let s := (s.caches.classF.filter (·.die == d)).foldl (fun (s : State) c => s.returnLine d c.pool c.line) s
  { s with caches := { s.caches with
    copies := s.caches.copies.filter (fun x => x.die != d)
    replicas := s.caches.replicas.filter (fun x => x.1 != d)
    dieF := s.caches.dieF.filter (fun e => e.die != d)
    tlbs := s.caches.tlbs.filter (fun e => e.unit.die != d)
    iblocks := s.caches.iblocks.filter (fun e => e.die != d) } }

/-- A die drives every line it is home to into state U, by RECALL of owned copies, a mapped stash line among them, and INV of
shared ones (R22, R294). -/
def State.emptyHome (s : State) (d : BitVec 6) : State :=
  let es := s.caches.dir.filter (fun e => s.homeOn d e.region)
  let s := es.foldl (fun (s : State) e => s.clearRegion e.region) s
  { s with caches := { s.caches with dir := s.caches.dir.filter (fun e => !s.homeOn d e.region) } }

/-- A layer that goes to sleep keeps no mirror, no beat to apply and no stack cells (R235, R380). -/
def State.dropMirror (s : State) (d : BitVec 6) : State :=
  let lo := bellMirrorKey d 0
  { s with
    mem := s.mem.filter (fun x => !(decide (lo ≤ x.1) && decide (x.1 < lo + 2 ^ 20)))
    queues := { s.queues with mirrorQ := s.queues.mirrorQ.filter (·.die != d), lagging := s.queues.lagging.filter (· != d) }
    counters := { s.counters with cells := s.counters.cells.filter (fun x => match x.id with
      | .stack e _ => e != d
      | _ => true) } }

/-- LAYER_SLEEP (R22, R235, R304): what the layer holds goes home, its home lines are in state U. A home of what it holds that
sleeps itself is woken first. -/
def execLayerSleep (d : BitVec 6) (s : State) : Out :=
  if !s.maySleep d then .next s
  else
    let held := (s.caches.dieCopies.filter (fun c => c.die == d && c.dirty != 0 && s.lineHeld d c.line)).map (fun c => s.homeOf c.line)
    if !held.isEmpty then .next (held.foldl (fun (s : State) h => s.rouse h) s)
    else
      let s := ((s.emptyDie d).emptyHome d).dropMirror d
      .next { s with layers := ⟨d, .asleep⟩ :: s.layers }

/-- LAYER_WAKE (R22, R235): the layer is awake when it has copied the master at a frame boundary. -/
def execLayerWake (d : BitVec 6) (s : State) : Out :=
  if s.layers.any (fun l => l.die == d && l.state == .asleep) then
    let s := { s with layers := s.layers.map (fun (l : Layer) => if l.die == d then { l with state := .waking } else l) }
    if s.queues.bellSlot[(stackOf d).toNat]?.getD 0 = 0 then .next (s.wakeLayers (stackOf d))
    else .next (s.send (.bellSlot (stackOf d)))
  else .next s

-- Errors (R300, R301, R402, R420, R421).

/-- What is counted of a soft error (R420): 0 corrected, 1 uncorrected, 2 refetched. -/
def State.softError (s : State) (unit : BitVec 16) (kind : BitVec 2) : State :=
  let n := ((s.boundary.soft.find? (fun x => x.1 == unit && x.2.1 == kind)).map (·.2.2)).getD 0
  { s with boundary := { s.boundary with
      soft := (unit, kind, n + 1) :: s.boundary.soft.filter (fun x => !(x.1 == unit && x.2.1 == kind)) } }

/-- The unit an error lies in. -/
def errorUnit : ErrorSite → BitVec 16
  | .cleanCopy u _ _ _ => u
  | .onlyCopy u _ _ _ => u
  | .hbm u _ => u
  | .icache u _ _ _ => u
  | .poolOut u _ _ => u

/-- SOFT_ERROR_CORRECTED (R420). -/
def execSoftErrorCorrected (e : ErrorSite) (s : State) : Out := .next (s.softError (errorUnit e) 0)

/-- A pool has lost the only current data of a line (R300, R420): its own entry goes, a mapped stash line with its bytes too, and
LOST goes to the home. A pool number above the pools' names the die's L2 slice (log entry 108). A die's copy of an SWM line is
gone at once, wherever on the die the error is, and LOST follows if it had dirty bytes (R300). -/
def State.loseLine (s : State) (d : BitVec 6) (p : BitVec 5) (l : BitVec 52) : State :=
 match s.dieCopyOf d l.toNat with
 | some c =>
  let s := (s.unrecord d p l).dropDie d l
  if c.dirty = 0 then s else s.send (.lostMsg ⟨l, d, 31, 0, 0⟩)
 | none =>
  let s := (s.caches.stashLines.filter (fun r => r.die == d && r.pool == p
      && decide (s.stashGlobal r.die r.pool r.off.toNat = some l.toNat))).foldl
    (fun (s : State) r => (s.dropStashLine r).zeroBytes (stashKey r.die r.pool r.off.toNat) 64) s
  (s.unrecord d p l).send (.lostMsg ⟨l, d, p, 0, 0⟩)

/-- A pool out of service loses every line it owns (R300) and holds no other any more. -/
def State.losePool (s : State) (d : BitVec 6) (p : BitVec 5) : State :=
  let s := (s.caches.classF.filter (fun c => c.die == d && c.pool == p)).foldl (fun (s : State) c =>
    if c.state = 2 then s.loseLine d p c.line else s.unrecord d p c.line) s
  { s with caches := { s.caches with copies := s.caches.copies.filter (fun c => !(c.die == d && c.pool == p)) } }

/-- The clean data of a copy of a line that a pool or a die holds are fetched again (R420): what its home gives now. A copy whose
home cannot serve it goes, to be fetched when it is next wanted. -/
def State.refetch (s : State) (d : BitVec 6) (p : BitVec 5) (l : BitVec 52) : State :=
  let mine (c : LineCopy) : Bool := c.die == d && c.pool == p && c.line == l
  let own (c : DieCopy) : Bool := c.die == d && c.line == l && c.dirty == 0
  if s.homeHolds none false l.toNat (s.homeOf l) then { s with caches := { s.caches with
    copies := s.caches.copies.filter (fun c => !mine c)
    dieCopies := s.caches.dieCopies.filter (fun c => !own c) } }
  else
    let bytes := BitVec.ofNat 512 (natOfBytes (s.homeBytes l.toNat 64))
    { s with caches := { s.caches with
      copies := s.caches.copies.map (fun c => if mine c then { c with bytes := bytes } else c)
      dieCopies := s.caches.dieCopies.map (fun c => if own c then { c with bytes := bytes } else c) } }

/-- UNCORRECTABLE_ERROR (R300, R402, R420): clean data are refetched, the only copy of a line is LOST, HBM sectors are
poisoned, an I-cache line is invalidated and fetched again, a pool out of service loses the lines it owns. -/
def execUncorrectableError (e : ErrorSite) (s : State) : Out :=
  match e with
  | .cleanCopy u l d p => .next ((s.softError u 2).refetch d p (l &&& 0xFFFFFFFFFFFC0))
  | .onlyCopy u l d p => .next (((s.softError u 1).machineCheck u .lost l none).loseLine d p (l &&& 0xFFFFFFFFFFFC0))
  | .hbm u x =>
    let x := x &&& 0xFFFFFFFFFFFE0
    let s := (s.softError u 1).machineCheck u .uncorrectable x none
    .next { s with caches := { s.caches with badSectors := x :: s.caches.badSectors.filter (· != x) } }
  | .icache u d p x =>
    let s := s.softError u 2
    .next { s with caches := { s.caches with iblocks := s.caches.iblocks.filter (fun b =>
      !(b.die == d && b.pool == p && decide (b.pa.toNat / 64 = x.toNat / 64))) } }
  | .poolOut u d p => .next (((s.softError u 1).machineCheck u .uncorrectable 0 none).losePool d p)

/-- FLIT_RETRY (R410): a flit that failed its link check is sent again; nothing is lost. -/
def execFlitRetry (port : BitVec 7) (s : State) : Out :=
  let n := (lookup? s.boundary.retries port).getD 0
  .next { s with boundary := { s.boundary with retries := assoc s.boundary.retries port (n + 1) } }

/-- LINK_UNCORRECTABLE_ERROR (R413): the link's retained status is no longer good. -/
def execLinkUncorrectableError (link : BitVec 8) (s : State) : Out :=
  .next { s with boundary := { s.boundary with badLinks := link :: s.boundary.badLinks.filter (· != link) } }

-- Dyica (R424).

/-- What Dyica answers to a request over MCTP (R424). -/
def State.pldmReply (s : State) : PldmItem → PldmReply
  | .power st => .number ((lookup? s.boundary.drawn st).map (·.toNat))
  | .temperature d => .number ((lookup? s.boundary.temps d).map (·.toNat))
  | .clock d => .number (some (s.clockOf d))
  | .moduleCap => .number (some s.boundary.moduleCap.toNat)
  | .stackCap st => .number (some ((s.boundary.stackCap[st.toNat]?).getD 0).toNat)
  | .clockCap => .number (some s.boundary.clockCap.toNat)
  | .softErrors u k => .number (some (((s.boundary.soft.find? (fun x => x.1 == u && x.2.1 == k)).map (·.2.2)).getD 0))
  | .event k => .event s.boundary.mcLog[k]?
  | .lostEvents => .number (some s.boundary.mcLost)

/-- Dyica answers a request (R424); the answers stand in the order of the requests. -/
def State.askDyica (s : State) (x : PldmItem) : State :=
  { s with boundary := { s.boundary with pldm := s.boundary.pldm ++ [s.pldmReply x] } }

/-- Dyica has measured the power that a stack draws (R424). -/
def State.measurePower (s : State) (st : BitVec 3) (watts : BitVec 16) : State :=
  { s with boundary := { s.boundary with drawn := assoc s.boundary.drawn st watts } }

end Sys2Proof.Machine
end

