-- ==== Sys2Proof/Machine/Dispatch.lean ====
section
/-! DEFINITION. The meaning of every instruction and event: one arm per constructor of `Instr`. -/

namespace Sys2Proof.Machine

def exec (i : Instr) (s : State) : Host.Outcome State Fault Refusal :=
  match i with
  | .realignTimeout hwid => Sys2Proof.Machine.execRealignTimeout hwid s
  | .doorbellWrite q => Sys2Proof.Machine.execDoorbellWrite q s
  | .launchPacket q => Sys2Proof.Machine.execLaunchPacket q s
  | .phaseMark q => Sys2Proof.Machine.execPhaseMark q s
  | .successorRelease asid handle doomed => Sys2Proof.Machine.execSuccessorRelease asid handle doomed s
  | .rollcallStatusWord lrec node word => Sys2Proof.Machine.execRollcallStatusWord lrec node word s
  | .hostCancel cid => Sys2Proof.Machine.execHostCancel cid s
  | .sliceExpiry lrec gang => Sys2Proof.Machine.execSliceExpiry lrec gang s
  | .taskStop hwid => Sys2Proof.Machine.execTaskStop hwid s
  | .graceExpiry lrec gang => Sys2Proof.Machine.execGraceExpiry lrec gang s
  | .taskExitReport hwid => Sys2Proof.Machine.execTaskExitReport hwid s
  | .layerSleep die => Sys2Proof.Machine.execLayerSleep die s
  | .layerWake die => Sys2Proof.Machine.execLayerWake die s
  | .bindRecordWrite die slot w0 w1 w2 w3 => Sys2Proof.Machine.execBindRecordWrite die slot w0 w1 w2 w3 s
  | .openLent die lent lrec => Sys2Proof.Machine.execOpenLent die lent lrec s
  | .closeLent die lent => Sys2Proof.Machine.execCloseLent die lent s
  | .claim die lent => Sys2Proof.Machine.execClaim die lent s
  | .unclaim die lent gang => Sys2Proof.Machine.execUnclaim die lent gang s
  | .leaseCmd die entry w0 w1 w2 => Sys2Proof.Machine.execLeaseCmd die entry w0 w1 w2 s
  | .releaseCmd die entry => Sys2Proof.Machine.execReleaseCmd die entry s
  | .preemptCmd die lent gang => Sys2Proof.Machine.execPreemptCmd die lent gang s
  | .bellpart die slot part => Sys2Proof.Machine.execBellpart die slot part s
  | .leaseWalkDone die entry => Sys2Proof.Machine.execLeaseWalkDone die entry s
  | .hostRangeMapped die entry => Sys2Proof.Machine.execHostRangeMapped die entry s
  | .hostLeaseRefuse die entry => Sys2Proof.Machine.execHostLeaseRefuse die entry s
  | .guestPacket b p => Sys2Proof.Machine.execGuestPacket b p s
  | .guestIssue b => Sys2Proof.Machine.execGuestIssue b s
  | .guestAgeing b => Sys2Proof.Machine.execGuestAgeing b s
  | .resultPacket r => Sys2Proof.Machine.execResultPacket r s
  | .copyComplete hwid gen => Sys2Proof.Machine.execCopyComplete hwid gen s
  | .copyEventRecord hwid gen => Sys2Proof.Machine.execCopyEventRecord hwid gen s
  | .matrixCommandStart b => Sys2Proof.Machine.execMatrixCommandStart b s
  | .mcqAgeing b => Sys2Proof.Machine.execMcqAgeing b s
  | .mcqOvertake b => Sys2Proof.Machine.execMcqOvertake b s
  | .mcqMigrate b target => Sys2Proof.Machine.execMcqMigrate b target s
  | .mmsSplitHalf b => Sys2Proof.Machine.execMmsSplitHalf b s
  | .mmsComplete b => Sys2Proof.Machine.execMmsComplete b s
  | .channelReserve lrec ch => Sys2Proof.Machine.execChannelReserve lrec ch s
  | .channelSlotFilled lrec ch res => Sys2Proof.Machine.execChannelSlotFilled lrec ch res s
  | .wdqRequest hwid gen => Sys2Proof.Machine.execWdqRequest hwid gen s
  | .confluenceContribution hwid gen => Sys2Proof.Machine.execConfluenceContribution hwid gen s
  | .bellSlot stack => Sys2Proof.Machine.execBellSlot stack s
  | .bellFrameBoundary stack => Sys2Proof.Machine.execBellFrameBoundary stack s
  | .gets m => Sys2Proof.Machine.execGets m s
  | .geto m full => Sys2Proof.Machine.execGeto m full s
  | .geti m => Sys2Proof.Machine.execGeti m s
  | .getu m => Sys2Proof.Machine.execGetu m s
  | .wrm m mask bytes => Sys2Proof.Machine.execWrm m mask bytes s
  | .amoh m aop wide off v cmp => Sys2Proof.Machine.execAmoh m aop wide off v cmp s
  | .puto m data => Sys2Proof.Machine.execPuto m data s
  | .putb m mask bytes => Sys2Proof.Machine.execPutb m mask bytes s
  | .lostMsg m => Sys2Proof.Machine.execLostMsg m s
  | .invMsg m => Sys2Proof.Machine.execInvMsg m s
  | .recallMsg m => Sys2Proof.Machine.execRecallMsg m s
  | .downMsg m => Sys2Proof.Machine.execDownMsg m s
  | .ackMsg m toHome isNone => Sys2Proof.Machine.execAckMsg m toHome isNone s
  | .dataMsg m toHome isNone bytes => Sys2Proof.Machine.execDataMsg m toHome isNone bytes s
  | .poisonMsg m => Sys2Proof.Machine.execPoisonMsg m s
  | .appendArrival hwid gen => Sys2Proof.Machine.execAppendArrival hwid gen s
  | .appendWriteDone page off => Sys2Proof.Machine.execAppendWriteDone page off s
  | .sealArrival hwid gen => Sys2Proof.Machine.execSealArrival hwid gen s
  | .pageMigration asid va frame home => Sys2Proof.Machine.execPageMigration asid va frame home s
  | .redirect page => Sys2Proof.Machine.execRedirect page s
  | .hostFree asid va => Sys2Proof.Machine.execHostFree asid va s
  | .shootdownMessage page stack => Sys2Proof.Machine.execShootdownMessage page stack s
  | .shootdownAck page die => Sys2Proof.Machine.execShootdownAck page die s
  | .hostInvalidate asid va len => Sys2Proof.Machine.execHostInvalidate asid va len s
  | .hostMemAccess pa write size bytes => Sys2Proof.Machine.execHostMemAccess pa write size bytes s
  | .hostSnoop line kind => Sys2Proof.Machine.execHostSnoop line kind s
  | .fabricWrite srcModule va size bytes marks => Sys2Proof.Machine.execFabricWrite srcModule va size bytes marks s
  | .fabricAck hwid gen refused => Sys2Proof.Machine.execFabricAck hwid gen refused s
  | .coldStart r => Sys2Proof.Machine.execColdStart r s
  | .warmStart r => Sys2Proof.Machine.execWarmStart r s
  | .bootTimeout => Sys2Proof.Machine.execBootTimeout s
  | .recoveryImageLoad rsa slh => Sys2Proof.Machine.execRecoveryImageLoad rsa slh s
  | .getVersion => Sys2Proof.Machine.execGetVersion s
  | .getCapabilities => Sys2Proof.Machine.execGetCapabilities s
  | .negotiateAlgorithms rsapss3072 sha384 => Sys2Proof.Machine.execNegotiateAlgorithms rsapss3072 sha384 s
  | .getDigests => Sys2Proof.Machine.execGetDigests s
  | .getCertificate off len => Sys2Proof.Machine.execGetCertificate off len s
  | .spdmChallenge nonce => Sys2Proof.Machine.execSpdmChallenge nonce s
  | .getMeasurements index => Sys2Proof.Machine.execGetMeasurements index s
  | .powerCapSet who watts => Sys2Proof.Machine.execPowerCapSet who watts s
  | .thermalThrottle die celsius => Sys2Proof.Machine.execThermalThrottle die celsius s
  | .thermalShutdown die celsius => Sys2Proof.Machine.execThermalShutdown die celsius s
  | .uncorrectableError e => Sys2Proof.Machine.execUncorrectableError e s
  | .firmwareMailboxSend die kind msg => Sys2Proof.Machine.execFirmwareMailboxSend die kind msg s
  | .queueTableWrite q word v => Sys2Proof.Machine.execQueueTableWrite q word v s
  | .counterEntryWrite cid word v => Sys2Proof.Machine.execCounterEntryWrite cid word v s
  | .belltabWrite stack slot v => Sys2Proof.Machine.execBelltabWrite stack slot v s
  | .confluenceTableWrite index v => Sys2Proof.Machine.execConfluenceTableWrite index v s
  | .perfSelectWrite die off v => Sys2Proof.Machine.execPerfSelectWrite die off v s
  | .hostRegisterWrite reg size v => Sys2Proof.Machine.execHostRegisterWrite reg size v s
  | .hostevRecordAccept hwid gen => Sys2Proof.Machine.execHostevRecordAccept hwid gen s
  | .softErrorCorrected e => Sys2Proof.Machine.execSoftErrorCorrected e s
  | .flitRetry port => Sys2Proof.Machine.execFlitRetry port s
  | .linkUncorrectableError link => Sys2Proof.Machine.execLinkUncorrectableError link s
  | .powerCapEnforcement stack => Sys2Proof.Machine.execPowerCapEnforcement stack s
  | .add d a b => Sys2Proof.Machine.execAdd d a b s
  | .sub d a b => Sys2Proof.Machine.execSub d a b s
  | .and d a b => Sys2Proof.Machine.execAnd d a b s
  | .or d a b => Sys2Proof.Machine.execOr d a b s
  | .xor d a b => Sys2Proof.Machine.execXor d a b s
  | .andn d a b => Sys2Proof.Machine.execAndn d a b s
  | .orn d a b => Sys2Proof.Machine.execOrn d a b s
  | .xnor d a b => Sys2Proof.Machine.execXnor d a b s
  | .shl d a b => Sys2Proof.Machine.execShl d a b s
  | .shr d a b => Sys2Proof.Machine.execShr d a b s
  | .sra d a b => Sys2Proof.Machine.execSra d a b s
  | .rol d a b => Sys2Proof.Machine.execRol d a b s
  | .ror d a b => Sys2Proof.Machine.execRor d a b s
  | .min d a b => Sys2Proof.Machine.execMin d a b s
  | .max d a b => Sys2Proof.Machine.execMax d a b s
  | .minu d a b => Sys2Proof.Machine.execMinu d a b s
  | .maxu d a b => Sys2Proof.Machine.execMaxu d a b s
  | .slt d a b => Sys2Proof.Machine.execSlt d a b s
  | .sltu d a b => Sys2Proof.Machine.execSltu d a b s
  | .seq d a b => Sys2Proof.Machine.execSeq d a b s
  | .sne d a b => Sys2Proof.Machine.execSne d a b s
  | .mul d a b => Sys2Proof.Machine.execMul d a b s
  | .mulh d a b => Sys2Proof.Machine.execMulh d a b s
  | .mulhu d a b => Sys2Proof.Machine.execMulhu d a b s
  | .div d a b => Sys2Proof.Machine.execDiv d a b s
  | .divu d a b => Sys2Proof.Machine.execDivu d a b s
  | .rem d a b => Sys2Proof.Machine.execRem d a b s
  | .remu d a b => Sys2Proof.Machine.execRemu d a b s
  | .clz d a => Sys2Proof.Machine.execClz d a s
  | .ctz d a => Sys2Proof.Machine.execCtz d a s
  | .popc d a => Sys2Proof.Machine.execPopc d a s
  | .brev d a => Sys2Proof.Machine.execBrev d a s
  | .bswap d a => Sys2Proof.Machine.execBswap d a s
  | .sext d a w => Sys2Proof.Machine.execSext d a w s
  | .zext d a w => Sys2Proof.Machine.execZext d a w s
  | .addw d a b => Sys2Proof.Machine.execAddw d a b s
  | .subw d a b => Sys2Proof.Machine.execSubw d a b s
  | .mulw d a b => Sys2Proof.Machine.execMulw d a b s
  | .shlw d a b => Sys2Proof.Machine.execShlw d a b s
  | .shrw d a b => Sys2Proof.Machine.execShrw d a b s
  | .sraw d a b => Sys2Proof.Machine.execSraw d a b s
  | .mov d a => Sys2Proof.Machine.execMov d a s
  | .addi d a imm => Sys2Proof.Machine.execAddi d a imm s
  | .andi d a imm => Sys2Proof.Machine.execAndi d a imm s
  | .ori d a imm => Sys2Proof.Machine.execOri d a imm s
  | .xori d a imm => Sys2Proof.Machine.execXori d a imm s
  | .shli d a x => Sys2Proof.Machine.execShli d a x s
  | .shri d a x => Sys2Proof.Machine.execShri d a x s
  | .srai d a x => Sys2Proof.Machine.execSrai d a x s
  | .rori d a x => Sys2Proof.Machine.execRori d a x s
  | .slti d a imm => Sys2Proof.Machine.execSlti d a imm s
  | .sltiu d a imm => Sys2Proof.Machine.execSltiu d a imm s
  | .lhi d imm => Sys2Proof.Machine.execLhi d imm s
  | .pchi d imm => Sys2Proof.Machine.execPchi d imm s
  | .beq a b o => Sys2Proof.Machine.execBeq a b o s
  | .bne a b o => Sys2Proof.Machine.execBne a b o s
  | .blt a b o => Sys2Proof.Machine.execBlt a b o s
  | .bge a b o => Sys2Proof.Machine.execBge a b o s
  | .bltu a b o => Sys2Proof.Machine.execBltu a b o s
  | .bgeu a b o => Sys2Proof.Machine.execBgeu a b o s
  | .jal d o => Sys2Proof.Machine.execJal d o s
  | .jalr d a imm => Sys2Proof.Machine.execJalr d a imm s
  | .loop l a imm => Sys2Proof.Machine.execLoop l a imm s
  | .yield a => Sys2Proof.Machine.execYield a s
  | .exitTask => Sys2Proof.Machine.execExitTask s
  | .forkr d a b => Sys2Proof.Machine.execForkr d a b s
  | .trap a => Sys2Proof.Machine.execTrap a s
  | .eret => Sys2Proof.Machine.execEret s
  | .syscFree d a => Sys2Proof.Machine.execSyscFree d a s
  | .syscHostev d a => Sys2Proof.Machine.execSyscHostev d a s
  | .brk c => Sys2Proof.Machine.execBrk c s
  | .lbrk => Sys2Proof.Machine.execLbrk s
  | .vrel f a b => Sys2Proof.Machine.execVrel f a b s
  | .fencei => Sys2Proof.Machine.execFencei s
  | .ldb d a q o imm => Sys2Proof.Machine.execLdb d a q o imm s
  | .ldh d a q o imm => Sys2Proof.Machine.execLdh d a q o imm s
  | .ldw d a q o imm => Sys2Proof.Machine.execLdw d a q o imm s
  | .ldd d a q o imm => Sys2Proof.Machine.execLdd d a q o imm s
  | .ldbu d a q o imm => Sys2Proof.Machine.execLdbu d a q o imm s
  | .ldhu d a q o imm => Sys2Proof.Machine.execLdhu d a q o imm s
  | .ldwu d a q o imm => Sys2Proof.Machine.execLdwu d a q o imm s
  | .stb b a q o imm => Sys2Proof.Machine.execStb b a q o imm s
  | .sth b a q o imm => Sys2Proof.Machine.execSth b a q o imm s
  | .stw b a q o imm => Sys2Proof.Machine.execStw b a q o imm s
  | .std b a q o imm => Sys2Proof.Machine.execStd b a q o imm s
  | .fld d a f q imm => Sys2Proof.Machine.execFld d a f q imm s
  | .fst b a f m imm => Sys2Proof.Machine.execFst b a f m imm s
  | .ldt d a imm => Sys2Proof.Machine.execLdt d a imm s
  | .stt d a imm => Sys2Proof.Machine.execStt d a imm s
  | .vld d a k p q imm => Sys2Proof.Machine.execVld d a k p q imm s
  | .vst d a k q imm => Sys2Proof.Machine.execVst d a k q imm s
  | .vlds d a b k p q => Sys2Proof.Machine.execVlds d a b k p q s
  | .vgather d a b k p q => Sys2Proof.Machine.execVgather d a b k p q s
  | .vldt d a q => Sys2Proof.Machine.execVldt d a q s
  | .vsts d a b k q => Sys2Proof.Machine.execVsts d a b k q s
  | .vscatter d a b k q => Sys2Proof.Machine.execVscatter d a b k q s
  | .vstt d a q => Sys2Proof.Machine.execVstt d a q s
  | .amoadd d a b w x => Sys2Proof.Machine.execAmoadd d a b w x s
  | .amoand d a b w x => Sys2Proof.Machine.execAmoand d a b w x s
  | .amoor d a b w x => Sys2Proof.Machine.execAmoor d a b w x s
  | .amoxor d a b w x => Sys2Proof.Machine.execAmoxor d a b w x s
  | .amomin d a b w x => Sys2Proof.Machine.execAmomin d a b w x s
  | .amomax d a b w x => Sys2Proof.Machine.execAmomax d a b w x s
  | .amominu d a b w x => Sys2Proof.Machine.execAmominu d a b w x s
  | .amomaxu d a b w x => Sys2Proof.Machine.execAmomaxu d a b w x s
  | .amoswap d a b w x => Sys2Proof.Machine.execAmoswap d a b w x s
  | .amocas d a b w x => Sys2Proof.Machine.execAmocas d a b w x s
  | .cas2 d a b x => Sys2Proof.Machine.execCas2 d a b x s
  | .swap2 d a b x => Sys2Proof.Machine.execSwap2 d a b x s
  | .faddaF d a b x => Sys2Proof.Machine.execFaddaF d a b x s
  | .faddaD d a b x => Sys2Proof.Machine.execFaddaD d a b x s
  | .vamoadd d a b x => Sys2Proof.Machine.execVamoadd d a b x s
  | .appendW d a b => Sys2Proof.Machine.execAppendW d a b s
  | .appendD d a b => Sys2Proof.Machine.execAppendD d a b s
  | .appendv d a b => Sys2Proof.Machine.execAppendv d a b s
  | .sealPage d a => Sys2Proof.Machine.execSealPage d a s
  | .tailq d a => Sys2Proof.Machine.execTailq d a s
  | .wbr d a b x => Sys2Proof.Machine.execWbr d a b x s
  | .invr d a b x => Sys2Proof.Machine.execInvr d a b x s
  | .wbinvr d a b x => Sys2Proof.Machine.execWbinvr d a b x s
  | .pref a b => Sys2Proof.Machine.execPref a b s
  | .stashmap d a b => Sys2Proof.Machine.execStashmap d a b s
  | .stashflush d a b x => Sys2Proof.Machine.execStashflush d a b x s
  | .linez d a b => Sys2Proof.Machine.execLinez d a b s
  | .fence x => Sys2Proof.Machine.execFence x s
  | .fencex p q x => Sys2Proof.Machine.execFencex p q x s
  | .acq d a x => Sys2Proof.Machine.execAcq d a x s
  | .rel a b x => Sys2Proof.Machine.execRel a b x s
  | .bindRegion a b => Sys2Proof.Machine.execBindRegion a b s
  | .unbindRegion a b x => Sys2Proof.Machine.execUnbindRegion a b x s
  | .bst a b => Sys2Proof.Machine.execBst a b s
  | .bamoAdd d a b => Sys2Proof.Machine.execBamoAdd d a b s
  | .bamoMax d a b => Sys2Proof.Machine.execBamoMax d a b s
  | .bamoOr d a b => Sys2Proof.Machine.execBamoOr d a b s
  | .bamoSwap d a b => Sys2Proof.Machine.execBamoSwap d a b s
  | .vadd d a b k p h g => Sys2Proof.Machine.execVadd d a b k p h g s
  | .vsub d a b k p h g => Sys2Proof.Machine.execVsub d a b k p h g s
  | .vmul d a b k p h g => Sys2Proof.Machine.execVmul d a b k p h g s
  | .vmulh d a b k p h g => Sys2Proof.Machine.execVmulh d a b k p h g s
  | .vmin d a b k p h g => Sys2Proof.Machine.execVmin d a b k p h g s
  | .vmax d a b k p h g => Sys2Proof.Machine.execVmax d a b k p h g s
  | .vminu d a b k p h g => Sys2Proof.Machine.execVminu d a b k p h g s
  | .vmaxu d a b k p h g => Sys2Proof.Machine.execVmaxu d a b k p h g s
  | .vand d a b k p h g => Sys2Proof.Machine.execVand d a b k p h g s
  | .vor d a b k p h g => Sys2Proof.Machine.execVor d a b k p h g s
  | .vxor d a b k p h g => Sys2Proof.Machine.execVxor d a b k p h g s
  | .vandn d a b k p h g => Sys2Proof.Machine.execVandn d a b k p h g s
  | .vshl d a b k p h g => Sys2Proof.Machine.execVshl d a b k p h g s
  | .vshr d a b k p h g => Sys2Proof.Machine.execVshr d a b k p h g s
  | .vsra d a b k p h g => Sys2Proof.Machine.execVsra d a b k p h g s
  | .vsel d a b k h g => Sys2Proof.Machine.execVsel d a b k h g s
  | .vceq d a b k p h g => Sys2Proof.Machine.execVceq d a b k p h g s
  | .vcne d a b k p h g => Sys2Proof.Machine.execVcne d a b k p h g s
  | .vclt d a b k p h g => Sys2Proof.Machine.execVclt d a b k p h g s
  | .vcle d a b k p h g => Sys2Proof.Machine.execVcle d a b k p h g s
  | .vcltu d a b k p h g => Sys2Proof.Machine.execVcltu d a b k p h g s
  | .vcleu d a b k p h g => Sys2Proof.Machine.execVcleu d a b k p h g s
  | .vsplat d a k p => Sys2Proof.Machine.execVsplat d a k p s
  | .vext d a b h => Sys2Proof.Machine.execVext d a b h s
  | .vperm d a b k p h g => Sys2Proof.Machine.execVperm d a b k p h g s
  | .vrot d a b k p h g => Sys2Proof.Machine.execVrot d a b k p h g s
  | .vshuf d a b k p h g => Sys2Proof.Machine.execVshuf d a b k p h g s
  | .vred d a c k h => Sys2Proof.Machine.execVred d a c k h s
  | .vscan d a c k p h => Sys2Proof.Machine.execVscan d a c k p h s
  | .vcomp d a k p h => Sys2Proof.Machine.execVcomp d a k p h s
  | .vexpd d a k p h => Sys2Proof.Machine.execVexpd d a k p h s
  | .vins d a b k => Sys2Proof.Machine.execVins d a b k s
  | .vfadd d a b k p t => Sys2Proof.Machine.execVfadd d a b k p t s
  | .vfsub d a b k p t => Sys2Proof.Machine.execVfsub d a b k p t s
  | .vfmul d a b k p t => Sys2Proof.Machine.execVfmul d a b k p t s
  | .vfdiv d a b k p t => Sys2Proof.Machine.execVfdiv d a b k p t s
  | .vfmin d a b k p t => Sys2Proof.Machine.execVfmin d a b k p t s
  | .vfmax d a b k p t => Sys2Proof.Machine.execVfmax d a b k p t s
  | .vfscpy d a b k p t => Sys2Proof.Machine.execVfscpy d a b k p t s
  | .vfscpyn d a b k p t => Sys2Proof.Machine.execVfscpyn d a b k p t s
  | .vfma d a b k p t => Sys2Proof.Machine.execVfma d a b k p t s
  | .vfms d a b k p t => Sys2Proof.Machine.execVfms d a b k p t s
  | .vfnma d a b k p t => Sys2Proof.Machine.execVfnma d a b k p t s
  | .vfnms d a b k p t => Sys2Proof.Machine.execVfnms d a b k p t s
  | .vfsqrt d a k p t => Sys2Proof.Machine.execVfsqrt d a k p t s
  | .vfrnd d a k p t => Sys2Proof.Machine.execVfrnd d a k p t s
  | .vfclass d a k p t => Sys2Proof.Machine.execVfclass d a k p t s
  | .vftailr d a k p t => Sys2Proof.Machine.execVftailr d a k p t s
  | .vftailw d a k p t => Sys2Proof.Machine.execVftailw d a k p t s
  | .vfeq d a b k p t => Sys2Proof.Machine.execVfeq d a b k p t s
  | .vflt d a b k p t => Sys2Proof.Machine.execVflt d a b k p t s
  | .vfle d a b k p t => Sys2Proof.Machine.execVfle d a b k p t s
  | .vfunord d a b k p t => Sys2Proof.Machine.execVfunord d a b k p t s
  | .vfeqx d a b k p t => Sys2Proof.Machine.execVfeqx d a b k p t s
  | .vfltx d a b k p t => Sys2Proof.Machine.execVfltx d a b k p t s
  | .vflex d a b k p t => Sys2Proof.Machine.execVflex d a b k p t s
  | .vfne d a b k p t => Sys2Proof.Machine.execVfne d a b k p t s
  | .vfcvt d a k p x t m => Sys2Proof.Machine.execVfcvt d a k p x t m s
  | .vfexp2 d a k p t => Sys2Proof.Machine.execVfexp2 d a k p t s
  | .vflog2 d a k p t => Sys2Proof.Machine.execVflog2 d a k p t s
  | .vfsinpi d a k p t => Sys2Proof.Machine.execVfsinpi d a k p t s
  | .vfcospi d a k p t => Sys2Proof.Machine.execVfcospi d a k p t s
  | .vfrsqrt d a k p t => Sys2Proof.Machine.execVfrsqrt d a k p t s
  | .vftanh d a k p t => Sys2Proof.Machine.execVftanh d a k p t s
  | .fadd d a b t => Sys2Proof.Machine.execFadd d a b t s
  | .fsub d a b t => Sys2Proof.Machine.execFsub d a b t s
  | .fmul d a b t => Sys2Proof.Machine.execFmul d a b t s
  | .fdiv d a b t => Sys2Proof.Machine.execFdiv d a b t s
  | .fsqrt d a t => Sys2Proof.Machine.execFsqrt d a t s
  | .fmin d a b t => Sys2Proof.Machine.execFmin d a b t s
  | .fmax d a b t => Sys2Proof.Machine.execFmax d a b t s
  | .fscpy d a b t => Sys2Proof.Machine.execFscpy d a b t s
  | .fscpyn d a b t => Sys2Proof.Machine.execFscpyn d a b t s
  | .fsxor d a b t => Sys2Proof.Machine.execFsxor d a b t s
  | .fma d a b t => Sys2Proof.Machine.execFma d a b t s
  | .fms d a b t => Sys2Proof.Machine.execFms d a b t s
  | .fnma d a b t => Sys2Proof.Machine.execFnma d a b t s
  | .fnms d a b t => Sys2Proof.Machine.execFnms d a b t s
  | .feq d a b t => Sys2Proof.Machine.execFeq d a b t s
  | .flt d a b t => Sys2Proof.Machine.execFlt d a b t s
  | .fle d a b t => Sys2Proof.Machine.execFle d a b t s
  | .funord d a b t => Sys2Proof.Machine.execFunord d a b t s
  | .feqx d a b t => Sys2Proof.Machine.execFeqx d a b t s
  | .fltx d a b t => Sys2Proof.Machine.execFltx d a b t s
  | .flex d a b t => Sys2Proof.Machine.execFlex d a b t s
  | .fclass d a t => Sys2Proof.Machine.execFclass d a t s
  | .frnd d a t => Sys2Proof.Machine.execFrnd d a t s
  | .fmvx d a t => Sys2Proof.Machine.execFmvx d a t s
  | .fmvf d a t => Sys2Proof.Machine.execFmvf d a t s
  | .ftailr d a => Sys2Proof.Machine.execFtailr d a s
  | .ftailw d a => Sys2Proof.Machine.execFtailw d a s
  | .fexp2 d a t => Sys2Proof.Machine.execFexp2 d a t s
  | .flog2 d a t => Sys2Proof.Machine.execFlog2 d a t s
  | .fsinpi d a t => Sys2Proof.Machine.execFsinpi d a t s
  | .fcospi d a t => Sys2Proof.Machine.execFcospi d a t s
  | .frsqrt d a t => Sys2Proof.Machine.execFrsqrt d a t s
  | .ftanh d a t => Sys2Proof.Machine.execFtanh d a t s
  | .fcvt d a x t m => Sys2Proof.Machine.execFcvt d a x t m s
  | .tcfg d a => Sys2Proof.Machine.execTcfg d a s
  | .tzero d => Sys2Proof.Machine.execTzero d s
  | .tld d a b => Sys2Proof.Machine.execTld d a b s
  | .tst d a b => Sys2Proof.Machine.execTst d a b s
  | .tldbp d a b => Sys2Proof.Machine.execTldbp d a b s
  | .tldmx d a b => Sys2Proof.Machine.execTldmx d a b s
  | .mma d a b => Sys2Proof.Machine.execMma d a b s
  | .tcvt d a m => Sys2Proof.Machine.execTcvt d a m s
  | .tmov d a => Sys2Proof.Machine.execTmov d a s
  | .tget d a b => Sys2Proof.Machine.execTget d a b s
  | .tset d a b => Sys2Proof.Machine.execTset d a b s
  | .geom d a b => Sys2Proof.Machine.execGeom d a b s
  | .mms d a => Sys2Proof.Machine.execMms d a s
  | .fwait d a => Sys2Proof.Machine.execFwait d a s
  | .ftest d a f => Sys2Proof.Machine.execFtest d a f s
  | .fcancel d a f => Sys2Proof.Machine.execFcancel d a f s
  | .fhandle d a f => Sys2Proof.Machine.execFhandle d a f s
  | .cpy d a => Sys2Proof.Machine.execCpy d a s
  | .cpy2d d a => Sys2Proof.Machine.execCpy2d d a s
  | .cpym d a => Sys2Proof.Machine.execCpym d a s
  | .cpyr d a => Sys2Proof.Machine.execCpyr d a s
  | .evwait d a b => Sys2Proof.Machine.execEvwait d a b s
  | .evpop d a => Sys2Proof.Machine.execEvpop d a s
  | .evpost a b => Sys2Proof.Machine.execEvpost a b s
  | .chsend d a b => Sys2Proof.Machine.execChsend d a b s
  | .chrecv d a b => Sys2Proof.Machine.execChrecv d a b s
  | .chwait d b => Sys2Proof.Machine.execChwait d b s
  | .chadv d b => Sys2Proof.Machine.execChadv d b s
  | .wdq d a => Sys2Proof.Machine.execWdq d a s
  | .submit d a b => Sys2Proof.Machine.execSubmit d a b s
  | .bari a b => Sys2Proof.Machine.execBari a b s
  | .barr d a => Sys2Proof.Machine.execBarr d a s
  | .bard d a => Sys2Proof.Machine.execBard d a s
  | .joinc d => Sys2Proof.Machine.execJoinc d s
  | .ccnt d a b => Sys2Proof.Machine.execCcnt d a b s
  | .cancelCounter d a => Sys2Proof.Machine.execCancelCounter d a s
  | .movc d imm => Sys2Proof.Machine.execMovc d imm s
  | .movtc a imm => Sys2Proof.Machine.execMovtc a imm s
  | .nopHint x => Sys2Proof.Machine.execNopHint x s
  | .himm imm => Sys2Proof.Machine.execHimm imm s
  | .hmod e k x h g q v t w => Sys2Proof.Machine.execHmod e k x h g q v t w s
  | .rep n x y z => Sys2Proof.Machine.execRep n x y z s
  | .realign t => Sys2Proof.Machine.execRealign t s
  | .hsched p => Sys2Proof.Machine.execHsched p s

end Sys2Proof.Machine
end

