-- ==== Sys2Proof/Machine/Issue.lean ====
section
/-! DEFINITION. What stands around the meaning of an instruction: prefixes (R62 to R70), the registers an instruction waits
for (R108), the shadow (R315), refusals observed (R254, R344), the choice of the next thread, and what comes from outside. -/

namespace Sys2Proof.Machine

-- Prefixes.

/-- The prefixes of a group take a word with one operand or a code at [13:8] (R128, R149, R181, R266): sb must be zero. -/
def sbZero (w : BitVec 32) : Bool :=
  let m := wMajor w
  let f := wFn w
  let g := f % 8
  if m = 1 then decide (28 ≤ f ∧ f ≤ 34) || f == 41
  else if m ≤ 0x20 then true
  else if m ≤ 0x22 then g == 2
  else if m = 0x2A then g == 6
  else if m = 0x2B then decide (3 ≤ g ∧ g ≤ 6)
  else if m = 0x2D then decide (4 ≤ g)
  else if m = 0x31 then fpsUnary (f % 64)
  else m == 0x2F || m == 0x30 || m == 0x32

/-- The majors that REP precedes (R65). -/
def repMajor (m : Nat) : Bool :=
  decide (1 ≤ m ∧ m ≤ 0x0A) || decide (0x10 ≤ m ∧ m ≤ 0x1C) || decide (0x1F ≤ m ∧ m ≤ 0x22) || decide (0x28 ≤ m ∧ m ≤ 0x32)

/-- An instruction takes a REP payload (R65). -/
def takesRep (w : BitVec 32) (p : BitVec 22) : Bool :=
  let m := wMajor w
  repMajor m && (!sbZero w || p.extractLsb' 7 3 == 0) && (!(m == 0x09 || m == 0x0A) || p.extractLsb' 10 3 == 0)

/-- An instruction takes HIMM (R63). -/
def takesHimm (w : BitVec 32) : Bool :=
  let m := wMajor w
  decide (0x02 ≤ m ∧ m ≤ 0x0A ∧ m ≠ 0x06) || m == 0x0D || decide (0x10 ≤ m ∧ m ≤ 0x20)

/-- An FPS function that HMOD keep applies to (R64). -/
def fpsKeep (f : Nat) : Bool := decide (f ≤ 4) || decide (10 ≤ f ∧ f ≤ 13) || decide (27 ≤ f ∧ f ≤ 32)

/-- The HMOD fields an instruction takes, as a mask over the payload (R64, R148, R149, R181, R266): ew 0x300000, keep
0x80000, scope valid 0x200, ha 0x8000, hb 0x4000, rq valid 0x800, sat 0x400. -/
def hmodTakes (w : BitVec 32) : BitVec 22 :=
  let m := wMajor w
  let f := wFn w
  let g := f % 8
  if 0x10 ≤ m ∧ m ≤ 0x1A then (if w.extractLsb' 10 2 = 0 then 0 else 0x200)
  else if m = 0x1C ∨ m = 0x1D ∨ m = 0x1E ∨ m = 0x23 ∨ m = 0x24 ∨ m = 0x25 then 0x800
  else if m = 0x21 ∨ m = 0x22 then (if g = 2 then 0 else 0x4000)
  else if m = 0x28 then (if g ≤ 2 then 0x30C400 else 0x30C000)
  else if m = 0x29 then (if g = 4 then 0x30C400 else 0x30C000)
  else if m = 0x2A then (if g ≤ 5 then 0x30C000 else if g = 7 then 0x308000 else 0x300000)
  else if m = 0x2B then (if g ≤ 2 then 0x30C000 else if g = 7 then 0x300000 else 0x308000)
  else if m = 0x2C then (if g ≤ 3 then 0x80000 else 0)
  else if m = 0x2D then (if g ≤ 4 then 0x80000 else 0)
  else if m = 0x30 then 0x80000
  else if m = 0x31 then (if fpsKeep (f % 64) then 0x80000 else 0)
  else 0

/-- The HMOD fields that are set (R64): rq and scope by their valid bits. -/
def hmodSet (p : BitVec 22) : BitVec 22 := p &&& 0x38CE00

/-- An instruction takes an HMOD payload (R64). -/
def takesHmod (w : BitVec 32) (p : BitVec 22) : Bool :=
  hmodTakes w != 0 && (hmodSet p &&& ~~~hmodTakes w) == 0

/-- An instruction that is no hint takes the prefixes of its group (R67). -/
def takesPfx (w : BitVec 32) (p : Pfx) : Bool :=
  (match p.rep with | some x => takesRep w x | none => true)
    && (match p.himm with | some _ => takesHimm w | none => true)
    && (match p.hmod with | some x => takesHmod w x | none => true)

/-- A hint word is out of order in its group (R67), or is a prefix at the innermost LE (R137). Kinds: 1 HIMM, 2 HMOD,
3 REP; the others stand alone. -/
def Thread.hintBad (t : Thread) (w : BitVec 32) : Bool :=
  let k := (w.extractLsb' 22 4).toNat
  let later := match t.pfx with
    | none => false
    | some p =>
      match k with
      | 1 => p.himm.isSome || p.hmod.isSome
      | 2 => p.hmod.isSome
      | _ => true
  later || (decide (1 ≤ k ∧ k ≤ 3) && decide (0 < t.depth) && t.pc == loopAddr (four t.le (t.depth - 1)))

/-- HINTMIS at the word (R67, R70). -/
def State.hintmis (s : State) (w : BitVec 32) : Bool :=
  if wMajor w = 0x3F then s.th.hintBad w
  else match s.th.pfx with
    | none => false
    | some p => !takesPfx w p

/-- MOVC or MOVTC names a control register that the thread does not have, which is ILLEGAL (R70, R111, R139). -/
def State.noCtl (s : State) (w : BitVec 32) : Bool :=
  (wMajor w == 0x36 || wMajor w == 0x37) && (s.readCtl (w.extractLsb' 0 14)).isNone

/-- One field after `k` steps (R65); none beyond the field. -/
def stepField (w : BitVec 32) (lo k st : Nat) : Option Nat :=
  let x := w.toNat / 2 ^ lo % 64 + k * st
  if x < 64 then some x else none

/-- The word of repeat `k` of a REP group (R65). -/
def stepWord (w : BitVec 32) (p : BitVec 22) (k : Nat) : Option (BitVec 32) :=
  match stepField w 20 k (p.extractLsb' 13 3).toNat, stepField w 14 k (p.extractLsb' 10 3).toNat,
      stepField w 8 k (p.extractLsb' 7 3).toNat with
  | some x, some y, some z =>
    some ((w &&& 0xFC0000FF) ||| BitVec.ofNat 32 (x * 2 ^ 20 + y * 2 ^ 14 + z * 2 ^ 8))
  | _, _, _ => none

/-- The word the current instruction executes: with its REP steps applied (R65); a hint, and an instruction that cannot take its
REP (R67), as it stands. -/
def Thread.stepped (t : Thread) (w : BitVec 32) : Option (BitVec 32) :=
  match t.pfx.bind (·.rep) with
  | some p => if wMajor w = 0x3F || !takesRep w p then some w else stepWord w p (repCount p - t.repleft.toNat)
  | none => some w

-- The registers of an instruction (R51, R108).

/-- The scalar and vector registers an instruction reads and writes. -/
structure Regs where
  rs : List (BitVec 6)
  rv : List (BitVec 6)
  ws : List (BitVec 6)
  wv : List (BitVec 6)
  deriving DecidableEq, Repr

/-- The mask register of a word whose mk field lies at `lo` (R109). -/
def maskReg (w : BitVec 32) (lo : Nat) : List (BitVec 6) :=
  let k := w.toNat / 2 ^ lo % 4
  if k = 0 then [] else [BitVec.ofNat 6 k]

/-- A register range of VREL. -/
def regRange (a b : BitVec 6) : List (BitVec 6) :=
  (List.range (b.toNat + 1 - a.toNat)).map (fun k => BitVec.ofNat 6 (a.toNat + k))

/-- A word reads the old value of its vector destination (R147, R167, R177, R179, R180): a masked form that leaves the other
elements undisturbed, VINS, VFMA to VFNMS, VFTAILW, a narrowing VFCVT. -/
def readsOldV (w : BitVec 32) : Bool :=
  let m := wMajor w
  let g := wFn w % 8
  let kept (mk pol : Nat) : Bool := w.extractLsb' mk 2 != 0 && !w.getLsbD pol
  if m = 0x1F then kept 12 11
  else if m = 0x2F then kept 12 11 || decide (containerWidth (w.extractLsb' 3 4) < containerWidth (w.extractLsb' 7 4))
  else if m = 0x29 ∧ g = 7 then false
  else if m = 0x2A ∧ g = 7 then false
  else if m = 0x2B ∧ g = 3 then false
  else if m = 0x2B ∧ g = 7 then true
  else if m = 0x2D ∧ (g ≤ 3 ∨ g = 7 ∧ wB w = 1) then true
  else if m = 0x21 ∧ g = 2 then false
  else (m == 0x21 || decide (0x28 ≤ m ∧ m ≤ 0x2E) || m == 0x30) && kept 6 5

/-- The registers that the fields of a word name, by the field tables of R51, R60, R128, R148, R179, R189, R333 and R375. YIELD
does not wait for its register (R141); FTEST, FCANCEL and FHANDLE read a pending state, not a register (R108). -/
def regsNamed (w : BitVec 32) : Regs :=
  let m := wMajor w
  let f := wFn w
  let g := f % 8
  let d := wD w
  let a := wA w
  let b := wB w
  let k6 := maskReg w 6
  let k12 := maskReg w 12
  match m with
  | 0x01 => ⟨if sbZero w then [a] else [a, b], [], [d], []⟩
  | 0x09 => ⟨[], [], [d], []⟩
  | 0x0A => ⟨[], [], [d], []⟩
  | 0x0B => ⟨[d, a], [], [], []⟩
  | 0x0C => ⟨[], [], [d], []⟩
  | 0x0E => ⟨[a], [], [], []⟩
  | 0x0F =>
    match f with
    | 2 => ⟨[a, b], [], [d, d + 1], []⟩
    | 3 => ⟨[a], [], [], []⟩
    | 5 => ⟨[a], [], [d], []⟩
    | 8 => if d = 0 then ⟨[], [], regRange a b, []⟩ else ⟨[], [], [], regRange a b⟩
    | _ => ⟨[], [], [], []⟩
  | 0x17 => ⟨[d, a], [], [], []⟩
  | 0x18 => ⟨[d, a], [], [], []⟩
  | 0x19 => ⟨[d, a], [], [], []⟩
  | 0x1A => ⟨[d, a], [], [], []⟩
  | 0x1C => ⟨[d, a], [], [], []⟩
  | 0x1E => ⟨[d, a], [], [], []⟩
  | 0x1F => ⟨[a], k12, [], [d]⟩
  | 0x20 => ⟨[a], d :: k12, [], []⟩
  | 0x21 => if g = 2 then ⟨[a], [], [], [d]⟩ else ⟨[a], b :: k6, [], [d]⟩
  | 0x22 => if g = 2 then ⟨[a], [d], [], []⟩ else ⟨[a], d :: b :: k6, [], []⟩
  | 0x23 => ⟨if f % 16 = 9 then [d, a, b] else [a, b], [], [d], []⟩
  | 0x24 =>
    match f % 16 with
    | 0 => ⟨[d, d + 1, a, b, b + 1], [], [d, d + 1], []⟩
    | 1 => ⟨[d, d + 1, a, b, b + 1], [], [d, d + 1], []⟩
    | 4 => ⟨[a], [b], [], [d]⟩
    | _ => ⟨[a, b], [], [d], []⟩
  | 0x25 => if f = 2 then ⟨[a], [b], [d], []⟩ else ⟨[a, b], [], [d], []⟩
  | 0x26 => ⟨[a, b], [], [d], []⟩
  | 0x27 => if f % 32 ≤ 1 then ⟨[], [], [], []⟩ else ⟨[a, b], [], [d], []⟩
  | 0x28 => ⟨[], a :: b :: k6, [], [d]⟩
  | 0x29 => ⟨[], a :: b :: k6, [], [d]⟩
  | 0x2A =>
    if g = 6 then ⟨[a], k6, [], [d]⟩ else if g = 7 then ⟨[b], [a], [d], []⟩ else ⟨[], a :: b :: k6, [], [d]⟩
  | 0x2B =>
    if g = 2 then ⟨[], a :: (a + 1) :: b :: k6, [], [d]⟩
    else if g = 7 then ⟨[a, b], k6, [], [d]⟩
    else if g ≤ 1 then ⟨[], a :: b :: k6, [], [d]⟩
    else ⟨[], a :: k6, [], [d]⟩
  | 0x2C => ⟨[], a :: b :: k6, [], [d]⟩
  | 0x2D => ⟨[], if sbZero w then a :: k6 else a :: b :: k6, [], [d]⟩
  | 0x2E => ⟨[], a :: b :: k6, [], [d]⟩
  | 0x2F => ⟨[], a :: k12, [], [d]⟩
  | 0x30 => ⟨[], a :: k6, [], [d]⟩
  | 0x31 =>
    let x := if sbZero w then [a] else [a, b]
    ⟨if fpsReadsD (f % 64) || f % 64 == 26 then d :: x else x, [], [d], []⟩
  | 0x33 =>
    match f with
    | 0 => ⟨[a], [], [], []⟩
    | 9 => ⟨[b], [], [], [d]⟩
    | 10 => ⟨[b], [a], [], []⟩
    | 11 => ⟨[a, b], [], [d, d + 1, d + 2, d + 3], []⟩
    | 12 => ⟨[a], [], [d], []⟩
    | _ => if 2 ≤ f ∧ f ≤ 5 then ⟨[a, b], [], [], []⟩ else ⟨[], [], [], []⟩
  | 0x34 =>
    if 1 ≤ f ∧ f ≤ 3 then ⟨[], [], [d], []⟩
    else if 4 ≤ f ∧ f ≤ 7 then ⟨[], [a], [d], []⟩
    else if f = 9 then ⟨[a], [], [], [d]⟩
    else ⟨[a, b], [], [d], []⟩
  | 0x35 => ⟨[a, b], [], [d], []⟩
  | 0x36 => ⟨[], [], [d], []⟩
  | 0x37 => ⟨[a], [], [], []⟩
  | 0x3F => ⟨[], [], [], []⟩
  | _ => ⟨[a], [], [d], []⟩

/-- The registers an instruction reads and writes: those its fields name, and the old value of its destination where it reads
it. -/
def regsOf (w : BitVec 32) : Regs :=
  let r := regsNamed w
  if readsOldV w then { r with rv := wD w :: r.rv } else r

/-- A register an instruction reads or writes is pending (R108). -/
def Thread.namesPending (t : Thread) (r : Regs) : Bool :=
  (r.rs ++ r.ws).any t.pendS || (r.rv ++ r.wv).any t.pendV

/-- An instruction that starts an asynchronous operation and completes no other way (R335): the 33rd waits. -/
def startsOp (w : BitVec 32) : Bool :=
  let f := wFn w
  match wMajor w with
  | 0x26 => f % 32 != 3
  | 0x34 => decide (4 ≤ f ∧ f ≤ 8) || decide (11 ≤ f ∧ f ≤ 13) || f == 15 || f == 16
  | _ => false

/-- An instruction that waits at issue while its thread runs in shadow (R315, R397). -/
def shadowWaits (w : BitVec 32) : Bool :=
  let m := wMajor w
  let f := wFn w
  m == 0x23 || m == 0x24 || (m == 0x25 && f != 4) || m == 0x26 || m == 0x27 || m == 0x34 || m == 0x35
    || (m == 0x33 && memEffect w) || (m == 0x0F && decide (f ≤ 6))

/-- MOVC of FCSR waits for every shipped instruction and matrix command that may still raise a flag (R113, R207). -/
def Thread.flagsPending (t : Thread) : Bool :=
  t.ops.any (fun o => match o.kind with | .ship _ => true | .mms _ => true | _ => false)

/-- The instruction waits at issue. -/
def Thread.mustWait (t : Thread) (w : BitVec 32) : Bool :=
  t.namesPending (regsOf w) || (startsOp w && decide (32 ≤ t.ops.length)) || (t.inShadow && shadowWaits w)
    || (wMajor w == 0x36 && w.extractLsb' 0 14 == 0 && t.flagsPending)

-- Refusals observed (R254, R344).

/-- A refusal that the instruction observes: it reads the filled register, or an FTEST reports it complete (R254, R337, R344). -/
def Thread.observed (t : Thread) (w : BitVec 32) : Option Refused :=
  let r := regsOf w
  let tested : List (BitVec 6) := if wMajor w = 0x34 ∧ wFn w = 1 ∧ wB w = 0 ∧ t.pendS (wA w) = false then [wA w] else []
  t.refused.find? (fun f => (r.rs ++ tested).any f.dst.hasS)

-- The undo log (R315).

/-- The control registers a running thread writes. -/
def undoCtl : List (BitVec 14) :=
  [0x000, 0x010, 0x011, 0x012, 0x013, 0x014, 0x015, 0x016, 0x017, 0x018, 0x019, 0x01A, 0x01B, 0x01C,
   0x020, 0x021, 0x022, 0x023, 0x024, 0x025, 0x026, 0x028, 0x029, 0x02A, 0x02B]

/-- The control registers that a word writes, whatever they held: of MOVTC, LOOP and LBRK, and VALID of the instructions that report
source validity (R156). -/
def ctlWritten (w : BitVec 32) : List (BitVec 14) :=
  let m := wMajor w
  let f := wFn w
  let k : BitVec 14 := (wD w).zeroExtend 14
  if m = 0x37 then [w.extractLsb' 0 14]
  else if m = 0x0E then [0x010 + k, 0x014 + k, 0x018 + k, 0x01C]
  else if m = 0x0F ∧ f = 7 then [0x01C]
  else if (m = 0x2A ∧ f % 8 = 7) ∨ (m = 0x2B ∧ (f % 8 ≤ 2 ∨ f % 8 = 7)) then [0x026]
  else []

/-- An instruction raises a flag, set already or not: it does where none is set. -/
def State.raisesFlag (s : State) (i : Instr) : Bool :=
  match exec i { s with th := { s.th with fcsr := s.th.fcsr &&& ~~~0x1F } } with
  | .next u => u.th.flags != 0
  | _ => false

/-- The old values of what the instruction `i` of `s`, whose executed word is `w`, has written in `t'`, each an entry of the log,
the value changed or not (R315): registers, control registers, the thread's copies of its tile configurations, and the destinations
it has made pending. -/
def State.undoOf (s : State) (w : BitVec 32) (i : Instr) (t' : Thread) : List Undo :=
  let t := s.th
  let tag := t.shadowTag
  let r := regsOf w
  let fresh := t'.ops.filter (fun o => !t.ops.any (fun x => x.gen == o.gen))
  let ss := ((List.range 64).map (BitVec.ofNat 6)).filter (fun n =>
    n != 0 && (r.ws.contains n || t.getS n != t'.getS n || fresh.any (fun o => o.dst.hasS n)))
  let vs := ((List.range 48).map (BitVec.ofNat 6)).filter (fun n =>
    r.wv.contains n || t.getV n != t'.getV n || fresh.any (fun o => o.dst.hasV n))
  let cs := undoCtl.filter (fun n => (ctlWritten w).contains n || s.readCtl n != State.readCtl { s with th := t' } n
    || (n == 0 && s.raisesFlag i))
  let tcs := ((List.range 16).map (BitVec.ofNat 4)).filter (fun n =>
    t.tileTC[n.toNat]?.getD 0 != t'.tileTC[n.toNat]?.getD 0)
  ss.map (fun n => ⟨tag, .s n (t.getS n)⟩) ++ vs.map (fun n => ⟨tag, .v n (t.getV n)⟩)
    ++ cs.map (fun n => ⟨tag, .ctl n ((s.readCtl n).getD 0)⟩)
    ++ tcs.map (fun n => ⟨tag, .tc n (t.tileTC[n.toNat]?.getD 0)⟩)

/-- An entry that takes room in the log of 16: the tile configuration copies have none there. -/
def Undo.counted (u : Undo) : Bool := match u.old with | .tc _ _ => false | _ => true

/-- Room in the log and in the holds after an instruction (R315). -/
def Thread.shadowRoom (t : Thread) : Bool :=
  decide ((t.undo.filter (·.counted)).length ≤ 16) && decide (t.held.length ≤ 8)

-- Issue.

/-- A thread stands where it stood: its instruction has neither retired nor trapped nor stopped it. -/
def Thread.sameSpot (t t' : Thread) : Bool :=
  t'.instret == t.instret && t'.pc == t.pc && decide (t'.wait = t.wait) && decide (t'.heldFault = t.heldFault)
    && t'.live == t.live && t'.hwid == t.hwid && t'.tpc == t.tpc && t'.tcause == t.tcause && t'.tval == t.tval
    && t'.tseq == t.tseq && t'.repleft == t.repleft

/-- A thread may issue. -/
def Thread.ready (t : Thread) : Bool := t.live && decide (t.wait = .none) && t.heldFault.isNone

/-- The counters of a thread's core take back `n` instructions that were undone. -/
def State.perfBack (s : State) (h : BitVec 17) (n : Nat) : State :=
  let lo := if isB h then 0x4000 + 128 * ((bcoreOf h).toNat % 8) else 64 * ((coreOf h).toNat % 256)
  let hi := lo + if isB h then 128 else 64
  { s with counters := { s.counters with perf := s.counters.perf.map (fun (p : Perf) =>
      if p.die == dieOf h && decide (lo ≤ p.off.toNat) && decide (p.off.toNat < hi) then p.unbump 0x0002 (some (h.toNat % 4)) n else p) } }

/-- Count the instructions that the threads of `s` have retired in `s'`, in an event too (R387, code 0x0002): a group's prefix words
with its instruction (R68), an EXIT or JOINC with which a participant of a fork leaves, and those that a trap undoes taken back, as
INSTRET is (R316; log entry 113). -/
def State.perfRetired (s s' : State) : State :=
  if s'.counters.perf.isEmpty then s'
  else s.threads.foldl (fun (x : State) t =>
    match s'.thread? t.hwid with
    | some u =>
      let n := u.wholeCount - t.wholeCount
      if n = 0 ∨ u.lrec ≠ t.lrec then x else if n.msb then x.perfBack t.hwid (-n).toNat else x.perfCore t.hwid 0x0002 n.toNat
    | none => if t.ready && t.hwid == s.th.hwid && t.fork.isSome then x.perfCore t.hwid 0x0002 1 else x) s'

/-- A thread that waits so is still to execute the instructions it has set aside. -/
def Wait.lasts : Wait → Bool
  | .barr _ _ _ | .beat _ | .fwait _ _ _ _ | .mms _ => true
  | _ => false

/-- Count the instruction that the current thread of `s` has shipped in `s'` (R387, code 0x0005). -/
def State.perfShipped (s s' : State) : State :=
  if s'.counters.perf.isEmpty || s.th.shipSeq == s'.th.shipSeq then s' else s'.perfCore s.th.hwid 0x0005 1

/-- Someone who stands behind a queued request in `s` is gone in `s'` (R304): the thread has come to another instruction or ended,
its store on its way or its operation is done, the event is in flight no more. -/
def State.gone (s s' : State) : Waiter → Bool
  | .core h => match s.thread? h, s'.thread? h with
    | some t, some u => !t.sameSpot u
    | _, _ => true
  | .store h => match s.thread? h, s'.thread? h with
    | some t, some u =>
      (match t.buf with
      | [] => u.buf.isEmpty && !t.sameSpot u
      | x :: _ => decide (u.buf.head? ≠ some x))
    | _, _ => true
  | .engine h =>
    let names (x : State) : List OpId := ((x.thread? h).map (fun t => t.ops.map (·.gen))).getD []
      ++ (x.queues.orphans.filter (fun o => o.2.1.hwid == h)).map (·.1)
    decide (names s ≠ names s')
  | .event e => !s'.pending.contains e

/-- What a step from `s` leaves behind it: the places of those who are gone in the queues of homes, and the counts of what has
retired. -/
def State.after (s s' : State) : State := s.perfRetired (s'.leaveQueues (s.gone s'))

/-- An event, with what it leaves behind. -/
def State.counted (s : State) : Out → Out
  | .next s' => .next (s.after s')
  | o => o

/-- A thread waits where it stood: nothing has happened but that layers it needs are being woken (R22) and that its requests have
taken their places at their homes, which counts them (R295). -/
def State.waiting (s s' : State) : Option Out :=
  if s'.pending = s.pending ∧ s'.caches.homeQ = s.caches.homeQ ∧ s'.caches.appendPages = s.caches.appendPages
      ∧ s'.caches.migrations = s.caches.migrations then none
  else some (.next { s with
    pending := s'.pending
    caches := { s.caches with
      homeQ := s'.caches.homeQ, appendPages := s'.caches.appendPages, migrations := s'.caches.migrations }
    counters := { s.counters with perf := s'.counters.perf } })

/-- What the instruction `i` of `s`, whose executed word is `w`, has come to: none when it must wait (R108, R315, R317, R328), so that
nothing has happened. -/
def State.settle (s : State) (w : BitVec 32) (i : Instr) (o : Out) : Option Out :=
  match o with
  | .next s' =>
    if s.th.sameSpot s'.th then s.waiting s'
    else if 32 < s'.th.ops.length then none
    else if s.th.inShadow && s'.th.heldFault.isNone then
      let t' := { s'.th with undo := s'.th.undo ++ s.undoOf w i s'.th }
      if t'.shadowRoom then some (.next (s.after (s.perfShipped { s' with th := t' }))) else none
    else some (.next (s.after (s.perfShipped s')))
  | o => some o

/-- The current thread observes the fills of the registers that a word reads (R281). -/
def State.observeReads (s : State) (w : BitVec 32) : State :=
  let r := regsOf w
  s.observe (fun d => r.rs.any d.hasS || r.rv.any d.hasV)

-- Instructions that wait while younger ones go on (R108).

/-- Two instructions meet in a register that one of them writes. -/
def Regs.meets (x y : Regs) : Bool :=
  let hit (u v : List (BitVec 6)) : Bool := u.any (fun n => v.contains n)
  hit (x.ws.filter (· != 0)) (y.rs ++ y.ws) || hit (x.rs) (y.ws.filter (· != 0)) || hit x.wv (y.rv ++ y.wv) || hit x.rv y.wv

/-- What an instruction reads and writes, the register whose pending state it tests among it. -/
def regsTouched (w : BitVec 32) : Regs :=
  let r := regsOf w
  if wMajor w = 0x34 ∧ 1 ≤ wFn w ∧ wFn w ≤ 3 ∧ wB w = 0 then { r with rs := wA w :: r.rs } else r

/-- Two instructions meet in a register, or in VALID (R156). -/
def wordsMeet (x y : BitVec 32) : Bool :=
  let sets (w : BitVec 32) : Bool := (ctlWritten w).contains 0x026
  let gets (w : BitVec 32) : Bool := wMajor w == 0x36 && w.extractLsb' 0 14 == 0x026
  (regsTouched x).meets (regsTouched y) || (sets x && (sets y || gets y)) || (gets x && sets y)

/-- An instruction that only computes on registers, and raises nothing: an integer one, or a floating-point one while no trap is
enabled. -/
def Thread.computes (t : Thread) (w : BitVec 32) : Bool :=
  let m := wMajor w
  decide (1 ≤ m ∧ m ≤ 0x09) || decide (0x28 ≤ m ∧ m ≤ 0x2B)
    || (t.enables == 0 && (decide (0x2C ≤ m ∧ m ≤ 0x32)))

/-- The operation that fills a register may be refused instead, which its first reader observes (R254, R344). -/
def OpKind.mayRefuse : OpKind → Bool
  | .append _ _ _ => true
  | .copy _ _ _ _ => true
  | _ => false

/-- An instruction names a register that such an operation fills. -/
def Thread.awaitsRefusal (t : Thread) (r : Regs) : Bool :=
  t.ops.any (fun o => o.kind.mayRefuse && ((r.rs ++ r.ws).any o.dst.hasS || (r.rv ++ r.wv).any o.dst.hasV))

/-- An instruction waits for one that was set aside. -/
def Thread.behindParked (t : Thread) (w : BitVec 32) : Bool := t.parked.any (fun p => wordsMeet p.word w)

/-- A native thread sets an instruction that waits for a register aside, and its younger ones that do not depend on it go on (R108):
one that could trap, or that orders what follows it, holds them (R391; log entry 112). -/
def Thread.parks (t : Thread) (w : BitVec 32) : Bool :=
  isB t.hwid && t.computes w && !t.awaitsRefusal (regsOf w) && (t.observed w).isNone
    && (t.namesPending (regsOf w) || t.behindParked w)

/-- An instruction waits until every one that was set aside has executed: it ends, stops or joins the task, or it reads or writes what
they change beside their destinations. -/
def drains (w : BitVec 32) : Bool :=
  let m := wMajor w
  (m == 0x0F && decide (wFn w ≤ 6)) || m == 0x37 || (m == 0x36 && w.extractLsb' 0 14 == 0)
    || (m == 0x35 && wFn w == 3) || (m == 0x3F && w.extractLsb' 22 4 == 4)

/-- An instruction reaches memory, an engine, a channel, a queue or a counter. -/
def reaches (w : BitVec 32) : Bool :=
  let m := wMajor w
  decide (0x10 ≤ m ∧ m ≤ 0x27) || m == 0x33 || (m == 0x34 && decide (3 < wFn w)) || m == 0x35

/-- An instruction reads a register whose fill, to come or not yet observed, acts as an acquire (R281). -/
def Thread.observesFill (t : Thread) (w : BitVec 32) : Bool :=
  let r := regsOf w
  let names (d : Dst) : Bool := r.rs.any d.hasS || r.rv.any d.hasV
  t.unseen.any names || t.ops.any (fun o => o.kind.acquires && names o.dst)

/-- An instruction waits for the acquire of one that was set aside: what follows an acquire is performed after it (R276, R281). -/
def Thread.behindAcquire (t : Thread) (w : BitVec 32) : Bool := reaches w && t.parked.any (fun p => t.observesFill p.word)

/-- The current instruction is set aside: it counts as retired, and executes when its registers are there. -/
def State.park (s : State) (w : BitVec 32) : State :=
  let t := s.th
  { s with th := { t.retire with parked := t.parked ++ [⟨w, t.pfx.map (fun p => { p with rep := none })⟩] } }

/-- The instructions set aside, each with those older ones among them. -/
def olderParked : List Parked → List Parked → List (Parked × List Parked)
  | _, [] => []
  | before, p :: r => (p, before) :: olderParked (before ++ [p]) r

/-- The oldest instruction set aside that waits for nothing any more: its registers are filled, and no older one among them meets
it. -/
def Thread.unparks (t : Thread) : Option Parked :=
  ((olderParked [] t.parked).find? (fun x => !t.namesPending (regsOf x.1.word)
    && !x.2.any (fun q => wordsMeet q.word x.1.word))).map (·.1)

/-- An instruction that was set aside executes; the thread stands where it stood. -/
noncomputable def State.unpark (s : State) : Option Out :=
  match s.th.unparks with
  | none => none
  | some p =>
    let t := s.th
    match decodeWord p.word with
    | .error _ => none
    | .ok i =>
      match exec i (State.observeReads { s with th := { t with pfx := p.pfx, parked := t.parked.erase p } } p.word) with
      | .next u => some (.next (s.after { u with th := { u.th with
          pc := t.pc, pfx := t.pfx, repleft := t.repleft, lb := t.lb, le := t.le, ln := t.ln, ldepth := t.ldepth, instret := t.instret } }))
      | o => some o

/-- The instruction `i`, whose executed word is `w`, at the pc of the current thread; none when it waits at issue. -/
def State.issueInstr (s : State) (w : BitVec 32) (i : Instr) : Option Out :=
  if s.th.parks w then some (.next (s.after (s.park w)))
  else if s.th.mustWait w || s.th.behindParked w || s.th.behindAcquire w || (drains w && !s.th.parked.isEmpty) then none
  else match s.th.observed w with
    | some f =>
      if s.th.inShadow || !s.th.parked.isEmpty then none
      else some (State.trap { s with th := { s.th with refused := s.th.refused.erase f } } f.cause f.tval)
    | none =>
      match s.settle w i (exec i (s.observeReads w)) with
      | some (.next u) => if s.th.parked.isEmpty || u.th.instret != s.th.instret || s.th.sameSpot u.th || u.th.wait.lasts then some (.next u) else none
      | o => o

/-- A fetch that no I-cache block serves meets host memory that the boundary filter refuses, a poisoned line or a failed sector
check (R301, R402, R412, R419). -/
def State.fetchError (s : State) (t : Thread) : Option (BitVec 7 × Word) :=
  match s.fetchPA t t.pc.toNat with
  | none => none
  | some pa =>
    if physOf pa = .host ∧ !(List.range 4).all (fun i => s.hostAllowed t.part (pa + i)) then some (0x05, t.pc)
    else if (s.iblock? t pa).isSome then none
    else match s.dataCheck t.agent [⟨pa, 4, 0, dieOf t.hwid, 0, t.pc⟩] false with
      | .error e => some e
      | .ok _ => none

/-- The line that a fetch must come from, with its home die: no I-cache block holds it. -/
def State.fetchLine (s : State) (t : Thread) : Option (Nat × BitVec 6) :=
  match s.fetchPA t t.pc.toNat, s.fetchLeaf t t.pc.toNat with
  | some pa, some l => if (s.iblock? t pa).isNone then some (lineOf pa, l.home) else none
  | _, _ => none

/-- A fetch waits at the home of its line (R22, R295). -/
def State.fetchHeld (s : State) (t : Thread) : Bool :=
  (s.fetchLine t).any (fun x => s.homeHolds (some (.core t.hwid)) false x.1 x.2)

/-- A fetch that waits takes its place at its home. -/
def State.fetchQueue (s : State) (t : Thread) : State :=
  match s.fetchLine t with
  | some x => s.queueUp ⟨.geti ⟨BitVec.ofNat 52 x.1, dieOf t.hwid, poolOf t.hwid, 2, 0⟩, some (.core t.hwid)⟩ x.1 x.2
  | none => s

/-- A fetch has had its turn at its home. -/
def State.fetched (s : State) (t : Thread) : State := s.takeTurn (some (.core t.hwid)) ((s.fetchLine t).map (·.1)).toList

/-- The word at the pc of the current thread, read as an instruction: ILLEGAL and HINTMIS first (R70). -/
noncomputable def State.issueWord (s : State) (w : BitVec 32) : Option Out :=
  let bad (code : BitVec 7) (v : Word) : Option Out := if s.th.parked.isEmpty then some (s.trap code v) else none
  match s.th.stepped w with
  | none => bad 0x01 (w.zeroExtend 64)
  | some w' =>
    match decodeWord w' with
    | .error _ => bad 0x01 (w.zeroExtend 64)
    | .ok i =>
      if s.noCtl w' then bad 0x01 (w.zeroExtend 64)
      else if s.hintmis w' then bad 0x02 s.th.pc
      else s.issueInstr w' i

/-- Issue at the pc of the current thread; a fault met in fetching the word comes first (R401, R402). -/
noncomputable def State.issue (s : State) : Option Out :=
  match s.fetchWord s.th with
  | none =>
    if s.walkWaits s.th.fetchTlbs s.th.asid s.th.pc.toNat then s.waiting (s.rouseWalk s.th.asid s.th.pc.toNat)
    else if s.th.parked.isEmpty then some (s.trap 0x10 s.th.pc)
    else none
  | some w =>
    if s.fetchHeld s.th then s.waiting (s.fetchQueue s.th)
    else
      let s := s.fetched s.th
      match s.fetchError s.th with
      | some e => if s.th.parked.isEmpty then some (s.failed e) else none
      | none => s.issueWord w

-- The choice of what happens next (log entry 5).

/-- The next thread comes to the place that issues; the one there goes to the end, or goes if it has no task. -/
def State.rotate (s : State) : State :=
  match s.others with
  | [] => s
  | t :: r => { s with th := t, others := if s.th.live then r ++ [s.th] else r }

/-- Rotate after an event. -/
def rotateOut : Out → Out
  | .next s => .next s.rotate
  | o => o

/-- The oldest stores of a thread are performed, as far as their homes take them (R273); at most `n`. -/
def State.drained (s : State) (h : BitVec 17) (n : Nat) : State := s.after (s.drain h n)

/-- The stores of the current thread that do not lag are performed as far as their homes take them (R273). -/
def State.performed (s : State) : State := if s.th.lag || s.th.buf.isEmpty then s else s.drained s.th.hwid s.th.buf.length

/-- The current thread cannot issue: its oldest store that is still to be performed is, or the oldest event in flight happens and
the next thread gets its turn. -/
def State.otherTurn (s : State) : Out :=
  let s' := s.drained s.th.hwid (min s.th.buf.length 1)
  if s'.th.buf.length < s.th.buf.length then .next s'
  else match s.pending with
  | [] => .next s.rotate
  | e :: r => rotateOut (s.counted (exec e { s with pending := r }))

/-- A turn with nothing from outside. -/
noncomputable def State.turn (s : State) : Out :=
  let s := s.performed
  match s.unpark with
  | some o => o
  | none => if s.th.ready then (s.issue).getD s.otherTurn else s.otherTurn

-- What comes from outside.

/-- Bring a thread to the place that issues. -/
def State.select (s : State) (h : BitVec 17) : State :=
  if s.th.live && s.th.hwid == h then s
  else match s.others.find? (fun t => t.live && t.hwid == h) with
    | none => s
    | some t =>
      let rest := s.others.filter (fun u => u.hwid != h)
      { s with th := t, others := if s.th.live then rest ++ [s.th] else rest }

/-- The word at the pc of a thread is the instruction `fn` of group CNT. -/
def State.atCnt (s : State) (t : Thread) (fn : Nat) : Bool := (s.fetchWord t).any (fun w => wMajor w == 0x35 && wFn w == fn)

/-- A thread stands at a word that does not issue. -/
noncomputable def State.stopped (s : State) (t : Thread) : Bool := t.ready && (State.issue (s.select t.hwid)).isNone

/-- A thread waits in BARR, JOINC or REALIGN (R387, code 0x0007): for others, or at issue for what must come before its arrival. -/
noncomputable def State.waitsAtMeeting (s : State) (t : Thread) : Bool :=
  match t.wait with
  | .barr _ _ _ => true
  | .realign _ _ _ => true
  | .beat _ => s.atCnt t 1
  | .none => (s.atCnt t 1 || s.atCnt t 3) && s.stopped t && !(s.fetchWord t).any (fun w => t.namesPending (regsOf w))
  | _ => false

/-- A thread that could issue loses its cycles to a pending register (R387, code 0x0003). -/
def State.losesToPending (s : State) (t : Thread) : Bool :=
  t.ready && (s.fetchWord t).any (fun w => t.namesPending (regsOf w) && !t.parks w)

/-- An L-core thread in shadow has its issue stopped (R315, R387, code 0x0006). -/
noncomputable def State.shadowStopped (s : State) (t : Thread) : Bool := t.inShadow && s.stopped t

/-- The periods of a die's clock of `c` 27ths that ended in the last `n` periods of the nominal one (R387, R388). -/
def State.clockPeriods (s : State) (c n : Nat) : Nat := s.cycle * c / 27 - (s.cycle - n) * c / 27

/-- A thread of the core that a counter at an offset belongs to is one that its TMASK counts; 0 counts every thread (R386,
R387). -/
def State.maskBound (s : State) (p : Perf) : Bool :=
  let tm := (p.select.extractLsb' 52 4).toNat
  let lo (h : BitVec 17) : Nat := if isB h then 0x4000 + 128 * ((bcoreOf h).toNat % 8) else 64 * ((coreOf h).toNat % 256)
  tm == 0 || s.threads.any (fun t => dieOf t.hwid == p.die && decide (lo t.hwid ≤ p.off.toNat)
    && decide (p.off.toNat < lo t.hwid + if isB t.hwid then 128 else 64) && decide (tm / 2 ^ (t.hwid.toNat % 4) % 2 = 1))

/-- `n` periods pass for the performance counters: 0x0001 clock cycles of cores, 0x0003 and 0x0006 issue stopped, 0x0007
cycles waiting, 0x0011 matrix unit busy cycles (R387). A core's cycles are no thread's: with a TMASK they count while one of its
threads has a task (log entry 113). -/
noncomputable def State.perfTick (s : State) (n : Nat) : State :=
  if s.counters.perf.isEmpty then s
  else
    let s := { s with counters := { s.counters with perf := s.counters.perf.map (fun (p : Perf) =>
      if p.off.toNat < 0x4400 ∧ s.maskBound p then p.bump 0x0001 none (s.clockPeriods (s.clockOf p.die) n) else p) } }
    let s := (s.threads.filter s.waitsAtMeeting).foldl (fun (s : State) t => s.perfCore t.hwid 0x0007 n) s
    let s := (s.threads.filter s.losesToPending).foldl (fun (s : State) t => s.perfCore t.hwid 0x0003 n) s
    let s := (s.threads.filter s.shadowStopped).foldl (fun (s : State) t => s.perfCore t.hwid 0x0006 n) s
    (s.queues.bcores.filter (fun c => c.2.running.isSome)).foldl (fun (s : State) c =>
      let lo := 0x4000 + 128 * (c.1.toNat % 8)
      s.perfCount (BitVec.ofNat 6 (c.1.toNat / 8)) lo (lo + 128) 0x0011 none n) s

/-- A line of host memory that the boundary filter keeps from the partition of a pool (R366, R412). -/
def State.keptFrom (s : State) (d : BitVec 6) (p : BitVec 5) (l : Nat) : Bool :=
  physOf l == .host && !(List.range 64).all (fun i => s.hostAllowed (s.partOf d p) (l + i))

/-- A class I-cache takes in a 32-byte block from its home (R40, R144); data that fail their check are not kept (R402). -/
def State.fillIBlock (s : State) (d : BitVec 6) (p : BitVec 5) (pa : BitVec 52) : State :=
  let k := pa.toNat / 32 * 32
  let base : BitVec 52 := BitVec.ofNat 52 k
  let line : BitVec 52 := BitVec.ofNat 52 (lineOf k)
  if s.homeHolds none false (lineOf k) (s.homeOf line) || s.keptFrom d p (lineOf k) || s.caches.poison.contains line || s.caches.badSectors.contains base then s
  else
    let b : IBlock := ⟨d, p, base, BitVec.ofNat 256 (natOfBytes (s.homeBytes k 32))⟩
    { s with caches := { s.caches with iblocks := b :: s.caches.iblocks.filter (fun x => !(x.die == d && x.pool == p && x.pa == base)) } }

/-- A pool has a constant cache: [B1, B2) is not empty for any thread bound there (R217, R221). -/
def State.constKeeps (s : State) (d : BitVec 6) (p : BitVec 5) : Bool :=
  !s.threads.any (fun t => dieOf t.hwid == d && poolOf t.hwid == p && decide (poolB t.poolb2 ≤ poolB t.poolb1))

/-- A constant cache takes in a line (R221). -/
def State.fillConst (s : State) (d : BitVec 6) (p : BitVec 5) (l : BitVec 52) : State :=
  let base : BitVec 52 := BitVec.ofNat 52 (lineOf l.toNat)
  if !s.constKeeps d p || s.homeHolds none false base.toNat (s.homeOf base) || s.keptFrom d p base.toNat then s
  else
    let c : LineCopy := ⟨d, p, base, true, s.memLine base.toNat⟩
    { s with caches := { s.caches with copies := c :: s.caches.copies.filter (fun x => !(x.die == d && x.pool == p && x.line == base && x.isConst)) } }

/-- A TLB drops its entry of an address (R365). -/
def State.dropTlb (s : State) (u : TlbUnit) (a : BitVec 16) (va : BitVec 48) : State :=
  { s with caches := { s.caches with tlbs := s.caches.tlbs.filter (fun e =>
      !(decide (e.unit = u) && e.asid == a && decide (e.va.toNat ≤ va.toNat) && decide (va.toNat < e.va.toNat + e.size.toNat))) } }

/-- A TLB of an awake die takes in the translation the tables give now (R365), when no home holds its walker up (R22). -/
def State.fillTlb (s : State) (u : TlbUnit) (a : BitVec 16) (va : BitVec 48) : State :=
  if (s.walkStop a va.toNat).isSome then s.rouseWalk a va.toNat
  else match s.walk a va.toNat with
  | none => s
  | some l =>
    if !s.awake u.die then s
    else
      let e : Tlb := ⟨u, a, BitVec.ofNat 48 (va.toNat / l.size * l.size), BitVec.ofNat 31 l.size, s.tableWord l.pte.toNat, l.pte⟩
      let s := s.dropTlb u a va
      { s with caches := { s.caches with tlbs := e :: s.caches.tlbs } }

/-- The stores of a thread come to lag behind it, or no longer do (R273). -/
def State.setLag (s : State) (h : BitVec 17) (on : Bool) : State :=
  match s.thread? h with
  | some t => s.putThread { t with lag := on }
  | none => s

/-- One input from outside the running thread happens. An encoded instruction is no event. -/
noncomputable def State.happens (s : State) : Input → Out
  | .run h => (s.select h).turn
  | .deliver k =>
    match s.pending[k]? with
    | none => .next s
    | some e => s.counted (exec e { s with pending := s.pending.eraseIdx k })
  | .event e => if (encodeNat e).isNone then s.counted (exec e s) else .next s
  | .tick n => .next (State.perfTick { s with cycle := s.cycle + n } n)
  | .icacheFill d p pa => .next (s.fillIBlock d p pa)
  | .constFill d p l => .next (s.fillConst d p l)
  | .tlbFill u a va => .next (s.fillTlb u a va)
  | .tlbDrop u a va => .next (s.dropTlb u a va)
  | .dropCopy d l => .next (s.dropCopies d (BitVec.ofNat 52 (lineOf l.toNat)))
  | .dropPool d p l => .next (s.dropPool d p (BitVec.ofNat 52 (lineOf l.toNat)))
  | .race l reqs => .next (s.race l reqs)
  | .dirReuse r => .next (s.reuseDir r)
  | .filterReuse d r => .next (s.reuseFilter d r)
  | .lag h on => .next (s.setLag h on)
  | .drain h => .next (s.drained h 1)
  | .mirror d on => .next (s.lagMirror d on)
  | .hostRead reg n => .next (s.hostRead reg n)
  | .fabric m r i => .next { s with boundary := { s.boundary with moduleNo := m, routes := r, imports := i.take 64 } }
  | .power st w => .next (s.measurePower st w)
  | .pldm x => .next (s.askDyica x)

/-- A module that is shut down serves nothing (R423): a cold start is what it takes, time passes, and Dyica, which lies on base die
0, answers (log entry 127). -/
def Input.afterShutdown : Input → Bool
  | .event (.coldStart _) => true
  | .tick _ => true
  | .power _ _ => true
  | .pldm _ => true
  | _ => false

/-- One input to the module. -/
noncomputable def State.input (s : State) (x : Input) : Out :=
  if s.boundary.shutdown && !x.afterShutdown then .next s else s.happens x

end Sys2Proof.Machine
end

