-- ==== Sys2Proof/Machine/Step.lean ====
section
/-! DEFINITION. One step of the module, and the placing of one instruction where the next step fetches. -/

namespace Sys2Proof.Machine

/-- One step: what the tape says happens next, or, with an empty tape, a turn of the current thread (log entry 5). -/
noncomputable def step (s : State) : Host.Outcome State Fault Refusal :=
  match s.tape with
  | [] => s.turn
  | x :: r => State.input { s with tape := r } x

/-- The four bytes of a word at a physical address, which no I-cache block hides. -/
def State.placeWord (s : State) (pa w : Nat) : State :=
  { s with
    mem := Memory.writeNat s.mem pa 4 w
    caches := { s.caches with iblocks := s.caches.iblocks.filter (fun b => !(b.pa.toNat == pa / 32 * 32)) } }

/-- A thread bound by hand: thread 0 of L-core 0 of die 0, in the address space of ASID 0, at pc 0x1_0000. Two page table
words map the first GiB of the address space, as NORMAL memory, to the first of HBM (log entry 12). -/
def State.bindByHand (s : State) : State :=
  { s with
    th := { Thread.idle 0 with live := true, pc := 0x10000 }
    mem := Memory.write64 (Memory.write64 s.mem 0x1000 0x2001) 0x2000 3
    tables := { s.tables with asids := assoc s.tables.asids 0 (0x1000, 0) }
    caches := { s.caches with tlbs := [] } }

/-- The state with the instruction whose first `nbits` bits are `w` where `step` fetches next: nothing comes from outside
first, and the current thread, or one bound by hand when none can fetch, has the word at its pc. -/
def State.withFetchWord (s : State) (nbits w : Nat) : State :=
  let s := { s with tape := [] }
  let v := w % 2 ^ nbits % 2 ^ 32
  match if s.th.ready then s.fetchPA s.th s.th.pc.toNat else none with
  | some pa => s.placeWord pa v
  | none => s.bindByHand.placeWord 0x10000 v

end Sys2Proof.Machine
end

