-- ==== Sys2Proof/Safety.lean ====
section
/-! DEFINITION. What a run that is in order means: the memory keeps its canonical form, and a run stops nowhere but at a host
access to an address that nothing lies at. -/

namespace Sys2Proof.Machine

/-- The memory is in its canonical form: addresses strictly rising, no entry equal to an unlisted byte. -/
def State.MemoryCanonical (s : State) : Prop := Memory.wf s.mem = true

/-- An event for which the spec has no effect: a host access to a physical address that R211 reserves. -/
def reachesNothing (e : Instr) : Prop :=
  ∃ pa w n b, e = .hostMemAccess pa w n b ∧ physOf pa.toNat = .reserved

/-- An outcome is in order: a next state with its memory in canonical form, or the stop of a reserved address. -/
def Orderly (o : Host.Outcome State Fault Refusal) : Prop :=
  match o with
  | .next t => t.MemoryCanonical
  | .fault (.reservedPhysical k) => physOf k = .reserved
  | .refused _ => False

end Sys2Proof.Machine
end

