-- ==== Sys2Proof/Certificates/Slice0/Obligations.lean ====
section
/-! DEFINITION. The statements for the provers: what the rules of spec/ say the machine does, family by family. The names in
`Sys2Proof.Claims` only shorten them. -/

namespace Sys2Proof.Claims

open Sys2Proof.Machine

/-- Everything but the current thread is as it was: the other threads, every byte of memory, every queue and table. -/
def restKept (s t : State) : Prop := { t with th := s.th } = s

/-- A thread without its scalar and vector registers, its pc, and what only retirement moves: INSTRET (R118), REPLEFT and the
prefixes of its group (R65), LN and LDEPTH (R135). `refused` and `unseen` are the model's own notes of registers that a write
to them discharges: a refused append's, and one whose fill is still to be observed. -/
def bare (t : Thread) : Thread :=
  { t with s := Vector.replicate 64 ⟨0, 0⟩, v := Vector.replicate 48 ⟨0, 0⟩, pc := 0, ln := Vector.replicate 4 0,
           ldepth := 0, repleft := 0, instret := 0, pfx := none, refused := [], unseen := [] }

/-- Of a thread's registers only scalar register `d` changes, to `x`; a write to s0 is discarded (R106). -/
def scalarRegs (t u : Thread) (d : BitVec 6) (x : SReg) : Prop :=
  (∀ n, u.getS n = if n = d ∧ n ≠ 0 then x else t.getS n) ∧ ∀ n, u.getV n = t.getV n

/-- Of a thread's registers only vector register `d` changes, to `x`. -/
def vectorRegs (t u : Thread) (d : BitVec 6) (x : VReg) : Prop :=
  (∀ n, u.getS n = t.getS n) ∧ ∀ n, u.getV n = if n = d then x else t.getV n

/-- No register changes. -/
def noRegs (t u : Thread) : Prop := (∀ n, u.getS n = t.getS n) ∧ ∀ n, u.getV n = t.getV n

/-- The frame of a register instruction that writes scalar register `d`: the value, and nothing else but what retirement moves.
-/
def scalarOnly (s t : State) (d : BitVec 6) (x : SReg) : Prop :=
  restKept s t ∧ bare t.th = bare s.th ∧ scalarRegs s.th t.th d x

/-- The same for vector register `d`. -/
def vectorOnly (s t : State) (d : BitVec 6) (x : VReg) : Prop :=
  restKept s t ∧ bare t.th = bare s.th ∧ vectorRegs s.th t.th d x

/-- The frame of an instruction that writes no register. -/
def nothing (s t : State) : Prop := restKept s t ∧ bare t.th = bare s.th ∧ noRegs s.th t.th

/-- The number of a list of bits, the lowest first. -/
def ofBits (f : Nat → Bool) (n : Nat) : Nat := ((List.range n).map (fun i => (f i).toNat * 2 ^ i)).sum

/-- The two-source instructions of INT but the divisions, with their results as numbers (R126). -/
def twoSource (d a b : BitVec 6) : List (Instr × (Word → Word → Word)) :=
  [ (.add d a b, fun x y => BitVec.ofNat 64 (x.toNat + y.toNat)),
    (.sub d a b, fun x y => BitVec.ofInt 64 (x.toInt - y.toInt)),
    (.and d a b, fun x y => x &&& y),
    (.or d a b, fun x y => x ||| y),
    (.xor d a b, fun x y => x ^^^ y),
    (.andn d a b, fun x y => x &&& ~~~y),
    (.orn d a b, fun x y => x ||| ~~~y),
    (.xnor d a b, fun x y => ~~~(x ^^^ y)),
    (.shl d a b, fun x y => BitVec.ofNat 64 (x.toNat * 2 ^ (y.toNat % 64))),
    (.shr d a b, fun x y => BitVec.ofNat 64 (x.toNat / 2 ^ (y.toNat % 64))),
    (.sra d a b, fun x y => BitVec.ofInt 64 (x.toInt / 2 ^ (y.toNat % 64))),
    (.rol d a b, fun x y => (x <<< (y.toNat % 64)) ||| (x >>> (64 - y.toNat % 64))),
    (.ror d a b, fun x y => (x >>> (y.toNat % 64)) ||| (x <<< (64 - y.toNat % 64))),
    (.min d a b, fun x y => BitVec.ofInt 64 (min x.toInt y.toInt)),
    (.max d a b, fun x y => BitVec.ofInt 64 (max x.toInt y.toInt)),
    (.minu d a b, fun x y => BitVec.ofNat 64 (min x.toNat y.toNat)),
    (.maxu d a b, fun x y => BitVec.ofNat 64 (max x.toNat y.toNat)),
    (.slt d a b, fun x y => if x.toInt < y.toInt then 1 else 0),
    (.sltu d a b, fun x y => if x.toNat < y.toNat then 1 else 0),
    (.seq d a b, fun x y => if x = y then 1 else 0),
    (.sne d a b, fun x y => if x = y then 0 else 1),
    (.mul d a b, fun x y => BitVec.ofInt 64 (x.toInt * y.toInt)),
    (.mulh d a b, fun x y => BitVec.ofInt 64 (x.toInt * y.toInt / 2 ^ 64)),
    (.mulhu d a b, fun x y => BitVec.ofNat 64 (x.toNat * y.toNat / 2 ^ 64)),
    (.addw d a b, fun x y => (BitVec.ofNat 32 (x.toNat + y.toNat)).signExtend 64),
    (.subw d a b, fun x y => (BitVec.ofInt 32 (x.toInt - y.toInt)).signExtend 64),
    (.mulw d a b, fun x y => (BitVec.ofInt 32 (x.toInt * y.toInt)).signExtend 64),
    (.shlw d a b, fun x y => (BitVec.ofNat 32 (x.toNat * 2 ^ (y.toNat % 32))).signExtend 64),
    (.shrw d a b, fun x y => (BitVec.ofNat 32 (x.toNat % 2 ^ 32 / 2 ^ (y.toNat % 32))).signExtend 64),
    (.sraw d a b, fun x y => BitVec.ofInt 64 ((x.setWidth 32).toInt / 2 ^ (y.toNat % 32))) ]

/-- The one-source instructions of INT with their results as numbers (R126, R128). -/
def oneSource (d a : BitVec 6) : List (Instr × (Word → Word)) :=
  [ (.clz d a, fun x => BitVec.ofNat 64 ((List.range 64).takeWhile (fun i => !x.getLsbD (63 - i))).length),
    (.ctz d a, fun x => BitVec.ofNat 64 ((List.range 64).takeWhile (fun i => !x.getLsbD i)).length),
    (.popc d a, fun x => BitVec.ofNat 64 (((List.range 64).map (fun i => (x.getLsbD i).toNat)).sum)),
    (.brev d a, fun x => BitVec.ofNat 64 (ofBits (fun i => x.getLsbD (63 - i)) 64)),
    (.bswap d a, fun x => BitVec.ofNat 64 (((List.range 8).map (fun i => x.toNat / 256 ^ i % 256 * 256 ^ (7 - i))).sum)),
    (.sext d a 0, fun x => BitVec.ofInt 64 (x.setWidth 8).toInt),
    (.sext d a 1, fun x => BitVec.ofInt 64 (x.setWidth 16).toInt),
    (.sext d a 2, fun x => BitVec.ofInt 64 (x.setWidth 32).toInt),
    (.zext d a 0, fun x => BitVec.ofNat 64 (x.toNat % 2 ^ 8)),
    (.zext d a 1, fun x => BitVec.ofNat 64 (x.toNat % 2 ^ 16)),
    (.zext d a 2, fun x => BitVec.ofNat 64 (x.toNat % 2 ^ 32)) ]

/-- The immediate forms with their results as numbers (R129, R130). -/
def immediates (d a : BitVec 6) (i : BitVec 14) (h : BitVec 6) : List (Instr × (Word → Int → Word)) :=
  [ (.addi d a i, fun x k => BitVec.ofInt 64 (x.toInt + k)),
    (.andi d a i, fun x k => x &&& BitVec.ofInt 64 k),
    (.ori d a i, fun x k => x ||| BitVec.ofInt 64 k),
    (.xori d a i, fun x k => x ^^^ BitVec.ofInt 64 k),
    (.slti d a i, fun x k => if x.toInt < k then 1 else 0),
    (.sltiu d a i, fun x k => if (x.toNat : Int) < k % 2 ^ 64 then 1 else 0),
    (.shli d a h, fun x _ => BitVec.ofNat 64 (x.toNat * 2 ^ h.toNat)),
    (.shri d a h, fun x _ => BitVec.ofNat 64 (x.toNat / 2 ^ h.toNat)),
    (.srai d a h, fun x _ => BitVec.ofInt 64 (x.toInt / 2 ^ h.toNat)),
    (.rori d a h, fun x _ => (x >>> h.toNat) ||| (x <<< (64 - h.toNat))) ]

/-- The HIMM payload of the current group, if it has one (R63). -/
def himmOf (s : State) : Option (BitVec 22) := s.th.pfx.bind (·.himm)

/-- The immediate of R129: the 14-bit field, or with a HIMM the 36-bit value payload:field, sign-extended (R63). -/
def imm36 (s : State) (i : BitVec 14) : Int :=
  match himmOf s with
  | none => i.toInt
  | some p => (p ++ i).toInt

/-- The upper value of LHI and PCHI (R131): the 20-bit field, or with a HIMM payload:field, sign-extended, by 8,192. -/
def upper42 (s : State) (i : BitVec 20) : Int :=
  match himmOf s with
  | none => i.toInt * 8192
  | some p => (p ++ i).toInt * 8192

end Sys2Proof.Claims

open Sys2Proof Sys2Proof.Machine Sys2Proof.Claims

/-- R126, R127, R128: every INT instruction completes in every state, with its result in s[d], tail 00 except for MOV, which
copies the image with its tail, and it changes nothing else but what retirement moves. The divisions never trap: a zero divisor
gives all ones, or the dividend as the remainder; the most negative number by -1 gives itself and remainder 0. A word of a one-
source operation whose b field is not zero is no instruction. -/
def Obligations.IntegerResults : Prop :=
  ∀ (s : State) (d a b : BitVec 6), let x := s.rs a; let y := s.rs b
    (∀ p ∈ twoSource d a b, ∃ t, exec p.1 s = .next t ∧ scalarOnly s t d ⟨p.2 x y, 0⟩)
    ∧ (∀ p ∈ oneSource d a, ∃ t, exec p.1 s = .next t ∧ scalarOnly s t d ⟨p.2 x, 0⟩)
    ∧ (∃ t, exec (.mov d a) s = .next t ∧ scalarOnly s t d (s.th.getS a))
    ∧ (∃ t, exec (.div d a b) s = .next t ∧ scalarOnly s t d
        ⟨if y = 0 then BitVec.allOnes 64 else if x = BitVec.intMin 64 ∧ y = BitVec.allOnes 64 then x
          else BitVec.ofInt 64 (x.toInt.tdiv y.toInt), 0⟩)
    ∧ (∃ t, exec (.divu d a b) s = .next t ∧ scalarOnly s t d
        ⟨if y = 0 then BitVec.allOnes 64 else BitVec.ofNat 64 (x.toNat / y.toNat), 0⟩)
    ∧ (∃ t, exec (.rem d a b) s = .next t ∧ scalarOnly s t d
        ⟨if y = 0 then x else if x = BitVec.intMin 64 ∧ y = BitVec.allOnes 64 then 0
          else BitVec.ofInt 64 (x.toInt - y.toInt * x.toInt.tdiv y.toInt), 0⟩)
    ∧ (∃ t, exec (.remu d a b) s = .next t ∧ scalarOnly s t d
        ⟨if y = 0 then x else BitVec.ofNat 64 (x.toNat % y.toNat), 0⟩)
    ∧ ∀ (w : BitVec 32) (i : Instr), w.extractLsb' 26 6 = 1 → w.extractLsb' 8 6 ≠ 0 →
        w.extractLsb' 0 8 ∈ ([28, 29, 30, 31, 32, 41] : List (BitVec 8)) → decodeWord w ≠ .ok i

/-- R129, R130, R131: every immediate form completes in every state, with or without a HIMM, with its result in s[d] with tail
00, and changes nothing else but what retirement moves. PCHI adds to the address of its own word. -/
def Obligations.ImmediateResults : Prop :=
  ∀ (s : State) (d a : BitVec 6) (i : BitVec 14) (h : BitVec 6) (u : BitVec 20),
    (∀ p ∈ immediates d a i h, ∃ t, exec p.1 s = .next t ∧ scalarOnly s t d ⟨p.2 (s.rs a) (imm36 s i), 0⟩)
    ∧ (∃ t, exec (.lhi d u) s = .next t ∧ scalarOnly s t d ⟨BitVec.ofInt 64 (upper42 s u), 0⟩)
    ∧ ∃ t, exec (.pchi d u) s = .next t ∧ scalarOnly s t d ⟨s.th.pc + BitVec.ofInt 64 (upper42 s u), 0⟩
namespace Sys2Proof.Claims

open Sys2Proof.Machine

/-- The branches with their conditions (R132). -/
def branches (a b : BitVec 6) (o : BitVec 11) : List (Instr × (Word → Word → Bool)) :=
  [ (.beq a b o, fun x y => decide (x = y)),
    (.bne a b o, fun x y => decide (x ≠ y)),
    (.blt a b o, fun x y => decide (x.toInt < y.toInt)),
    (.bge a b o, fun x y => decide (y.toInt ≤ x.toInt)),
    (.bltu a b o, fun x y => decide (x.toNat < y.toNat)),
    (.bgeu a b o, fun x y => decide (y.toNat ≤ x.toNat)) ]

/-- The state after the instruction at pc raises a cause: what R390, R393 and R394 make of it. -/
def trapped (s : State) (code : BitVec 7) (tval : Word) : State := s.raise code tval

/-- A signed target within 48 bits (R132). -/
def inRange (x : Int) : Prop := 0 ≤ x ∧ x < 2 ^ 48

/-- The control transfer of R132 to R136: `target` is where the thread goes on, no register changes. -/
def goesTo (s t : State) (target : Word) : Prop := nothing s t ∧ t.th.pc = target

/-- Control registers that read as themselves: number and content (R110). -/
def ownRegisters (t : Thread) : List (BitVec 14 × Word) :=
  [ (0x000, t.fcsr), (0x010, four t.lb 0), (0x011, four t.lb 1), (0x012, four t.lb 2), (0x013, four t.lb 3),
    (0x014, four t.le 0), (0x015, four t.le 1), (0x016, four t.le 2), (0x017, four t.le 3),
    (0x018, four t.ln 0), (0x019, four t.ln 1), (0x01A, four t.ln 2), (0x01B, four t.ln 3), (0x01C, t.ldepth),
    (0x020, t.tvec), (0x021, t.tpc), (0x022, t.tcause), (0x023, t.tval), (0x024, t.tseq), (0x025, t.repleft),
    (0x026, t.valid), (0x028, four t.tsave 0), (0x029, four t.tsave 1), (0x02A, four t.tsave 2), (0x02B, four t.tsave 3),
    (0x030, t.taskid), (0x031, t.gangid), (0x032, t.launchid), (0x033, t.geomdim), (0x034, t.geompos), (0x035, t.argp),
    (0x040, BitVec.ofNat 64 t.hwid.toNat), (0x042, t.instret), (0x050, t.poolb1), (0x051, t.poolb2), (0x052, t.poolb3),
    (0x060, t.shipto) ]

/-- Writable control registers with what a write of `v` leaves there: reserved bits are dropped, a rounding mode or a depth
above 4 is ignored (R110, R112, R114). -/
def writables (t : Thread) (v : Word) : List (BitVec 14 × Word) :=
  [ (0x000, if 4 < (v.extractLsb' 10 3).toNat then (v &&& 0x3FF) ||| (t.fcsr &&& 0x1C00) else v &&& 0x1FFF),
    (0x010, v &&& 0xFFFFFFFFFFFC), (0x011, v &&& 0xFFFFFFFFFFFC), (0x012, v &&& 0xFFFFFFFFFFFC), (0x013, v &&& 0xFFFFFFFFFFFC),
    (0x014, v &&& 0xFFFFFFFFFFFC), (0x015, v &&& 0xFFFFFFFFFFFC), (0x016, v &&& 0xFFFFFFFFFFFC), (0x017, v &&& 0xFFFFFFFFFFFC),
    (0x018, v), (0x019, v), (0x01A, v), (0x01B, v),
    (0x01C, if 4 < (v.extractLsb' 0 3).toNat then t.ldepth else v &&& 7),
    (0x020, v &&& 0xFFFFFFFFFFFC), (0x021, v &&& 0xFFFFFFFFFFFC), (0x022, v &&& 0xFF), (0x023, v), (0x024, v &&& 0xFFFF),
    (0x025, v &&& 0x7F), (0x026, v &&& 0xFF), (0x028, v), (0x029, v), (0x02A, v), (0x02B, v) ]

/-- A thread when all of its gang and class have come to the REALIGN of `t` (R41): one that waits there goes on. -/
def resumed (t m : Thread) : Thread :=
  match m.wait with
  | .realign p _ _ => if gangMates t m = true ∧ p = t.pc then { m with wait := .none } else m
  | _ => m

/-- The thread outside its open loops and its groups: retirement moves only its pc and INSTRET. -/
def plain (t : Thread) : Prop := t.depth = 0 ∧ t.pfx = none

end Sys2Proof.Claims

/-- R132: a branch compares two registers. Not taken, it never faults; taken with its target in 48 bits, it goes there; taken
beyond them, it raises FETCH with the target. The condition codes 0 to 5 are those of `branches` in order. -/
def Obligations.BranchesGoToTheirTargets : Prop :=
  ∀ (s : State) (a b : BitVec 6) (o : BitVec 11), ∀ p ∈ branches a b o, let target : Int := s.th.pc.toNat + 4 * o.toInt
    (p.2 (s.rs a) (s.rs b) = false →
      ∃ t, exec p.1 s = .next t ∧ nothing s t ∧ (plain s.th → t.th.pc = s.th.pc + 4))
    ∧ (p.2 (s.rs a) (s.rs b) = true → inRange target → ∃ t, exec p.1 s = .next t ∧ goesTo s t (BitVec.ofInt 64 target))
    ∧ (p.2 (s.rs a) (s.rs b) = true → ¬ inRange target →
        exec p.1 s = .next (trapped s 0x10 (BitVec.ofInt 64 target)))
    ∧ ∀ (c : Nat) (h : c < 6), decodeWord (BitVec.ofNat 32 (0x0B * 2 ^ 26 + a.toNat * 2 ^ 20 + b.toNat * 2 ^ 14
        + c * 2 ^ 11 + o.toNat)) = .ok ((branches a b o)[c]'h).1

/-- R133: a jump writes the address of the next word to s[d] and goes to its target; a misaligned JALR target raises ALIGN, a
target beyond 48 bits FETCH, and then no link is written. JALR takes the old value of s[a]. -/
def Obligations.JumpsLinkAndGo : Prop :=
  ∀ (s : State) (d a : BitVec 6) (o : BitVec 20) (i : BitVec 14),
    let near : Int := s.th.pc.toNat + 4 * o.toInt
    let far : Word := s.rs a + BitVec.ofInt 64 (imm36 s i)
    let link : SReg := ⟨s.th.pc + 4, 0⟩
    (inRange near → ∃ t, exec (.jal d o) s = .next t ∧ scalarOnly s t d link ∧ t.th.pc = BitVec.ofInt 64 near)
    ∧ (¬ inRange near → exec (.jal d o) s = .next (trapped s 0x10 (BitVec.ofInt 64 near)))
    ∧ (far.toNat % 4 = 0 → far.toNat < 2 ^ 48 →
        ∃ t, exec (.jalr d a i) s = .next t ∧ scalarOnly s t d link ∧ t.th.pc = far)
    ∧ (far.toNat % 4 ≠ 0 → exec (.jalr d a i) s = .next (trapped s 0x03 far))
    ∧ (far.toNat % 4 = 0 → 2 ^ 48 ≤ far.toNat → exec (.jalr d a i) s = .next (trapped s 0x10 far))

/-- R134, R136: LOOP opens the level LDEPTH names, skips a body with count 0, and raises LOOPDEPTH on another level or a body
that ends after the one around it; LBRK closes the innermost level and makes the loop-end step for its last word. -/
def Obligations.LoopsOpenAndBreak : Prop :=
  ∀ (s : State) (l a : BitVec 6) (i : BitVec 14), let e : Word := s.th.pc + 4 * i.zeroExtend 64
    let fits : Prop := l.toNat = s.th.depth ∧ (0 < l.toNat → e.toNat ≤ (loopAddr (four s.th.le (l.toNat - 1))).toNat)
    (l.toNat < 4 → i ≠ 0 → fits → s.rs a ≠ 0 → s.th.pc.toNat % 4 = 0 → s.th.pc.toNat < 2 ^ 47 →
      ∃ t, exec (.loop l a i) s = .next t ∧ restKept s t ∧ noRegs s.th t.th
        ∧ t.th.depth = l.toNat + 1 ∧ four t.th.lb l.toNat = s.th.pc + 4 ∧ four t.th.le l.toNat = e
        ∧ four t.th.ln l.toNat = s.rs a ∧ (s.th.pfx = none → t.th.pc = s.th.pc + 4))
    ∧ (fits → s.rs a = 0 → ∃ t, exec (.loop l a i) s = .next t ∧ goesTo s t (e + 4))
    ∧ (¬ fits → exec (.loop l a i) s = .next (trapped s 0x11 s.th.ldepth))
    ∧ (0 < s.th.depth → s.th.depth ≤ 4 → let k := s.th.depth - 1
        ∃ t, exec .lbrk s = .next t ∧ nothing s t ∧ t.th.depth ≤ k
          ∧ ((∀ j, j < k → loopAddr (four s.th.le j) ≠ loopAddr (four s.th.le k)) →
              t.th.depth = k ∧ four t.th.ln k = 0 ∧ t.th.pc = loopAddr (four s.th.le k) + 4))
    ∧ (s.th.depth = 0 → exec .lbrk s = .next (trapped s 0x11 0))

/-- R65, R118, R135: an instruction that retires without a transfer adds one to INSTRET; outside a group and away from a loop's
last word it goes on at the next word; at the last word of the innermost level it takes the level's count down by one and goes
back to its first word while the count is not 0; under a REP with repeats left it stays where it is. -/
def Obligations.RetirementMovesOn : Prop :=
  ∀ (t : Thread),
    t.retire.instret = t.instret + 1
    ∧ (t.pfx = none → (0 < t.depth → t.pc ≠ loopAddr (four t.le (t.depth - 1))) → t.retire.pc = t.pc + 4)
    ∧ (t.pfx = none → 0 < t.depth → t.depth ≤ 4 → t.pc = loopAddr (four t.le (t.depth - 1)) →
        four t.ln (t.depth - 1) ≠ 1 →
        t.retire.pc = loopAddr (four t.lb (t.depth - 1)) ∧ four t.retire.ln (t.depth - 1) = four t.ln (t.depth - 1) - 1
          ∧ t.retire.depth = t.depth)
    ∧ (t.pfx = none → t.depth = 1 → t.pc = loopAddr (four t.le 0) → four t.ln 0 = 1 →
        t.retire.pc = t.pc + 4 ∧ t.retire.depth = 0)
    ∧ (∀ p r, t.pfx = some p → p.rep = some r → 1 < t.repleft.toNat →
        t.retire.pc = t.pc ∧ t.retire.pfx = some { p with begun := true } ∧ t.retire.repleft = t.repleft - 1)
    ∧ (∀ p r, t.pfx = some p → p.rep = some r → t.repleft.toNat ≤ 1 → t.depth = 0 →
        t.retire.pc = t.pc + 4 ∧ t.retire.pfx = none ∧ t.retire.repleft = 0)

/-- R110 to R114, R118, R119, R139, R140: MOVC reads every assigned control register into s[d]; MOVTC writes those that are
writable, dropping reserved bits, and leaves the read-only ones, and then retires with the new contents, its own loop-end step
included; a depth above 4 written to LDEPTH is ignored. GSHARE is on B-cores only and takes a privileged write; an unassigned
number is ILLEGAL. -/
def Obligations.ControlRegisterAccess : Prop :=
  ∀ (s : State) (d a : BitVec 6) (n : BitVec 14), let v := s.rs a
    (∀ p ∈ ownRegisters s.th, ∃ t, exec (.movc d p.1) s = .next t ∧ scalarOnly s t d ⟨p.2, 0⟩)
    ∧ (∃ t, exec (.movc d 0x041) s = .next t ∧ scalarOnly s t d ⟨BitVec.ofNat 64 s.cycle, 0⟩)
    ∧ (∃ t, exec (.movc d 0x062) s = .next t ∧ scalarOnly s t d ⟨s.preemptReg s.th, 0⟩)
    ∧ (isB s.th.hwid = true → ∃ t, exec (.movc d 0x061) s = .next t
        ∧ scalarOnly s t d ⟨BitVec.ofNat 64 (s.bcore (bcoreOf s.th.hwid)).gshare.toNat, 0⟩)
    ∧ (∀ p ∈ writables s.th v, p.1 ≠ 0x01C → p.1 ≠ 0x025 → p.1.toNat < 0x018 ∨ 0x01B < p.1.toNat →
        ∃ t, exec (.movtc a p.1) s = .next t ∧ restKept s t ∧ noRegs s.th t.th
          ∧ ∀ q ∈ ownRegisters s.th, q.1 ≠ 0x01C → q.1 ≠ 0x025 → q.1 ≠ 0x042 → (q.1.toNat < 0x018 ∨ 0x01B < q.1.toNat) →
              State.readCtl t q.1 = some (if q.1 = p.1 then p.2 else q.2))
    ∧ (plain s.th → ∀ p ∈ writables s.th v, p.1 ≠ 0x01C →
        ∃ t, exec (.movtc a p.1) s = .next t ∧ State.readCtl t p.1 = some p.2)
    ∧ (∀ p ∈ writables s.th v, ∃ t u, exec (.movtc a p.1) s = .next t ∧ restKept s t ∧ noRegs s.th t.th ∧ t.th = u.retire
        ∧ ∀ q ∈ ownRegisters s.th, State.readCtl { s with th := u } q.1 = some (if q.1 = p.1 then p.2 else q.2))
    ∧ (let k : Word := if 4 < (v.extractLsb' 0 3).toNat then s.th.ldepth else v &&& 7;
        s.th.pfx = none → (0 < (k.extractLsb' 0 3).toNat → s.th.pc ≠ loopAddr (four s.th.le ((k.extractLsb' 0 3).toNat - 1))) →
        ∃ t, exec (.movtc a 0x01C) s = .next t ∧ restKept s t ∧ noRegs s.th t.th ∧ t.th.ldepth = k
          ∧ t.th.pc = s.th.pc + 4)
    ∧ (∀ p ∈ ownRegisters s.th, (∀ q ∈ writables s.th v, q.1 ≠ p.1) →
        ∃ t, exec (.movtc a p.1) s = .next t ∧ nothing s t)
    ∧ (isB s.th.hwid = true → s.th.priv = true → ∃ t, exec (.movtc a 0x061) s = .next t
        ∧ (t.bcore (bcoreOf s.th.hwid)).gshare.toNat = min v.toNat 16 ∧ t.mem = s.mem ∧ noRegs s.th t.th)
    ∧ (isB s.th.hwid = true → s.th.priv = false → exec (.movtc a 0x061) s = .next (trapped s 0x05 0x061))
    ∧ (s.readCtl n = none → exec (.movc d n) s = .next (trapped s 0x01 (s.insn.zeroExtend 64))
        ∧ exec (.movtc a n) s = .next (trapped s 0x01 (s.insn.zeroExtend 64)))

/-- R41, R62 to R66: a NOP, an HSCHED and a REALIGN without timeout only go on; a prefix word joins the group of the next
instruction and the pc moves past it; REP sets REPLEFT to its count, or keeps what a resumption left there. A REALIGN with a
timeout stops its thread; when every mate of its gang and class waits at its address, stands at a YIELD boundary or has ended,
the thread and all of them that wait there go on. Who counts as a mate, and that a request for pre-emption which stands already
does not end the wait, are the model's choice (log entries 87 and 95). -/
def Obligations.HintsJoinTheirGroup : Prop :=
  ∀ (s : State) (x i : BitVec 22) (t0 : BitVec 16) (pr : BitVec 2) (n : BitVec 6) (y z u : BitVec 3)
    (e : BitVec 2) (k : BitVec 1) (sc : BitVec 3) (h g : BitVec 1) (q : BitVec 2) (v t w : BitVec 1),
    let old : Pfx := s.th.pfx.getD ⟨s.th.pc, none, none, none, false⟩
    let joined (r : State) (p : Pfx) : Prop :=
      restKept s r ∧ noRegs s.th r.th ∧ r.th.pfx = some p ∧ r.th.pc = s.th.pc + 4 ∧ r.th.instret = s.th.instret + 1
    (∃ r, exec (.nopHint x) s = .next r ∧ nothing s r)
    ∧ (∃ r, exec (.hsched pr) s = .next r ∧ restKept s r ∧ noRegs s.th r.th
        ∧ r.th.hsched = if pr = 3 then s.th.hsched else pr)
    ∧ (∃ r, exec (.realign 0) s = .next r ∧ nothing s r)
    ∧ (∃ r, exec (.himm i) s = .next r ∧ joined r { old with himm := some i })
    ∧ (∃ r, exec (.hmod e k sc h g q v t w) s = .next r
        ∧ joined r { old with hmod := some (e ++ k ++ sc ++ h ++ g ++ q ++ v ++ t ++ w ++ 0#9) })
    ∧ (∃ r, exec (.rep n y z u) s = .next r ∧ joined r { old with rep := some (n ++ y ++ z ++ u ++ 0#7) }
        ∧ r.th.repleft = if s.th.repleft ≠ 0 ∧ s.th.repleft.toNat ≤ n.toNat + 1 then s.th.repleft
            else BitVec.ofNat 64 (n.toNat + 1))
    ∧ (t0 ≠ 0 → s.th.live = true → s.others = [] →
        ∃ r, exec (.realign t0) s = .next r ∧ r.mem = s.mem ∧ r.th.wait = .none ∧ noRegs s.th r.th)
    ∧ (t0 ≠ 0 → s.th.live = true → (∀ m ∈ s.others, m.live = true → gangMates s.th m = true → m.realigned s.th.pc = true) →
        ∃ r, exec (.realign t0) s = .next r ∧ r.others = s.others.map (resumed s.th) ∧ r.th = { s.th.retire with wait := .none }
          ∧ noRegs s.th r.th ∧ { r with th := s.th, others := s.others } = s)
    ∧ (t0 ≠ 0 → s.th.live = true → (∃ m ∈ s.others, m.live = true ∧ gangMates s.th m = true ∧ m.wait = .none) →
        (∀ m ∈ s.others, ∀ p c c', m.wait ≠ .realign p c c') →
        ∃ r, exec (.realign t0) s = .next r ∧ r.mem = s.mem ∧ r.others = s.others
          ∧ r.th.wait = .realign s.th.pc t0 s.cycle ∧ noRegs s.th r.th)
namespace Sys2Proof.Claims

open Sys2Proof.Machine

/-- Trap entry (R394): TPC holds the group, TCAUSE the cause, TVAL its value, TSEQ 0 for a cause of the thread itself, REPLEFT
the repeats left; the pc goes to TVEC, the prefixes go; no register and no other part of the module changes. -/
def trapEntered (s t : State) (code : BitVec 7) (tval : Word) : Prop :=
  restKept s t ∧ noRegs s.th t.th
    ∧ t.th = { s.th with tpc := s.th.groupStart &&& 0xFFFFFFFFFFFC, tcause := BitVec.ofNat 64 code.toNat, tval := tval,
                         tseq := 0, repleft := s.th.repLeftNow.zeroExtend 64, pfx := none,
                         pc := s.th.tvec &&& 0xFFFFFFFFFFFC }

/-- A thread with a task, not in shadow, whose TVEC names a handler: where a vectored cause is delivered at once. -/
def handles (s : State) : Prop :=
  s.th.live = true ∧ s.th.inShadow = false ∧ s.th.tvec &&& 0xFFFFFFFFFFFC ≠ 0

/-- The causes that R389 makes fatal: LEASE, POISON, CHECK, PARTITION, FETCH. -/
def fatalCodes : List (BitVec 7) := [0x04, 0x07, 0x08, 0x0B, 0x10]

/-- The instruction starts an asynchronous operation (R335): one more outstanding, with the next generation, its destination
pending, and `e` comes to be in flight; no register's value, nothing else of the thread and no byte of memory changes. -/
def starts (s t : State) (dst : Dst) (scope : BitVec 3) (kind : OpKind) (e : List Instr) : Prop :=
  (∃ o : Op, t.th.ops = s.th.ops ++ [o] ∧ o.gen = s.th.opGen ∧ o.dst = dst ∧ o.scope = scope ∧ o.kind = kind)
    ∧ t.th.opGen = s.th.opGen + 1 ∧ t.pending = s.pending ++ e ∧ t.mem = s.mem ∧ noRegs s.th t.th
    ∧ { bare t.th with ops := s.th.ops, opGen := s.th.opGen } = bare s.th

/-- The registers of a range read 0 with tail 00, the others as before (R143). -/
def released (t u : Thread) (f : BitVec 1) (a b : BitVec 6) : Prop :=
  (∀ n : BitVec 6, u.getS n = if f = 0 ∧ a.toNat ≤ n.toNat ∧ n.toNat ≤ b.toNat then ⟨0, 0⟩ else t.getS n)
    ∧ ∀ n : BitVec 6, u.getV n = if f = 1 ∧ a.toNat ≤ n.toNat ∧ n.toNat ≤ b.toNat then ⟨0, 0⟩ else t.getV n

end Sys2Proof.Claims

/-- R389, R390, R394, R396: in a thread that handles traps and is not in shadow, any cause that is not fatal is delivered by
trap entry; a trap of TRAP has cause 0x0E and TVAL s[a], one of BRK cause 0x0F and its code; a cause raised in shadow is held.
ERET goes to the address in TPC; it changes no register, and no control register but INSTRET and what ends its group.
(`walkCode` is no cause of R389, but how a check of the model says that a walker waits.) -/
def Obligations.TrapsEnterAndReturn : Prop :=
  ∀ (s : State) (code : BitVec 7) (tval : Word) (a c : BitVec 6),
    (handles s → code ∉ fatalCodes → code ≠ walkCode → trapEntered s (trapped s code tval) code tval)
    ∧ (handles s → ∃ t, exec (.trap a) s = .next t ∧ trapEntered s t 0x0E (s.rs a))
    ∧ (handles s → ∃ t, exec (.brk c) s = .next t ∧ trapEntered s t 0x0F (BitVec.ofNat 64 c.toNat))
    ∧ (s.th.inShadow = true → code ≠ walkCode → restKept s (trapped s code tval) ∧ ∃ k : Cause, k.code = code ∧ k.tval = tval
        ∧ k.remote = false ∧ k.tpc = s.th.groupStart ∧ (trapped s code tval).th = { s.th with heldFault := some k })
    ∧ ∃ t, exec .eret s = .next t ∧ nothing s t ∧ t.th.pc = s.th.tpc &&& 0xFFFFFFFFFFFC
        ∧ t.th.instret = s.th.instret + 1

/-- R36, R389, R399, R400: a fatal cause, or any cause of a thread without a handler, ends the task outside a fork: the task
reports one faulted task with the cause and its flags, its launch counts one more fault and keeps the record while it has fewer
than 64, and no byte of memory and no register changes. -/
def Obligations.FatalCauseEndsTheTask : Prop :=
  ∀ (s : State) (code : BitVec 7) (tval : Word) (r : Launch),
    s.th.live = true → s.th.inShadow = false → s.th.fork = none → s.th.ops = [] → s.launch? s.th.lrec = some r →
    code ≠ walkCode → (code ∈ fatalCodes ∨ s.th.tvec &&& 0xFFFFFFFFFFFC = 0) →
    let t := trapped s code tval
    t.mem = s.mem ∧ noRegs s.th t.th
      ∧ (∃ w, t.th.wait = .faulted w ∧ w.extractLsb' 0 24 = 0 ∧ w.extractLsb' 24 16 = 1
          ∧ w.extractLsb' 40 5 = s.th.fcsr.extractLsb' 0 5 ||| s.th.resumeFlags ∧ w.extractLsb' 45 8 = code.zeroExtend 8)
      ∧ Instr.taskExitReport s.th.hwid ∈ t.pending
      ∧ ∃ r', t.launch? s.th.lrec = some r'
          ∧ r'.fcount = (if r.fcount = 0xFFFFFF then r.fcount else r.fcount + 1)
          ∧ (64 ≤ r.faults.length → r'.faults = r.faults)
          ∧ (r.faults.length < 64 → ∃ w0 w2 w3, r'.faults = r.faults ++ [[w0, tval, w2, w3]]
              ∧ w0.extractLsb' 48 7 = code ∧ w2.extractLsb' 0 17 = s.th.hwid)

/-- R42, R141 to R144, R398: YIELD with no request pending is a NOP, and at a boundary with one the task begins to stop with
s[a] kept; EXIT with nothing outstanding ends the task and reports; VREL makes its registers read 0; FENCEI waits for the
thread's stores and empties the I-cache of its pool; HOSTEV starts an operation with s[a] as the record's first word. -/
def Obligations.ThreadControlCompletes : Prop :=
  ∀ (s : State) (d a b : BitVec 6) (f : BitVec 1),
    (s.preemptPending s.th = false → ∃ t, exec (.yield a) s = .next t ∧ nothing s t)
    ∧ (s.preemptPending s.th = true → s.th.depth = 0 → s.th.anyPending = false → s.th.fork = none → s.th.repleft = 0 →
        exec (.yield a) s = .next { s with th := { s.th with wait := .stopping (s.rs a) },
                                           pending := s.pending ++ [.taskStop s.th.hwid] })
    ∧ (s.th.live = true → s.others = [] → s.th.ops = [] → s.th.held = [] → s.th.buf = [] → s.bellOut s.th.hwid 5 = false →
        s.th.refused = [] → s.th.fork = none →
        ∃ t, exec .exitTask s = .next t ∧ t.th.wait = .exiting ∧ t.th.instret = s.th.instret + 1
          ∧ t.pending = s.pending ++ [.taskExitReport s.th.hwid] ∧ t.mem = s.mem ∧ noRegs s.th t.th)
    ∧ (∃ t, exec (.vrel f a b) s = .next t ∧ restKept s t ∧ bare t.th = bare s.th ∧ released s.th t.th f a b)
    ∧ (s.th.storesOut = true ∨ s.beatsOut s.th.hwid = true → exec .fencei s = .next s)
    ∧ (s.th.storesOut = false → s.beatsOut s.th.hwid = false → ∃ t, exec .fencei s = .next t ∧ t.mem = s.mem ∧ bare t.th = bare s.th ∧ noRegs s.th t.th
        ∧ ∀ k, k ∈ t.caches.iblocks ↔ k ∈ s.caches.iblocks ∧ ¬ (k.die = dieOf s.th.hwid ∧ k.pool = poolOf s.th.hwid))
    ∧ ∃ t, exec (.syscHostev d a) s = .next t
        ∧ starts s t (.s d) 5 (.hostev (s.rs a)) [.hostevRecordAccept s.th.hwid s.th.opGen]

/-- R38, R39, R381, R382: FORKR writes the sub-range of its own thread to the pair s[d], s[d+1]: all of [0, s[a]) when no join
cell or no idle thread is to be had, else a P-th part, with each recruited thread started at the next word; JOINC of a thread
in no fork, or of an inner fork, gives 1, and of the last participant of a fork the number P of its participants. -/
def Obligations.ForksAndJoinsComplete : Prop :=
  ∀ (s : State) (d a b : BitVec 6), let n := (s.rs a).toNat
    let want := min ((n + max 1 (s.rs b).toNat - 1) / max 1 (s.rs b).toNat - 1) 63
    let hs := s.recruit s.th want ((recruitTree s.th.hwid).filter (· != s.th.hwid)) []
    let range (t : State) (hi : Nat) : Prop := t.th.getS d = ⟨0, 0⟩ ∧ t.th.getS (d + 1) = ⟨BitVec.ofNat 64 hi, 0⟩
      ∧ ∀ k, k ≠ d → k ≠ d + 1 → t.th.getS k = s.th.getS k
    (s.th.inShadow = false → s.th.anyPending = false → d ≠ 63 →
      (s.th.fork = none → s.freeJoin (dieOf s.th.hwid) (poolOf s.th.hwid) = none ∨ hs = [] →
        ∃ t, exec (.forkr d a b) s = .next t ∧ restKept s t ∧ bare t.th = bare s.th ∧ range t n)
      ∧ (s.th.fork.isSome → s.th.innerFork ≠ 0xFFFF →
        ∃ t, exec (.forkr d a b) s = .next t ∧ restKept s t ∧ range t n ∧ t.th.innerFork = s.th.innerFork + 1)
      ∧ (∀ c, s.th.live = true → s.th.fork = none → s.freeJoin (dieOf s.th.hwid) (poolOf s.th.hwid) = some c → hs ≠ [] →
        ∃ t, exec (.forkr d a b) s = .next t ∧ range t (n / (hs.length + 1))
          ∧ t.th.fork = some ⟨dieOf s.th.hwid, poolOf s.th.hwid, c, 0⟩
          ∧ (Memory.wf s.mem = true → s.caches.stashLines = [] → ∀ k, k < 2 ^ 52 → Memory.get t.mem k = Memory.get s.mem k)
          ∧ ∀ h ∈ hs, ∃ u ∈ t.others, u.hwid = h ∧ u.live = true ∧ u.pc = s.th.pc + 4 ∧ u.fork.isSome))
    ∧ (s.th.ops = [] → s.th.held = [] → s.th.buf = [] →
      (s.th.innerFork ≠ 0 → ∃ t, exec (.joinc d) s = .next t ∧ restKept s t ∧ scalarRegs s.th t.th d ⟨1, 0⟩
        ∧ t.th.innerFork = s.th.innerFork - 1)
      ∧ (s.th.innerFork = 0 → s.th.fork = none → ∃ t, exec (.joinc d) s = .next t ∧ scalarOnly s t d ⟨1, 0⟩)
      ∧ (∀ f j, s.th.live = true → s.th.innerFork = 0 → s.th.fork = some f →
        s.counters.joins.find? (fun x => x.die == f.die && x.pool == f.pool && x.cell == f.cell) = some j → j.count.toNat ≤ 1 →
        ∃ t, exec (.joinc d) s = .next t ∧ scalarRegs s.th t.th d ⟨BitVec.ofNat 64 j.parts.toNat, 0⟩ ∧ t.th.fork = none
          ∧ t.th.fcsr.extractLsb' 0 5 = s.th.fcsr.extractLsb' 0 5 ||| j.flags ∧ t.mem = s.mem))

namespace Sys2Proof.Claims

open Sys2Proof.Machine

/-- Nothing stands between the thread and memory: no copies, no mapped stash lines, no poisoned line, no failed sector, no
store that is still to be performed, no page that moves or is being freed, no request queued at a home, no layer asleep, no
transaction, answer or write-back under way for a line; and the memory has its canonical form. -/
def calm (s : State) : Prop :=
  s.caches.copies = [] ∧ s.caches.stashLines = [] ∧ s.caches.poison = [] ∧ s.caches.badSectors = [] ∧ s.caches.migrations = []
    ∧ (∀ g ∈ s.caches.appendPages, g.freeing = none ∧ g.queued = []) ∧ s.caches.homeQ = [] ∧ s.caches.txs = []
    ∧ s.layers = [] ∧ (∀ l, s.lineFree l = true) ∧ (∀ m r n b, .dataMsg m r n b ∉ s.pending) ∧ (∀ m k b, .putb m k b ∉ s.pending)
    ∧ (∀ m, .poisonMsg m ∉ s.pending)
    ∧ s.th.held = [] ∧ s.th.buf = [] ∧ s.th.lag = false ∧ Memory.wf s.mem = true

/-- The `n` bytes at `x` lie in the job's space, within one 64 KiB unit that a thread's leases give with the rights, on the
NORMAL page `l` in HBM (R210 to R215). -/
def onNormalOf (s : State) (t : Thread) (x : Word) (n : Nat) (r w : Bool) (l : Leaf) : Prop :=
  x.toNat + n ≤ 0x800000000000 ∧ x.toNat % 65536 + n ≤ 65536 ∧ leased t.leases x.toNat r w = true
    ∧ s.leaf? t x.toNat = some l ∧ l.cls = 0 ∧ physOf (l.pa + x.toNat % l.size) = .hbm

/-- The same for the current thread. -/
def onNormal (s : State) (x : Word) (n : Nat) (r w : Bool) (l : Leaf) : Prop := onNormalOf s s.th x n r w l

/-- The physical address of a byte on a page. -/
def paOf (l : Leaf) (x : Word) : Nat := l.pa + x.toNat % l.size

/-- The little-endian number of the `n` bytes of memory at `k` (R5). -/
def numberAt (s : State) (k n : Nat) : Nat := ((List.range n).map (fun i => (Memory.get s.mem (k + i)).toNat * 256 ^ i)).sum

/-- Of all memory exactly the `n` bytes at `k` are written, with the low bytes of `v`, the lowest first (R5). -/
def writesNumber (s t : State) (k n v : Nat) : Prop :=
  ∀ j, Memory.get t.mem j = if k ≤ j ∧ j < k + n then BitVec.ofNat 8 (v / 256 ^ (j - k)) else Memory.get s.mem j

/-- Outside the current thread and memory nothing changes but the records of which pools and dies hold which lines, and the
counts of performance events (R222, R289 to R292, R387). -/
def holdersMove (s t : State) : Prop :=
  { t with th := s.th, mem := s.mem, counters := { t.counters with perf := s.counters.perf },
           caches := { t.caches with dir := s.caches.dir, dieF := s.caches.dieF, classF := s.caches.classF,
                                     copies := s.caches.copies } } = s

/-- The frame of a store: memory, the records of the lines it takes, and what retirement moves. -/
def memoryOnly (s t : State) : Prop := holdersMove s t ∧ bare t.th = bare s.th ∧ noRegs s.th t.th

/-- The frame of a load into scalar register `d`: its value, the records of the lines it takes, and what retirement moves;
every byte of memory is as it was. -/
def loadsS (s t : State) (d : BitVec 6) (x : SReg) : Prop :=
  holdersMove s t ∧ t.mem = s.mem ∧ bare t.th = bare s.th ∧ scalarRegs s.th t.th d x

/-- The same for vector register `d`. -/
def loadsV (s t : State) (d : BitVec 6) (x : VReg) : Prop :=
  holdersMove s t ∧ t.mem = s.mem ∧ bare t.th = bare s.th ∧ vectorRegs s.th t.th d x

/-- The scalar loads with their size in bytes and what they make of the number (R243). -/
def scalarLoads (d a : BitVec 6) (q o : BitVec 2) (i : BitVec 10) : List (Instr × Nat × (Nat → Word)) :=
  [ (.ldb d a q o i, 1, fun v => (BitVec.ofNat 8 v).signExtend 64), (.ldh d a q o i, 2, fun v => (BitVec.ofNat 16 v).signExtend 64),
    (.ldw d a q o i, 4, fun v => (BitVec.ofNat 32 v).signExtend 64), (.ldd d a q o i, 8, fun v => BitVec.ofNat 64 v),
    (.ldbu d a q o i, 1, fun v => BitVec.ofNat 64 v), (.ldhu d a q o i, 2, fun v => BitVec.ofNat 64 v),
    (.ldwu d a q o i, 4, fun v => BitVec.ofNat 64 v) ]

/-- The scalar stores with their size in bytes (R243). -/
def scalarStores (b a : BitVec 6) (q o : BitVec 2) (i : BitVec 10) : List (Instr × Nat) :=
  [ (.stb b a q o i, 1), (.sth b a q o i, 2), (.stw b a q o i, 4), (.std b a q o i, 8) ]

/-- The vector loads with the address of slot j (R246). -/
def vectorLoads (s : State) (d a b : BitVec 6) (k : BitVec 2) (p : BitVec 1) (q : BitVec 2) (i : BitVec 9) :
    List (Instr × (Nat → Word)) :=
  [ (.vld d a k p q i, fun j => s.rs a + BitVec.ofInt 64 (32 * s.th.imm 9 i + 4 * j)),
    (.vlds d a b k p q, fun j => s.rs a + BitVec.ofInt 64 (j * ((s.th.getV b).val.setWidth 32).toInt)),
    (.vgather d a b k p q, fun j => s.rs a + BitVec.ofInt 64 ((s.th.getV b).val.extractLsb' (32 * j) 32).toInt) ]

/-- The vector stores with the address of slot j (R246). -/
def vectorStores (s : State) (d a b : BitVec 6) (k q : BitVec 2) (i : BitVec 9) : List (Instr × (Nat → Word)) :=
  [ (.vst d a k q i, fun j => s.rs a + BitVec.ofInt 64 (32 * s.th.imm 9 i + 4 * j)),
    (.vsts d a b k q, fun j => s.rs a + BitVec.ofInt 64 (j * ((s.th.getV b).val.setWidth 32).toInt)),
    (.vscatter d a b k q, fun j => s.rs a + BitVec.ofInt 64 ((s.th.getV b).val.extractLsb' (32 * j) 32).toInt) ]

/-- The eight tail bits of slot j of a vector register (R105). -/
def tailOf (v : VReg) (j : Nat) : BitVec 8 := v.tail.extractLsb' (8 * j) 8

/-- What a vector store writes for slot j, with its flags: the F32 image rounded in the mode of FCSR (R90, R247). -/
def storedSlot (s : State) (v : VReg) (j : Nat) : Nat × Flags := F32.roundImg s.th.rm (v.elem 32 j) (v.etail 32 j)

/-- The flags of the active slots of a vector store together (R247). -/
def storedFlags (s : State) (v : VReg) (k : BitVec 2) : Flags :=
  ((List.range 8).filter (fun j => s.th.active k 32 j)).foldl (fun f j => f ||| (storedSlot s v j).2) 0

/-- Slot j of a vector register (R105). -/
def slot32 (v : VReg) (j : Nat) : BitVec 32 := v.val.extractLsb' (32 * j) 32

end Sys2Proof.Claims

/-- R238, R241, R243, R270, R271, R274, R315: a scalar load or store of an address that its size does not divide raises ALIGN.
A load of NORMAL memory completes with the extended number in s[d] and writes no byte; a store to NORMAL memory completes and
writes exactly its bytes. A checked load of any class whose bytes and homes are there completes with the bytes that class
gives, and waits otherwise; in shadow a checked store is held and no byte changes, else it is performed, or waits behind the
thread for a home that cannot take it. A release waits for the stores it covers. -/
def Obligations.ScalarMemoryAccess : Prop :=
  ∀ (s : State) (d a : BitVec 6) (q o : BitVec 2) (i : BitVec 10),
    (∀ p ∈ scalarLoads d a q o i, let n := p.2.1; let x := s.rs a + BitVec.ofInt 64 (n * s.th.imm 10 i)
      (s.orderWaits o x = true → exec p.1 s = .next s)
      ∧ (s.orderWaits o x = false →
        (x.toNat % n ≠ 0 → exec p.1 s = .next (trapped s 0x03 x))
        ∧ (∀ l, x.toNat % n = 0 → onNormal s x n true false l → calm s →
            ∃ t, exec p.1 s = .next t ∧ loadsS s t d ⟨p.2.2 (numberAt s (paOf l x) n), 0⟩)
        ∧ (∀ ps, s.checkAccess s.th x n n .load q = .ok ps → s.dataCheck s.th.agent ps false = .ok () →
          (s.loadWaits s.th ps = false → s.deviceWaits ps = false →
            ∃ t, exec p.1 s = .next t ∧ scalarRegs s.th t.th d ⟨p.2.2 (natOfBytes (s.readAll ps false).2), 0⟩
              ∧ t.mem = (s.readAll ps false).1.mem)
          ∧ (s.loadWaits s.th ps = true ∨ s.deviceWaits ps = true →
            exec p.1 s = .next (s.rouseHomes s.th.agent ps false)))
        ∧ ∀ c v, s.checkAccess s.th x n n .load q = .error (c, v) → exec p.1 s = .next (trapped s c v)))
    ∧ ∀ p ∈ scalarStores d a q o i, let n := p.2; let x := s.rs a + BitVec.ofInt 64 (n * s.th.imm 10 i)
      (s.orderWaits o x = true → exec p.1 s = .next s)
      ∧ (s.orderWaits o x = false →
        (x.toNat % n ≠ 0 → exec p.1 s = .next (trapped s 0x03 x))
        ∧ (∀ l, x.toNat % n = 0 → onNormal s x n false true l → calm s → s.th.inShadow = false →
            ∃ t, exec p.1 s = .next t ∧ memoryOnly s t ∧ writesNumber s t (paOf l x) n (s.rs d).toNat)
        ∧ (∀ ps, s.checkAccess s.th x n n .store q = .ok ps → let ws := spread ps (bytesOfNat n (s.rs d).toNat)
          (s.th.inShadow = true → ∃ t, exec p.1 s = .next t ∧ noRegs s.th t.th ∧ t.mem = s.mem
            ∧ t.th.held = s.th.held ++ [s.storeOf ws false] ∧ t.th.buf = s.th.buf)
          ∧ (s.th.inShadow = false → s.dataCheck s.th.agent ps true = .ok () →
            ∃ t, exec p.1 s = .next t ∧ noRegs s.th t.th ∧ t.th.held = s.th.held
              ∧ (s.storeLags s.th ws = true → t.mem = s.mem ∧ t.th.buf = s.th.buf ++ [s.storeOf ws false])
              ∧ (s.storeLags s.th ws = false → t.mem = (s.perform s.th ws).mem ∧ t.th.buf = s.th.buf)))
        ∧ ∀ c v, s.checkAccess s.th x n n .store q = .error (c, v) → exec p.1 s = .next (trapped s c v))

/-- R244, R245: FLD puts the raw bits of its format in s[d] with tail 00; LDT and VLDT take a value with its tails from a
record of 16 or 40 bytes, and on NORMAL memory each completes and changes nothing else. FST rounds the image of s[b] to its
format, stores it and accumulates its flags, or raises FPTRAP with nothing stored when a flag is enabled; STT and VSTT write a
record of 16 or 40 bytes; each writes exactly its bytes. -/
def Obligations.FormatAndTailMemoryAccess : Prop :=
  ∀ (s : State) (d a : BitVec 6) (q : BitVec 2) (l : Leaf), calm s →
    (∀ (f : BitVec 4) (i : BitVec 8), Instr.check (.fld d a f q i) = none → let n := fmtBytes f
      let x := s.rs a + BitVec.ofInt 64 (n * s.th.imm 8 i)
      x.toNat % n = 0 → onNormal s x n true false l →
        ∃ t, exec (.fld d a f q i) s = .next t ∧ loadsS s t d ⟨BitVec.ofNat 64 (numberAt s (paOf l x) n), 0⟩)
    ∧ (∀ (i : BitVec 14), let x := s.rs a + BitVec.ofInt 64 (s.th.imm 14 i)
      x.toNat % 16 = 0 → onNormal s x 16 true false l →
        ∃ t, exec (.ldt d a i) s = .next t
          ∧ loadsS s t d ⟨BitVec.ofNat 64 (numberAt s (paOf l x) 8), Memory.get s.mem (paOf l x + 8)⟩)
    ∧ (let x := s.rs a
      x.toNat % 8 = 0 → d.toNat < 48 → onNormal s x 40 true false l →
        ∃ t, exec (.vldt d a q) s = .next t
          ∧ loadsV s t d ⟨BitVec.ofNat 256 (numberAt s (paOf l x) 32), BitVec.ofNat 64 (numberAt s (paOf l x + 32) 8)⟩)
    ∧ (s.th.inShadow = false →
      (∀ (f : BitVec 4) (m : BitVec 3) (i : BitVec 7), Instr.check (.fst d a f m i) = none → let n := fmtBytes f
        let x := s.rs a + BitVec.ofInt 64 (n * s.th.imm 7 i)
        let r := (fmtOf f).roundImg (rmOf m s.th.rm) (imgS (s.th.getS d)).1 (imgS (s.th.getS d)).2
        x.toNat % n = 0 → onNormal s x n false true l →
          (r.2 &&& s.th.enables = 0 → ∃ t, exec (.fst d a f m i) s = .next t ∧ holdersMove s t ∧ noRegs s.th t.th
              ∧ { bare t.th with fcsr := s.th.fcsr } = bare s.th
              ∧ writesNumber s t (paOf l x) n r.1 ∧ t.th.fcsr = s.th.fcsr ||| r.2.zeroExtend 64)
          ∧ (r.2 &&& s.th.enables ≠ 0 → exec (.fst d a f m i) s = .next (trapped s 0x09 (r.2.zeroExtend 64))))
      ∧ (∀ (i : BitVec 14), let x := s.rs a + BitVec.ofInt 64 (s.th.imm 14 i)
        x.toNat % 16 = 0 → onNormal s x 16 false true l →
          ∃ t, exec (.stt d a i) s = .next t ∧ memoryOnly s t
            ∧ writesNumber s t (paOf l x) 16 ((s.th.getS d).val.toNat + (s.th.getS d).tail.toNat * 2 ^ 64))
      ∧ (let x := s.rs a
        x.toNat % 8 = 0 → onNormal s x 40 false true l →
          ∃ t, exec (.vstt d a q) s = .next t ∧ memoryOnly s t
            ∧ writesNumber s t (paOf l x) 40 ((s.th.getV d).val.toNat + (s.th.getV d).tail.toNat * 2 ^ 256)))

/-- R53, R238, R246 to R248: a vector load whose active slots all lie word-aligned on NORMAL pages completes: slot j of v[d]
takes its word with tail 00 where the mask makes it active, and keeps its value and its tails, or becomes all ones with tail 00
elsewhere; nothing else changes. A vector store completes there too: each word of memory holds the highest active slot stored
to it, rounded from its image with its tail, the flags accumulate, and every other byte of memory is unchanged; with an enabled
flag in any active slot it raises FPTRAP and stores none. Of values without tails it stores the bits as they are. -/
def Obligations.VectorMemoryAccess : Prop :=
  ∀ (s : State) (d a b : BitVec 6) (k q : BitVec 2) (m : BitVec 1) (i : BitVec 9) (l : Nat → Leaf), calm s →
    let act (j : Nat) : Prop := j < 8 ∧ s.th.active k 32 j = true
    (d.toNat < 48 → ∀ p ∈ vectorLoads s d a b k m q i,
      (∀ j, act j → (p.2 j).toNat % 4 = 0 ∧ onNormal s (p.2 j) 4 true false (l j)) →
      ∃ t w, exec p.1 s = .next t ∧ loadsV s t d w ∧ ∀ j, j < 8 →
        (slot32 w j = if s.th.active k 32 j = true then BitVec.ofNat 32 (numberAt s (paOf (l j) (p.2 j)) 4)
          else if m = 0 then slot32 (s.th.getV d) j else BitVec.allOnes 32)
        ∧ tailOf w j = if s.th.active k 32 j = false ∧ m = 0 then tailOf (s.th.getV d) j else 0)
    ∧ (s.th.inShadow = false → let v := s.th.getV d; let fl := storedFlags s v k
      ∀ p ∈ vectorStores s d a b k q i,
      (∀ j, act j → (p.2 j).toNat % 4 = 0 ∧ onNormal s (p.2 j) 4 false true (l j)) →
      (fl &&& s.th.enables = 0 → ∃ t, exec p.1 s = .next t ∧ holdersMove s t ∧ noRegs s.th t.th
        ∧ { bare t.th with fcsr := s.th.fcsr } = bare s.th ∧ t.th.fcsr = s.th.fcsr ||| fl.zeroExtend 64
        ∧ (∀ j, act j → (∀ j', j < j' → act j' → paOf (l j') (p.2 j') ≠ paOf (l j) (p.2 j)) →
            numberAt t (paOf (l j) (p.2 j)) 4 = (storedSlot s v j).1 % 2 ^ 32)
        ∧ ∀ z, (∀ j, act j → ¬ (paOf (l j) (p.2 j) ≤ z ∧ z < paOf (l j) (p.2 j) + 4)) →
            Memory.get t.mem z = Memory.get s.mem z)
      ∧ (fl &&& s.th.enables ≠ 0 → exec p.1 s = .next (trapped s 0x09 (fl.zeroExtend 64))))
    ∧ (s.th.inShadow = false → (s.th.getV d).tail = 0 → ∀ p ∈ vectorStores s d a b k q i,
      (∀ j, act j → (p.2 j).toNat % 4 = 0 ∧ onNormal s (p.2 j) 4 false true (l j)) →
      ∃ t, exec p.1 s = .next t ∧ memoryOnly s t
        ∧ (∀ j, act j → (∀ j', j < j' → act j' → paOf (l j') (p.2 j') ≠ paOf (l j) (p.2 j)) →
            numberAt t (paOf (l j) (p.2 j)) 4 = (slot32 (s.th.getV d) j).toNat)
        ∧ ∀ z, (∀ j, act j → ¬ (paOf (l j) (p.2 j) ≤ z ∧ z < paOf (l j) (p.2 j) + 4)) →
            Memory.get t.mem z = Memory.get s.mem z)
namespace Sys2Proof.Claims

open Sys2Proof.Machine

/-- A number of `n` bytes read as signed. -/
def signedOf (n : Nat) (x : Nat) : Int := if x < 2 ^ (8 * n - 1) then x else (x : Int) - 2 ^ (8 * n)

/-- The AMOs with the number they leave, from the old number, the operand and, for AMOCAS, the number compared with (R249). -/
def amos (d a b : BitVec 6) (w : BitVec 1) (sc : BitVec 3) (n : Nat) : List (Instr × (Nat → Nat → Nat → Nat)) :=
  [ (.amoadd d a b w sc, fun o v _ => (o + v) % 2 ^ (8 * n)),
    (.amoand d a b w sc, fun o v _ => o &&& v),
    (.amoor d a b w sc, fun o v _ => o ||| v),
    (.amoxor d a b w sc, fun o v _ => o ^^^ v),
    (.amomin d a b w sc, fun o v _ => if signedOf n o ≤ signedOf n v then o else v),
    (.amomax d a b w sc, fun o v _ => if signedOf n v ≤ signedOf n o then o else v),
    (.amominu d a b w sc, fun o v _ => min o v),
    (.amomaxu d a b w sc, fun o v _ => max o v),
    (.amoswap d a b w sc, fun _ v _ => v),
    (.amocas d a b w sc, fun o v c => if o = c then v else o) ]

/-- Registers n and n + 1 take `lo` and `hi`; s0 keeps its zero (R106, R251). -/
def pairRegs (t u : Thread) (n : BitVec 6) (lo hi : SReg) : Prop :=
  (∀ k, u.getS k = if k = 0 then ⟨0, 0⟩ else if k = n + 1 then hi else if k = n then lo else t.getS k)
    ∧ ∀ k, u.getV k = t.getV k

/-- The number of a register pair, its first register the lower half (R251). -/
def pairOf (s : State) (n : BitVec 6) : Nat := (s.rs n).toNat + (s.rs (n + 1)).toNat * 2 ^ 64

/-- The instruction is shipped (R305, R306): one guest packet with the word and the slots leaves for the B-core SHIPTO names,
the destination becomes pending, the ship sequence goes up by one, and nothing else changes but what retirement moves. -/
def ships (s t : State) (dst : Dst) (trapcap : Bool) (word : BitVec 32) (slots : List Slot) : Prop :=
  ∃ p : GuestPkt, p.hwid = s.th.hwid ∧ p.insn = word ∧ p.trapcap = trapcap ∧ p.enables = s.th.enables ∧ p.rm = s.th.rm
    ∧ p.shadow = s.th.inShadow ∧ p.seq = s.th.shipSeq ∧ p.asid = s.th.asid ∧ p.lrec = s.th.lrec ∧ p.slots = slots
    ∧ t.pending = s.pending ++ [.guestPacket (s.th.shipto.extractLsb' 0 9) p]
    ∧ (∃ o : Op, t.th.ops = s.th.ops ++ [o] ∧ o.dst = dst ∧ o.seq = s.th.shipSeq ∧ o.trapcap = trapcap ∧ o.kind = .ship p)
    ∧ t.th.shipSeq = s.th.shipSeq + 1 ∧ noRegs s.th t.th
    ∧ { bare t.th with ops := s.th.ops, opGen := s.th.opGen, shipSeq := s.th.shipSeq } = bare s.th
    ∧ { t with th := s.th, pending := s.pending } = s

/-- The word of an instruction, as spec/06 encodes it. -/
def wordOf (i : Instr) : BitVec 32 := BitVec.ofNat 32 ((encodeNat i).getD 0)

/-- The wide atomics with their sizes and destinations (R251). -/
def wides (d a b : BitVec 6) (sc : BitVec 3) : List (Instr × Nat × Dst) :=
  [ (.cas2 d a b sc, 16, .pair d), (.swap2 d a b sc, 16, .pair d), (.faddaF d a b sc, 4, .s d), (.faddaD d a b sc, 8, .s d),
    (.vamoadd d a b sc, 32, .v d) ]

end Sys2Proof.Claims

/-- R249, R250: an AMO takes the old number of the aligned object at s[a], leaves the number of its operation there, gives the
old one, sign-extended, in s[d], and changes no other byte and no other register; AMOCAS that does not match leaves the object
as it was. A misaligned object raises ALIGN, and a refused access its cause with nothing changed. While a store that its
release covers, an own store to its bytes or a home holds it, it waits. -/
def Obligations.AtomicsTakeTheOldValue : Prop :=
  ∀ (s : State) (d a b : BitVec 6) (w : BitVec 1) (sc : BitVec 3), let n := if w = 0 then 4 else 8; let x := s.rs a
    ∀ c p, (amos d a b w sc n)[c]? = some p →
      (x.toNat % n ≠ 0 → exec p.1 s = .next (trapped s 0x03 x))
      ∧ (∀ l, x.toNat % n = 0 → onNormal s x n true true l → calm s →
          (sc = 0 ∨ s.coveredOut s.th (some (objOf x)) = false) → let old := numberAt s (paOf l x) n
          ∃ t, exec p.1 s = .next t ∧ holdersMove s t ∧ bare t.th = bare s.th
            ∧ scalarRegs s.th t.th d ⟨BitVec.ofInt 64 (signedOf n old), 0⟩
            ∧ writesNumber s t (paOf l x) n (p.2 old ((s.rs b).toNat % 2 ^ (8 * n)) ((s.rs d).toNat % 2 ^ (8 * n))))
      ∧ (∀ ps, s.checkAccess s.th x n n .amo s.th.hrq = .ok ps → s.dataCheck s.th.agent ps false = .ok () →
          let at_ := ps.map (fun p => p.atomic (dieOf s.th.hwid))
          s.atomWaits s.th at_ sc x = true → exec p.1 s = .next (s.rouseAmo s.th.agent c n (s.rs b).toNat (s.rs d).toNat at_))
      ∧ ∀ e v, s.checkAccess s.th x n n .amo s.th.hrq = .error (e, v) → exec p.1 s = .next (trapped s e v)

/-- R251, R252, R305: an L-core ships a wide atomic, trap-capable; a native thread performs it on the aligned object: CAS2 and
SWAP2 give the old pair, VAMOADD adds slot by slot and gives the old vector, FADDA stores the rounded sum, or raises FPTRAP
with nothing stored when it sets an enabled flag; no other byte and no other register changes. -/
def Obligations.WideAtomicsShipOrPerform : Prop :=
  ∀ (s : State) (d a b : BitVec 6) (sc : BitVec 3) (l : Leaf), let x := s.rs a
    (isB s.th.hwid = false → ∀ p ∈ wides d a b sc, Instr.check p.1 = none →
      ∃ t slots, exec p.1 s = .next t ∧ ships s t p.2.2 true (wordOf p.1) slots ∧ slots.length = 2
        ∧ slots.head? = some (.scalar (s.th.getS a)))
    ∧ (isB s.th.hwid = true → ∀ p ∈ wides d a b sc, x.toNat % p.2.1 ≠ 0 → exec p.1 s = .next (trapped s 0x03 x))
    ∧ (isB s.th.hwid = true → calm s → (sc = 0 ∨ s.coveredOut s.th (some (objOf x)) = false) →
      (x.toNat % 16 = 0 → onNormal s x 16 true true l →
        let old := numberAt s (paOf l x) 16; let lo : SReg := ⟨BitVec.ofNat 64 old, 0⟩
        let hi : SReg := ⟨BitVec.ofNat 64 (old / 2 ^ 64), 0⟩
        (∃ t, exec (.cas2 d a b sc) s = .next t ∧ holdersMove s t ∧ bare t.th = bare s.th ∧ pairRegs s.th t.th d lo hi
          ∧ writesNumber s t (paOf l x) 16 (if old = pairOf s d then pairOf s b else old))
        ∧ ∃ t, exec (.swap2 d a b sc) s = .next t ∧ holdersMove s t ∧ bare t.th = bare s.th ∧ pairRegs s.th t.th d lo hi
          ∧ writesNumber s t (paOf l x) 16 (pairOf s b))
      ∧ (x.toNat % 32 = 0 → d.toNat < 48 → onNormal s x 32 true true l →
        ∃ t, exec (.vamoadd d a b sc) s = .next t ∧ holdersMove s t ∧ bare t.th = bare s.th
          ∧ vectorRegs s.th t.th d ⟨BitVec.ofNat 256 (numberAt s (paOf l x) 32), 0⟩
          ∧ (∀ j, j < 8 → numberAt t (paOf l x + 4 * j) 4
              = (numberAt s (paOf l x + 4 * j) 4 + (slot32 (s.th.getV b) j).toNat) % 2 ^ 32)
          ∧ ∀ k, ¬ (paOf l x ≤ k ∧ k < paOf l x + 32) → Memory.get t.mem k = Memory.get s.mem k)
      ∧ ∀ p ∈ [(Instr.faddaF d a b sc, 4, F32), (.faddaD d a b sc, 8, F64)],
        x.toNat % p.2.1 = 0 → onNormal s x p.2.1 true true l →
        let old := numberAt s (paOf l x) p.2.1; let r := faddaSum p.2.2 s.th.rm old (imgS (s.th.getS b))
        (r.2 &&& s.th.enables = 0 → ∃ t, exec p.1 s = .next t ∧ holdersMove s t
          ∧ { bare t.th with fcsr := s.th.fcsr } = bare s.th ∧ scalarRegs s.th t.th d ⟨BitVec.ofNat 64 old, 0⟩
          ∧ t.th.fcsr = s.th.fcsr ||| r.2.zeroExtend 64 ∧ writesNumber s t (paOf l x) p.2.1 r.1)
        ∧ (r.2 &&& s.th.enables ≠ 0 → ∃ u, holdersMove s u ∧ u.th = s.th ∧ u.mem = s.mem
            ∧ exec p.1 s = .next (trapped u 0x09 (r.2.zeroExtend 64))))

/-- R232, R253, R255, R256, R303, R398: an append or a seal whose page passes its checks starts an operation and sends it to
the page's home, with the bytes of s[b] or v[b]; TAILQ gives the sealed bit, the bytes done and the bytes reserved of the page,
behind the thread's own earlier appends and seals there and in its turn at the home, where it takes a place if it must wait;
a page that is refused raises the cause. SYSC FREE of a leased, aligned SEALED page starts an operation that the page's release
will fill, and marks the page as being freed, with a shootdown to every base die unless one is under way; a home that sleeps is
woken first. No byte of memory changes. -/
def Obligations.AppendSealAndFreeStart : Prop :=
  ∀ (s : State) (d a b : BitVec 6), let x := s.rs a
    let pageOf (ps : List Place) : BitVec 36 := pageNo (ps.headD ⟨0, 0, 0, 0, 0, 0⟩).key
    let pteOf : BitVec 52 := ((s.leaf? s.th x.toNat).map (·.pte)).getD 0
    (∀ ps, s.checkUnit s.th x 1 .append 0 = .ok ps →
      ∀ p ∈ [(Instr.appendW d a b, bytesOfNat 4 (s.rs b).toNat), (.appendD d a b, bytesOfNat 8 (s.rs b).toNat),
             (.appendv d a b, bytesOfNat 32 (s.th.getV b).val.toNat)],
        ∃ t, exec p.1 s = .next t
          ∧ starts s t (.s d) 5 (.append x (pageOf ps) p.2) [.appendArrival s.th.hwid s.th.opGen])
    ∧ (∀ ps, s.checkUnit s.th x 1 .sealing 0 = .ok ps →
        ∃ t, exec (.sealPage d a) s = .next t
          ∧ starts s t (.s d) 5 (.sealOp x (pageOf ps) pteOf) [.sealArrival s.th.hwid s.th.opGen])
    ∧ (∀ ps, s.checkUnit s.th x 1 .tailq 0 = .ok ps → let g := s.pageRec (pageOf ps) pteOf
        let at_ := lineOf (ps.headD ⟨0, 0, 0, 0, 0, 0⟩).key; let home := s.homeOf (BitVec.ofNat 52 at_)
        let who : Option Waiter := some (.core s.th.hwid)
        (s.appendsOut s.th (pageOf ps) = true → exec (.tailq d a) s = .next s)
        ∧ (s.appendsOut s.th (pageOf ps) = false → s.homeHolds who false at_ home = true → exec (.tailq d a) s
            = .next (s.queueUp ⟨.getu ⟨BitVec.ofNat 52 at_, dieOf s.th.hwid, poolOf s.th.hwid, 3, 0⟩, who⟩ at_ home))
        ∧ (s.appendsOut s.th (pageOf ps) = false → s.homeHolds who false at_ home = false →
          ∃ t w, exec (.tailq d a) s = .next t ∧ (s.noTickets = true → restKept s t) ∧ t.mem = s.mem ∧ bare t.th = bare s.th
            ∧ scalarRegs s.th t.th d ⟨w, 0⟩ ∧ w.getLsbD 63 = g.isSealed
            ∧ w.extractLsb' 32 17 = g.done ∧ w.extractLsb' 0 17 = if g.isSealed then g.done else g.reserve))
    ∧ (∀ c v, (s.checkUnit s.th x 1 .append 0 = .error (c, v) →
          exec (.appendW d a b) s = .next (trapped s c v) ∧ exec (.appendD d a b) s = .next (trapped s c v)
            ∧ exec (.appendv d a b) s = .next (trapped s c v))
        ∧ (s.checkUnit s.th x 1 .sealing 0 = .error (c, v) → exec (.sealPage d a) s = .next (trapped s c v))
        ∧ (s.checkUnit s.th x 1 .tailq 0 = .error (c, v) → exec (.tailq d a) s = .next (trapped s c v)))
    ∧ ∀ l, x.toNat % 65536 = 0 → x.toNat < 0x800000000000 → leased s.th.leases x.toNat true true = true →
      s.leaf? s.th x.toNat = some l → l.cls = 3 →
      let g := s.pageRec (pageNo l.pa) l.pte
      (isHbm (BitVec.ofNat 52 l.pa) = true → s.awake l.home = false → exec (.syscFree d a) s = .next (s.rouse l.home))
      ∧ ((isHbm (BitVec.ofNat 52 l.pa) = true → s.awake l.home = true) → ∃ t, exec (.syscFree d a) s = .next t
        ∧ starts s t (.s d) 5 (.free (pageNo l.pa) l.pte)
            (if g.freeing.isSome then [] else (List.range 8).map (fun k => .shootdownMessage (pageNo l.pa) (BitVec.ofNat 3 k)))
        ∧ (t.pageRec (pageNo l.pa) l.pte).freeing.isSome
        ∧ (t.pageRec (pageNo l.pa) l.pte).frees = g.frees ++ [(s.th.hwid, s.th.opGen)])
namespace Sys2Proof.Claims

open Sys2Proof.Machine

/-- A copy of the die's own that a range of a thread's addresses holds (R226, R257). -/
def inRangeOf (s : State) (n : Nat) (x : Word) (c : DieCopy) : Prop :=
  c.die = dieOf s.th.hwid ∧ s.regionHolds s.th x.toNat n c.line.toNat = true

/-- An unrecorded copy of a line in the thread's own pool (R222). -/
def ownCopy (s : State) (c : LineCopy) : Prop :=
  c.isConst = false ∧ c.die = dieOf s.th.hwid ∧ c.pool = poolOf s.th.hwid

/-- An operation that completes as it issues (R281, R335): its generation is taken, its register holds `x`, and nothing else of
the thread changes but what retirement moves. -/
def filledAtIssue (s t : State) (d : BitVec 6) (x : Word) : Prop :=
  t.th.opGen = s.th.opGen + 1 ∧ { bare t.th with opGen := s.th.opGen } = bare s.th ∧ scalarRegs s.th t.th d ⟨x, 0⟩

/-- Nothing changes outside the current thread, memory, the caches with the fills under way to them, and the counts of
performance events. -/
def cachesAndMemory (s t : State) : Prop :=
  { t with th := s.th, mem := s.mem, caches := s.caches, pending := s.pending,
           counters := { t.counters with perf := s.counters.perf } } = s ∧ ∀ e ∈ t.pending, e ∈ s.pending

/-- The PUTB that takes the dirty bytes of a die copy home (R226, R293). -/
def putbOf (s : State) (c : DieCopy) : Instr := .putb ⟨c.line, c.die, 31, 1, s.th.shipSeq⟩ c.dirty c.bytes

/-- WBR and WBINVR of NORMAL lines (R257): those that the thread's pool owns in the range stay valid and are dirty no more. -/
def ownedCleaned (s t : State) (n : Nat) (x : Word) : Prop :=
  t.caches.classF = s.caches.classF.map (fun f =>
    if f.die = dieOf s.th.hwid ∧ f.pool = poolOf s.th.hwid ∧ f.stash = false ∧ s.regionHolds s.th x.toNat n f.line.toNat = true then
      { f with dirty := false } else f)

/-- The copies that go are those of the thread's own pool whose line meets a condition. -/
def discards (s t : State) (f : Nat → Prop) : Prop :=
  ∀ c, c ∈ t.caches.copies ↔ c ∈ s.caches.copies ∧ ¬ (ownCopy s c ∧ f c.line.toNat)

/-- The stash lines of the thread's pool that a range of the stash window meets (R259). -/
def flushed (s : State) (x n : Nat) (r : StashLine) : Prop :=
  0 < n ∧ r.die = dieOf s.th.hwid ∧ r.pool = poolOf s.th.hwid ∧ x - 0x800000000000 < r.off.toNat + 64
    ∧ r.off.toNat < x - 0x800000000000 + n

/-- The bell writes with a destination, and their beat codes (R265, R327). -/
def bellAtomics (d a b : BitVec 6) : List (Instr × BitVec 4) :=
  [ (.bamoAdd d a b, 1), (.bamoMax d a b, 2), (.bamoOr d a b, 3), (.bamoSwap d a b, 4) ]

/-- One more beat in the send queue of the thread's layer and partition, and the send logic of its stack to turn (R328). -/
def beats (s t : State) (op : BitVec 4) (word : BitVec 17) (value : Word) : Prop :=
  let q := s.bellQueue (dieOf s.th.hwid) s.th.part
  (∃ b : Beat, b.op = op ∧ b.word = word ∧ b.value = value ∧ b.hwid = s.th.hwid
      ∧ t.bellQueue (dieOf s.th.hwid) s.th.part = q ++ [b])
    ∧ (∀ d p, d ≠ dieOf s.th.hwid ∨ p ≠ s.th.part → t.bellQueue d p = s.bellQueue d p)
    ∧ t.pending = s.pending ++ [.bellSlot (stackOf (dieOf s.th.hwid))]
    ∧ { t with th := s.th, pending := s.pending, queues := s.queues } = s

end Sys2Proof.Claims

/-- R226, R257, R260: a range instruction of zero bytes completes with 0 and changes nothing else. Of a leased range INVR drops
the die's copies of its lines and the pool's unrecorded ones with memory as it was. WBR sends the dirty bytes of the die's copies
home and leaves them clean, WBINVR drops them too; the operation goes on until every home has merged its line, and then fills
s[d] with 0, at once where the die has nothing to write back; the pool's owned lines stay, dirty no more. A PUTB on its way for
the range makes them wait. LINEZ zeroes its lines. PREF never faults: it asks for a readable line, or does nothing. A range that
is refused raises its cause. That NORMAL lines have no bytes of their own to write back, and that LINEZ, INVR and a range with
nothing to send fill s[d] as they issue, is the model's reading (log entry 82). -/
def Obligations.RangesReachTheDieCopies : Prop :=
  ∀ (s : State) (d a b : BitVec 6) (sc : BitVec 3), let x := s.rs a; let n := (s.rs b).toNat
    let all : List Instr := [.wbr d a b sc, .invr d a b sc, .wbinvr d a b sc]
    let kept (t : State) : Prop := cachesAndMemory s t ∧ filledAtIssue s t d 0
    let dirty (c : DieCopy) : Prop := c ∈ s.caches.dieCopies ∧ inRangeOf s n x c ∧ c.dirty ≠ 0
    let holds (l : Nat) : Prop := s.regionHolds s.th x.toNat n l = true
    (n = 0 → ∀ i ∈ all, ∃ t, exec i s = .next t ∧ restKept s t ∧ filledAtIssue s t d 0)
    ∧ (n = 0 → x.toNat % 64 = 0 → ∃ t, exec (.linez d a b) s = .next t ∧ restKept s t ∧ filledAtIssue s t d 0)
    ∧ (x.toNat % 64 ≠ 0 → exec (.linez d a b) s = .next (trapped s 0x03 x))
    ∧ (x.toNat % 64 = 0 → n % 64 ≠ 0 → exec (.linez d a b) s = .next (trapped s 0x03 (s.rs b)))
    ∧ (n ≠ 0 → s.th.buf = [] → s.rangeCheck s.th true false (fun _ => none) x.toNat n = .ok () →
        ∃ t, exec (.invr d a b sc) s = .next t ∧ kept t ∧ t.mem = s.mem ∧ discards s t holds
          ∧ ∀ c, c ∈ t.caches.dieCopies ↔ c ∈ s.caches.dieCopies ∧ ¬ inRangeOf s n x c)
    ∧ (n ≠ 0 → s.th.buf = [] → s.putbIn s.th x.toNat n = false → (∀ c, ¬ dirty c) →
        s.rangeCheck s.th true true (fun _ => none) x.toNat n = .ok () →
        (∃ t, exec (.wbr d a b sc) s = .next t ∧ kept t ∧ t.mem = s.mem ∧ ownedCleaned s t n x
          ∧ t.caches.copies = s.caches.copies ∧ t.caches.dieCopies = s.caches.dieCopies)
        ∧ ∃ t, exec (.wbinvr d a b sc) s = .next t ∧ kept t ∧ t.mem = s.mem ∧ discards s t holds
          ∧ ((∀ c ∈ s.caches.dieCopies, ¬ inRangeOf s n x c) → ownedCleaned s t n x)
          ∧ ∀ c, c ∈ t.caches.dieCopies ↔ c ∈ s.caches.dieCopies ∧ ¬ inRangeOf s n x c)
    ∧ (∀ c, n ≠ 0 → s.th.buf = [] → s.putbIn s.th x.toNat n = false → dirty c →
        s.rangeCheck s.th true true (fun _ => none) x.toNat n = .ok () →
        ∀ i ∈ [Instr.wbr d a b sc, .wbinvr d a b sc], ∃ t o ls, exec i s = .next t ∧ t.mem = s.mem ∧ noRegs s.th t.th
          ∧ t.th.ops = s.th.ops ++ [o] ∧ o.gen = s.th.opGen ∧ o.dst = .s d ∧ o.scope = sc ∧ o.kind = .range ls
          ∧ t.th.opGen = s.th.opGen + 1 ∧ { bare t.th with ops := s.th.ops, opGen := s.th.opGen } = bare s.th
          ∧ (∀ l, l ∈ ls.map (·.1) ↔ ∃ e, dirty e ∧ e.line = l)
          ∧ (∀ e, dirty e → putbOf s e ∈ t.pending)
          ∧ (∀ e ∈ t.pending, e ∈ s.pending ∨ ∃ c, dirty c ∧ e = putbOf s c)
          ∧ (∀ e ∈ t.caches.dieCopies, inRangeOf s n x e → i = .wbr d a b sc ∧ e.dirty = 0)
          ∧ { t with th := s.th, caches := s.caches, pending := s.pending } = s)
    ∧ (n ≠ 0 → s.rangeCheck s.th true true (fun _ => none) x.toNat n = .ok () →
        s.th.buf ≠ [] ∨ s.putbIn s.th x.toNat n = true →
        exec (.wbr d a b sc) s = .next s ∧ exec (.wbinvr d a b sc) s = .next s)
    ∧ (∀ (m : CohMsg) (r : Bool) (o : Op) (v : Word), m.rq ≠ 0 → s.th.live = true → s.th.hwid ≠ orphanId → s.th.wait = .none →
        dieOf s.th.hwid = m.die →
        s.putbOut m.die m.line = false → s.rangesOn m.die m.line = [(s.th, o)] → s.th.ops = [o] → o.kind = .range [(m.line, v)] →
        o.dst = .s d → d ≠ 0 → s.caches.homeQ = [] →
        ∃ t, exec (.ackMsg m false r) s = .next t ∧ t.th.getS d = ⟨0, 0⟩ ∧ t.th.ops = [] ∧ t.mem = s.mem)
    ∧ (∀ l, n ≠ 0 → x.toNat % 64 = 0 → n % 64 = 0 → onNormal s x n false true l → l.size % 65536 = 0 →
        (∀ j, j < n → s.leaf? s.th (x.toNat + j) = some l) → calm s →
        ∃ t, exec (.linez d a b) s = .next t ∧ holdersMove s t ∧ filledAtIssue s t d 0 ∧ writesNumber s t (paOf l x) n 0)
    ∧ (∀ l, onNormal s x 1 true false l → (s.rs b).getLsbD 0 = false →
        let asks : Prop := s.th.agent.l1 = true ∧ s.poolServes s.th.agent (lineOf (paOf l x)) 2 false = false
        (asks → ∃ t m, exec (.pref a b) s = .next t ∧ { t with th := s.th, pending := s.pending } = s ∧ bare t.th = bare s.th
          ∧ noRegs s.th t.th ∧ t.pending = s.pending ++ [.geti m] ∧ m.line = BitVec.ofNat 52 (lineOf (paOf l x))
          ∧ m.die = dieOf s.th.hwid ∧ m.pool = poolOf s.th.hwid ∧ m.rq = 2)
        ∧ (¬ asks → ∃ t, exec (.pref a b) s = .next t ∧ nothing s t))
    ∧ (leased s.th.leases x.toNat true false = false → ∃ t, exec (.pref a b) s = .next t ∧ nothing s t)
    ∧ ∀ c v, (n ≠ 0 → s.rangeCheck s.th true false (fun _ => none) x.toNat n = .error (c, v) →
          exec (.invr d a b sc) s = .next (trapped s c v))
        ∧ (n ≠ 0 → s.rangeCheck s.th true true (fun _ => none) x.toNat n = .error (c, v) →
          exec (.wbr d a b sc) s = .next (trapped s c v) ∧ exec (.wbinvr d a b sc) s = .next (trapped s c v))

/-- R220, R258, R259: STASHMAP of an aligned, leased, NORMAL range that meets no other entry of its pool, of which there are
fewer than 32, enters the map with its stash bytes zero; with length 0 it removes the entry of its offset; any other asks for
PERM with s[a]. STASHFLUSH leaves every mapped line it meets clean, writes a dirty one to its global line, and changes no other
byte of memory. PERM for bits [31:20] of s[b], before the other checks, is the model's choice (log entry 99), and that both fill
s[d] in the step that performs them its reading (log entry 82). -/
def Obligations.StashMapsAndFlushes : Prop :=
  ∀ (s : State) (d a b : BitVec 6) (sc : BitVec 3), let x := (s.rs a).toNat
    let o := ((s.rs b).extractLsb' 0 20).toNat; let n := ((s.rs b).extractLsb' 32 32).toNat
    let own (m : StashMap) : Bool := m.die == dieOf s.th.hwid && m.pool == poolOf s.th.hwid
    let good : Prop := x % 64 = 0 ∧ o % 64 = 0 ∧ n % 64 = 0 ∧ o + n ≤ poolB s.th.poolb1 ∧ s.mapClash s.th o n x = false
      ∧ (s.caches.stashMaps.filter own).length < 32
    let kept (t : State) : Prop := cachesAndMemory s t ∧ filledAtIssue s t d 0
    let ready : Prop := s.th.buf = [] ∧ ∀ l : BitVec 52, s.homeHolds none false l.toNat (s.homeOf l) = false
    ((s.rs b).extractLsb' 20 12 = 0 → n ≠ 0 → good → s.th.buf = [] → Memory.wf s.mem = true →
        s.rangeCheck s.th true true (fun c => if c = 0 then none else some 0x05) x n = .ok () →
        ∃ t m, exec (.stashmap d a b) s = .next t ∧ kept t
          ∧ t.caches.stashMaps = m :: s.caches.stashMaps ∧ own m = true ∧ m.off.toNat = o ∧ m.base = s.rs a ∧ m.len.toNat = n
          ∧ m.asid = s.th.asid ∧ ∀ k, let lo := stashKey (dieOf s.th.hwid) (poolOf s.th.hwid) o
              Memory.get t.mem k = if lo ≤ k ∧ k < lo + n then 0 else Memory.get s.mem k)
    ∧ ((s.rs b).extractLsb' 20 12 = 0 → n = 0 → ready → ∃ t, exec (.stashmap d a b) s = .next t ∧ kept t
        ∧ ((∀ m ∈ s.caches.stashMaps, own m = true → m.off.toNat ≠ o) → restKept s t)
        ∧ ∀ m, m ∈ t.caches.stashMaps ↔ m ∈ s.caches.stashMaps ∧ ¬ (own m = true ∧ m.off.toNat = o))
    ∧ ((s.rs b).extractLsb' 20 12 ≠ 0 ∨ (s.th.buf = [] ∧ n ≠ 0 ∧ ¬ good) →
        exec (.stashmap d a b) s = .next (trapped s 0x05 (s.rs a)))
    ∧ (let m := (s.rs b).toNat
      (0x800000000000 ≤ x → x + m ≤ 0x800000000000 + poolB s.th.poolb1 → ready →
        ∃ t, exec (.stashflush d a b sc) s = .next t ∧ kept t
          ∧ (∀ r ∈ t.caches.stashLines, flushed s x m r → r.dirty = false)
          ∧ ((∀ r ∈ s.caches.stashLines, flushed s x m r → r.dirty = false) → t.mem = s.mem)
          ∧ ∀ r g, Memory.wf s.mem = true → s.caches.stashLines = [r] → flushed s x m r → r.dirty = true →
              s.stashGlobal r.die r.pool r.off.toNat = some g → ∀ k, Memory.get t.mem k =
                if g ≤ k ∧ k < g + 64 then Memory.get s.mem (stashKey r.die r.pool r.off.toNat + (k - g))
                else Memory.get s.mem k)
      ∧ (x < 0x800000000000 ∨ 0x800000000000 + poolB s.th.poolb1 < x + m →
        exec (.stashflush d a b sc) s = .next (trapped s 0x05 (s.rs a))))

/-- R261 to R264, R275, R276, R279: FENCE and an unbound ACQ discard the unrecorded copies of the thread's pool; FENCE, FENCEX
from CORE and REL wait for the stores they cover, FENCEX from BELL for the thread's own bell writes; ACQ reads the word it
acquires, REL writes the word it releases; a FENCEX from another path completes at once, since its accesses complete before it
can issue (the model's reading, log entry 75); BIND adds a region to an object, up to 8 regions, and UNBIND removes it, or all of
the object. Every other register, flag and byte stays. -/
def Obligations.FencesAndBindingsComplete : Prop :=
  ∀ (s : State) (d a b : BitVec 6) (p q sc : BitVec 3), let x := s.rs a; let y := s.rs b
    let base : BitVec 48 := BitVec.ofNat 48 (y.toNat % 2 ^ 48 / 512 * 512)
    let count : BitVec 16 := y.extractLsb' 48 16
    let rest := s.th.bindings.filter (fun r => !(r.obj == x && r.base == base))
    let emptied (t : State) : Prop := { t with th := s.th, caches := s.caches, pending := s.pending } = s
      ∧ (∀ e ∈ t.pending, e ∈ s.pending) ∧ discards s t (fun _ => True)
    (s.coreOut s.th = true → exec (.fence sc) s = .next s)
    ∧ (s.coreOut s.th = false → ∃ t, exec (.fence sc) s = .next t ∧ emptied t ∧ bare t.th = bare s.th ∧ noRegs s.th t.th)
    ∧ (let waits : Prop := (p = 0 ∧ s.coreOut s.th = true) ∨ (p = 5 ∧ s.bellOut s.th.hwid sc = true)
      (waits → exec (.fencex p q sc) s = .next s) ∧ (¬ waits → ∃ t, exec (.fencex p q sc) s = .next t ∧ nothing s t))
    ∧ (∃ t, exec (.acq d 0 sc) s = .next t ∧ emptied t ∧ bare t.th = bare s.th ∧ scalarRegs s.th t.th d ⟨0, 0⟩)
    ∧ (∀ l, a ≠ 0 → x.toNat % 8 = 0 → onNormal s x 8 true false l → calm s →
        ∃ t, exec (.acq d a sc) s = .next t ∧ loadsS s t d ⟨BitVec.ofNat 64 (numberAt s (paOf l x) 8), 0⟩)
    ∧ (s.coveredOut s.th (some x) = true → exec (.rel a b sc) s = .next s)
    ∧ (s.coveredOut s.th (some x) = false →
      (∀ l, x.toNat % 8 = 0 → onNormal s x 8 false true l → calm s → s.th.inShadow = false →
        ∃ t, exec (.rel a b sc) s = .next t ∧ memoryOnly s t ∧ writesNumber s t (paOf l x) 8 y.toNat)
      ∧ (x.toNat % 8 ≠ 0 → exec (.rel a b sc) s = .next (trapped s 0x03 x)))
    ∧ (x.toNat % 8 ≠ 0 → a ≠ 0 → exec (.acq d a sc) s = .next (trapped s 0x03 x))
    ∧ (y.toNat % 512 = 0 → count ≠ 0 → rest.length < 8 → ∃ t, exec (.bindRegion a b) s = .next t ∧ restKept s t
        ∧ t.th.bindings = rest ++ [⟨x, base, count⟩] ∧ { bare t.th with bindings := s.th.bindings } = bare s.th
        ∧ noRegs s.th t.th)
    ∧ (y.toNat % 512 ≠ 0 → exec (.bindRegion a b) s = .next (trapped s 0x03 y))
    ∧ (y.toNat % 512 = 0 → count = 0 ∨ 8 ≤ rest.length → exec (.bindRegion a b) s = .next (trapped s 0x05 x))
    ∧ ∃ t, exec (.unbindRegion a b sc) s = .next t ∧ restKept s t ∧ noRegs s.th t.th
        ∧ { bare t.th with bindings := s.th.bindings } = bare s.th
        ∧ ∀ r, r ∈ t.th.bindings ↔ r ∈ s.th.bindings ∧ ¬ (r.obj = x ∧ (b = 0 ∨ r.base = base))

/-- R265, R328: a bell write to an aligned word of a BELL page enters its send queue when the thread's layer and partition own
a slot of the frame and the queue has room; BST has no result, the BAMOs fill s[d] later; without a slot it raises PERM with
s[a], with a full queue it waits. -/
def Obligations.BellWritesEnterTheirQueue : Prop :=
  ∀ (s : State) (d a b : BitVec 6) (ps : List Place), let x := s.rs a
    let word : BitVec 17 := BitVec.ofNat 17 ((ps.headD ⟨0, 0, 0, 0, 0, 0⟩).key % 2 ^ 20 / 8)
    let owns := s.ownsBellSlot (dieOf s.th.hwid) s.th.part
    (x.toNat % 8 ≠ 0 → ∀ i ∈ Instr.bst a b :: (bellAtomics d a b).map (·.1), exec i s = .next (trapped s 0x03 x))
    ∧ (s.checkAccess s.th x 8 8 .bst 0 = .ok ps →
      (owns = true → s.bellFull = false → ∃ t, exec (.bst a b) s = .next t ∧ beats s t 0 word (s.rs b)
        ∧ bare t.th = bare s.th ∧ noRegs s.th t.th)
      ∧ (owns = false → exec (.bst a b) s = .next (trapped s 0x05 x))
      ∧ (owns = true → s.bellFull = true → exec (.bst a b) s = .next s))
    ∧ (s.checkAccess s.th x 8 8 .bamo 0 = .ok ps → ∀ p ∈ bellAtomics d a b,
      (owns = true → s.bellFull = false → ∃ t, exec p.1 s = .next t ∧ beats s t p.2 word (s.rs b)
        ∧ starts s t (.s d) 4 .bamo [.bellSlot (stackOf (dieOf s.th.hwid))])
      ∧ (owns = false → exec p.1 s = .next (trapped s 0x05 x))
      ∧ (owns = true → s.bellFull = true → exec p.1 s = .next s))
namespace Sys2Proof.Claims

open Sys2Proof.Machine

/-- An element of width ew read as signed. -/
def signedE (ew x : Nat) : Int := if x < 2 ^ (ew - 1) then x else (x : Int) - 2 ^ ew

/-- An exact result as an element: modulo 2^ew, or clamped to the signed range under sat (R150, R151). -/
def fitE (sat : Bool) (ew : Nat) (x : Int) : Nat :=
  ((if sat then max (-(2 ^ (ew - 1))) (min x (2 ^ (ew - 1) - 1)) else x) % 2 ^ ew).toNat

/-- All ones or 0 (R154). -/
def truthE (ew : Nat) (b : Prop) [Decidable b] : Nat := if b then 2 ^ ew - 1 else 0

/-- The element-wise instructions with the number they make of two elements (R150 to R152, R154). -/
noncomputable def lanewise (sat : Bool) (ew : Nat) (d a b : BitVec 6) (k : BitVec 2) (p h g : BitVec 1) : List (Instr × (Nat → Nat → Nat)) :=
  [ (.vadd d a b k p h g, fun x y => fitE sat ew (signedE ew x + signedE ew y)),
    (.vsub d a b k p h g, fun x y => fitE sat ew (signedE ew x - signedE ew y)),
    (.vmul d a b k p h g, fun x y => fitE sat ew (signedE ew x * signedE ew y)),
    (.vmulh d a b k p h g, fun x y => fitE false ew (signedE ew x * signedE ew y / 2 ^ ew)),
    (.vmin d a b k p h g, fun x y => if signedE ew x ≤ signedE ew y then x else y),
    (.vmax d a b k p h g, fun x y => if signedE ew x ≤ signedE ew y then y else x),
    (.vminu d a b k p h g, fun x y => min x y),
    (.vmaxu d a b k p h g, fun x y => max x y),
    (.vand d a b k p h g, fun x y => x &&& y),
    (.vor d a b k p h g, fun x y => x ||| y),
    (.vxor d a b k p h g, fun x y => x ^^^ y),
    (.vandn d a b k p h g, fun x y => x - (x &&& y)),
    (.vshl d a b k p h g, fun x y => fitE sat ew (signedE ew x * 2 ^ (y % ew))),
    (.vshr d a b k p h g, fun x y => x / 2 ^ (y % ew)),
    (.vsra d a b k p h g, fun x y => fitE false ew (signedE ew x / 2 ^ (y % ew))),
    (.vceq d a b k p h g, fun x y => truthE ew (x = y)),
    (.vcne d a b k p h g, fun x y => truthE ew (x ≠ y)),
    (.vclt d a b k p h g, fun x y => truthE ew (signedE ew x < signedE ew y)),
    (.vcle d a b k p h g, fun x y => truthE ew (signedE ew x ≤ signedE ew y)),
    (.vcltu d a b k p h g, fun x y => truthE ew (x < y)),
    (.vcleu d a b k p h g, fun x y => truthE ew (x ≤ y)) ]

/-- What element i of a destination becomes: where the mask makes it active the new value and tail, elsewhere what it was, or
all ones with tail 00 (R53, R146). -/
def lane (s : State) (d : BitVec 6) (k : BitVec 2) (p : BitVec 1) (ew : Nat) (w : VReg) (i x tl : Nat) : Prop :=
  w.elem ew i = (if s.th.active k ew i = true then x else if p = 0 then (s.th.getV d).elem ew i else 2 ^ ew - 1)
    ∧ w.etail ew i = if s.th.active k ew i = true then tl else if p = 0 then (s.th.getV d).etail ew i else 0

/-- A masked vector result: the register frame, and every element by its lane. -/
def vecResult (s t : State) (d : BitVec 6) (k : BitVec 2) (p : BitVec 1) (ew : Nat) (f : Nat → Nat) : Prop :=
  ∃ w, vectorOnly s t d w ∧ ∀ i, i < 256 / ew → lane s d k p ew w i (f i) 0

/-- The operator and the identity of a reduction code (R159). -/
def reduction (ew : Nat) (c : Nat) : (Nat → Nat → Nat) × Nat :=
  match c with
  | 0 => (fun x y => (x + y) % 2 ^ ew, 0)
  | 1 => (fun x y => if signedE ew x ≤ signedE ew y then x else y, 2 ^ (ew - 1) - 1)
  | 2 => (fun x y => if signedE ew x ≤ signedE ew y then y else x, 2 ^ (ew - 1))
  | 3 => (fun x y => min x y, 2 ^ ew - 1)
  | 4 => (fun x y => max x y, 0)
  | 5 => (fun x y => x &&& y, 2 ^ ew - 1)
  | 6 => (fun x y => x ||| y, 0)
  | _ => (fun x y => x ^^^ y, 0)

/-- Where an active element of a cross-lane instruction takes its value from: a register and a lane, or nowhere (R157, R158,
R160). -/
noncomputable def crossLane (s : State) (d a b : BitVec 6) (k : BitVec 2) (p h g : BitVec 1) (ew : Nat) :
    List (Instr × (Nat → Option (BitVec 6 × Nat))) :=
  let n := 256 / ew
  let y (i : Nat) := (s.th.getV b).elem ew i
  let readable (j : Nat) : Option (BitVec 6 × Nat) := if j < n ∧ s.th.active k ew j = true then some (a, j) else none
  [ (.vperm d a b k p h g, fun i => readable (y i)),
    (.vrot d a b k p h g, fun i => let r := signedE ew (y 0)
      if -(n : Int) < r ∧ r < n then readable ((i + r) % n).toNat else none),
    (.vshuf d a b k p h g, fun i => if y i < n then some (a, y i) else if y i < 2 * n then some (a + 1, y i - n) else none) ]

end Sys2Proof.Claims

/-- R146, R150 to R152, R154: every element-wise integer instruction and compare completes in every state and every element
width: each active element of v[d] is the exact result wrapped, or clamped under sat, with tail 00, each other keeps its value
and tail or becomes all ones; no other register and no flag changes. -/
def Obligations.VectorLanesCompute : Prop :=
  ∀ (s : State) (d a b : BitVec 6) (k : BitVec 2) (p h g : BitVec 1), d.toNat < 48 → let ew := s.th.ew
    ∀ i ∈ lanewise s.th.sat ew d a b k p h g, ∃ t, exec i.1 s = .next t
      ∧ vecResult s t d k p ew (fun j => i.2 ((s.th.getV a).elem ew j) ((s.th.getV b).elem ew j))

/-- R153, R155, R156 to R158, R160: VSEL takes each element from v[a] or v[b] by the mask, VSPLAT the low bits of s[a]; VEXT
gives element s[b] with VALID all ones, or 0 with VALID 0 where there is none; VINS changes that one element and its tail,
where it is active, and no other bit of the register or of its tails (which bits stay is the model's reading, log entry 13).
VPERM, VROT and VSHUF complete in every state: an active element takes the value and the tail of its source lane, or v[a]'s own
where there is no readable source, and VALID says slot by slot whether every active element in it had one. -/
def Obligations.VectorElementsAndPermutations : Prop :=
  (∀ (s : State) (d a b : BitVec 6) (k : BitVec 2) (p h g : BitVec 1), let ew := s.th.ew; let j := (s.rs b).toNat
      let validOnly (t : State) (v : Word) : Prop :=
        restKept s t ∧ { bare t.th with valid := s.th.valid } = bare s.th ∧ t.th.valid = v
      (d.toNat < 48 →
        (∃ t w, exec (.vsel d a b k h g) s = .next t ∧ vectorOnly s t d w ∧ ∀ i, i < 256 / ew →
          w.elem ew i = (if s.th.active k ew i = true then (s.th.getV a).elem ew i else (s.th.getV b).elem ew i)
            ∧ w.etail ew i = 0)
        ∧ (∃ t, exec (.vsplat d a k p) s = .next t ∧ vecResult s t d k p ew (fun _ => (s.rs a).toNat % 2 ^ ew))
        ∧ (j < 256 / ew → s.th.active k ew j = true →
          ∃ t w, exec (.vins d a b k) s = .next t ∧ validOnly t 0xFF ∧ vectorRegs s.th t.th d w
            ∧ w.elem ew j = (s.rs a).toNat % 2 ^ ew ∧ w.etail ew j = 0
            ∧ (∀ q, ¬ (ew * j ≤ q ∧ q < ew * j + ew) → w.val.getLsbD q = (s.th.getV d).val.getLsbD q)
            ∧ ∀ q, ¬ (tailPos ew j ≤ q ∧ q < tailPos ew j + 2) → w.tail.getLsbD q = (s.th.getV d).tail.getLsbD q))
      ∧ (j < 256 / ew → s.th.active k ew j = false →
          ∃ t, exec (.vins d a b k) s = .next t ∧ validOnly t 0xFF ∧ noRegs s.th t.th)
      ∧ (256 / ew ≤ j → (∃ t, exec (.vins d a b k) s = .next t ∧ validOnly t 0 ∧ noRegs s.th t.th)
          ∧ ∃ t, exec (.vext d a b h) s = .next t ∧ validOnly t 0 ∧ scalarRegs s.th t.th d ⟨0, 0⟩)
      ∧ (j < 256 / ew → ∃ t, exec (.vext d a b h) s = .next t ∧ validOnly t 0xFF
          ∧ scalarRegs s.th t.th d ⟨BitVec.ofNat 64 ((s.th.getV a).elem ew j), 0⟩))
  ∧ ∀ (s : State) (d a b : BitVec 6) (k : BitVec 2) (p h g : BitVec 1), d.toNat < 48 → let ew := s.th.ew
      ∀ q ∈ crossLane s d a b k p h g ew, ∃ t w, exec q.1 s = .next t ∧ restKept s t
        ∧ { bare t.th with valid := s.th.valid } = bare s.th ∧ vectorRegs s.th t.th d w
        ∧ (∀ i, i < 256 / ew → let src := (q.2 i).getD (a, i)
            lane s d k p ew w i ((s.th.getV src.1).elem ew src.2) ((s.th.getV src.1).etail ew src.2))
        ∧ t.th.valid.toNat < 256
        ∧ ∀ j, j < 8 → (t.th.valid.getLsbD j = true ↔ ∀ i, i < 256 / ew → i * ew < 32 * (j + 1) → 32 * j < (i + 1) * ew →
            s.th.active k ew i = true → (q.2 i).isSome)

/-- R159, R161 to R163: VRED leaves the reduction of the active elements in element 0 and 0 in the others; VSCAN leaves in each
active element the reduction of the active ones up to it; VCOMP packs the active elements to the front, VEXPD spreads v[a] over
the active places. Each completes in every state and changes no other register and no flag. -/
def Obligations.VectorReductionsCompute : Prop :=
  ∀ (s : State) (d a : BitVec 6) (c : BitVec 6) (k : BitVec 2) (p h : BitVec 1), d.toNat < 48 → c.toNat < 8 →
    let ew := s.th.ew; let n := 256 / ew; let x := (s.th.getV a).elem ew; let r := reduction ew c.toNat
    let act (m : Nat) := (List.range m).filter (fun i => s.th.active k ew i)
    let fold (m : Nat) : Nat := (act m).foldl (fun acc i => r.1 acc (x i)) r.2
    (∃ t w, exec (.vred d a c k h) s = .next t ∧ vectorOnly s t d w
        ∧ ∀ i, i < n → w.elem ew i = (if i = 0 then fold n else 0) ∧ w.etail ew i = 0)
    ∧ (∃ t, exec (.vscan d a c k p h) s = .next t ∧ vecResult s t d k p ew (fun i => fold (i + 1)))
    ∧ (∃ t w, exec (.vcomp d a k p h) s = .next t ∧ vectorOnly s t d w
        ∧ ∀ i, i < n → if hi : i < (act n).length then w.elem ew i = x ((act n)[i]) ∧ w.etail ew i = 0
            else w.elem ew i = (if p = 0 then (s.th.getV d).elem ew i else 2 ^ ew - 1)
              ∧ w.etail ew i = if p = 0 then (s.th.getV d).etail ew i else 0)
    ∧ ∃ t, exec (.vexpd d a k p h) s = .next t ∧ vecResult s t d k p ew (fun i => x (act i).length)

namespace Sys2Proof.Claims

open Sys2Proof.Machine

/-- The scalar floating-point instructions with two sources, or three with s[d], and their operation numbers (R167). -/
noncomputable def floatPairs (d a b : BitVec 6) (t : BitVec 2) : List (Instr × Nat) :=
  [ (.fadd d a b t, 0), (.fsub d a b t, 1), (.fmul d a b t, 2), (.fdiv d a b t, 3), (.fmin d a b t, 5), (.fmax d a b t, 6),
    (.fscpy d a b t, 7), (.fscpyn d a b t, 8), (.fsxor d a b t, 9), (.fma d a b t, 10), (.fms d a b t, 11), (.fnma d a b t, 12),
    (.fnms d a b t, 13), (.feq d a b t, 14), (.flt d a b t, 15), (.fle d a b t, 16), (.funord d a b t, 17), (.feqx d a b t, 18),
    (.fltx d a b t, 19), (.flex d a b t, 20) ]

/-- Those with one source (R167, R174). -/
noncomputable def floatSingles (d a : BitVec 6) (t : BitVec 2) : List (Instr × Nat) :=
  [ (.fsqrt d a t, 4), (.fclass d a t, 21), (.frnd d a t, 22), (.fmvx d a t, 23), (.fmvf d a t, 24), (.fexp2 d a t, 27),
    (.flog2 d a t, 28), (.fsinpi d a t, 29), (.fcospi d a t, 30), (.frsqrt d a t, 31), (.ftanh d a t, 32) ]

/-- What an L-core ships: F64, divisions and square roots, the transcendentals (R182). -/
def shipsFloat (fn : Nat) (t : BitVec 2) : Prop := t = 0 ∨ fn = 3 ∨ fn = 4 ∨ 27 ≤ fn

/-- A floating-point result in s[d] with its flags (R113, R165): FPTRAP with nothing written when it sets an enabled flag, and
otherwise the image, its flags accumulated, and nothing else changed. -/
def floatResult (s : State) (i : Instr) (d : BitVec 6) (x : SReg) (fl : Flags) : Prop :=
  (fl &&& s.th.enables ≠ 0 → exec i s = .next (trapped s 0x09 (fl.zeroExtend 64)))
    ∧ (fl &&& s.th.enables = 0 → ∃ t, exec i s = .next t ∧ restKept s t ∧ { bare t.th with fcsr := s.th.fcsr } = bare s.th
        ∧ t.th.fcsr = s.th.fcsr ||| fl.zeroExtend 64 ∧ scalarRegs s.th t.th d x)

/-- The same with a vector destination (R165, R177). -/
def floatVector (s : State) (i : Instr) (d : BitVec 6) (x : VReg) (fl : Flags) : Prop :=
  (fl &&& s.th.enables ≠ 0 → exec i s = .next (trapped s 0x09 (fl.zeroExtend 64)))
    ∧ (fl &&& s.th.enables = 0 → ∃ t, exec i s = .next t ∧ restKept s t ∧ { bare t.th with fcsr := s.th.fcsr } = bare s.th
        ∧ t.th.fcsr = s.th.fcsr ||| fl.zeroExtend 64 ∧ vectorRegs s.th t.th d x)

/-- The magnitude bits of an encoding, its NaNs, and its place in the order of numbers: the two zeros are one (R78). -/
def magOf (w : Nat) (x : Nat) : Nat := x % 2 ^ (w - 1)

/-- An encoding of a NaN in a format of exponent field `top` over `p - 1` fraction bits (R78). -/
def nanBits (f : Fmt) (x : Nat) : Prop := f.top * 2 ^ (f.p - 1) < magOf f.w x

/-- A quiet NaN: its highest fraction bit is set (R97). -/
def quietBits (f : Fmt) (x : Nat) : Prop := nanBits f x ∧ x / 2 ^ (f.p - 2) % 2 = 1

/-- The integer that a magnitude `m * 2^e` rounds to in mode `rm`: to nearest with ties to even, towards zero, up, down, or to
nearest with ties away from zero (R57). -/
def wholeOf (rm : Nat) (neg : Bool) (m : Nat) (e : Int) : Nat :=
  let one := 2 ^ (-e).toNat; let low := m / one; let rest := m % one
  if 0 ≤ e then m * 2 ^ e.toNat
  else if (rm = 0 ∧ (one < 2 * rest ∨ (2 * rest = one ∧ low % 2 = 1))) ∨ (rm = 2 ∧ neg = false ∧ rest ≠ 0)
      ∨ (rm = 3 ∧ neg = true ∧ rest ≠ 0) ∨ (rm = 4 ∧ one ≤ 2 * rest) then low + 1
  else low

/-- The encoding of an integer with a sign (R78). -/
def encodesWhole (f : Fmt) (z : Nat) (neg : Bool) (n : Nat) : Prop :=
  z < 2 ^ f.w ∧ ∃ m e, f.num z = .fin neg m e ∧ m * 2 ^ (e - f.qmin).toNat = n * 2 ^ (-f.qmin).toNat

/-- The signed magnitude of an encoding, by which numbers are ordered. -/
def orderOf (f : Fmt) (x : Nat) : Int := if x / 2 ^ (f.w - 1) % 2 = 1 then -(magOf f.w x : Int) else magOf f.w x

/-- The vector floating-point instructions with their operation numbers; 99 is the vector compare for inequality (R178). -/
noncomputable def vectorFloats (d a b : BitVec 6) (k : BitVec 2) (p : BitVec 1) (t : BitVec 2) : List (Instr × Nat × BitVec 6) :=
  [ (.vfadd d a b k p t, 0, b), (.vfsub d a b k p t, 1, b), (.vfmul d a b k p t, 2, b), (.vfdiv d a b k p t, 3, b),
    (.vfmin d a b k p t, 5, b), (.vfmax d a b k p t, 6, b), (.vfscpy d a b k p t, 7, b), (.vfscpyn d a b k p t, 8, b),
    (.vfma d a b k p t, 10, b), (.vfms d a b k p t, 11, b), (.vfnma d a b k p t, 12, b), (.vfnms d a b k p t, 13, b),
    (.vfsqrt d a k p t, 4, 0), (.vfrnd d a k p t, 22, 0), (.vfclass d a k p t, 21, 0), (.vfeq d a b k p t, 14, b),
    (.vflt d a b k p t, 15, b), (.vfle d a b k p t, 16, b), (.vfunord d a b k p t, 17, b), (.vfeqx d a b k p t, 18, b),
    (.vfltx d a b k p t, 19, b), (.vflex d a b k p t, 20, b), (.vfne d a b k p t, 99, b), (.vfexp2 d a k p t, 27, 0),
    (.vflog2 d a k p t, 28, 0), (.vfsinpi d a k p t, 29, 0), (.vfcospi d a k p t, 30, 0), (.vfrsqrt d a k p t, 31, 0),
    (.vftanh d a k p t, 32, 0) ]

/-- What one element becomes: the scalar operation on the element images, a compare's answer as all ones or 0 (R177, R178). -/
def floatLane (s : State) (fn : Nat) (f : Fmt) (d a b : BitVec 6) (i : Nat) : Nat × Nat × Flags :=
  let im (n : BitVec 6) := ((s.th.getV n).elem f.w i, (s.th.getV n).etail f.w i)
  let r := fpsCompute fn f s.th.rm s.th.keep (im a) (im b) (im d)
  if (14 ≤ fn ∧ fn ≤ 20) ∨ fn = 99 then (if r.1 = 1 then 2 ^ f.w - 1 else 0, 0, r.2.2) else r

/-- The flags of the active elements together (R177). -/
def laneFlags (s : State) (k : BitVec 2) (w : Nat) (f : Nat → Flags) : Flags :=
  ((List.range (256 / w)).filter (fun i => s.th.active k w i)).foldl (fun fl i => fl ||| f i) 0

end Sys2Proof.Claims

/-- R88, R113, R165, R167, R168, R182: a scalar floating-point instruction computes on its operand images, writes the rounded
or kept result and accumulates its flags, or raises FPTRAP with nothing written when it sets an enabled flag; an L-core ships
F64, divisions, square roots and transcendentals instead, trap-capable when an enable is set. -/
def Obligations.ScalarFloatsComputeOrShip : Prop :=
  ∀ (s : State) (d a b : BitVec 6) (t : BitVec 2), let cap := decide (s.th.enables ≠ 0)
    (∀ p ∈ floatPairs d a b t,
      let r := fpsScalar p.2 (fmt2 t) s.th.rm s.th.keep (s.th.getS a) (s.th.getS b) (s.th.getS d)
      (isB s.th.hwid = true ∨ ¬ shipsFloat p.2 t → floatResult s p.1 d r.1 r.2)
      ∧ (isB s.th.hwid = false → shipsFloat p.2 t → ∃ u, exec p.1 s = .next u ∧ ships s u (.s d) cap (wordOf p.1)
          ([.scalar (s.th.getS a), .scalar (s.th.getS b)]
            ++ if 10 ≤ p.2 ∧ p.2 ≤ 13 then [.scalar (s.th.getS d)] else [])))
    ∧ ∀ p ∈ floatSingles d a t,
      let r := fpsScalar p.2 (fmt2 t) s.th.rm s.th.keep (s.th.getS a) (s.th.getS 0) (s.th.getS d)
      (isB s.th.hwid = true ∨ ¬ shipsFloat p.2 t → floatResult s p.1 d r.1 r.2)
      ∧ (isB s.th.hwid = false → shipsFloat p.2 t → ∃ u, exec p.1 s = .next u ∧ ships s u (.s d) cap (wordOf p.1)
          [.scalar (s.th.getS a)])

/-- R169, R170, R172, R173 on values, that is images with tail 00, in a format this core computes: FSCPY, FSCPYN and FSXOR
change only the sign bit, FMVX and FMVF copy the encoding, FEQ, FLT and FLE order two numbers as reals with the two zeros
equal, FUN gives 1 when either operand is a NaN and 0 when none is, with NV for a signalling one; FRND gives the integer that a
number rounds to, with its sign, NX when that differs, an infinity as it is and a NaN quieted. FTAILR reads the two tail bits of
any image and FTAILW writes them. -/
def Obligations.ScalarFloatBitsAndOrder : Prop :=
  ∀ (s : State) (d a b : BitVec 6) (t : BitVec 2), let f := fmt2 t
    let x := (s.rs a).toNat % 2 ^ f.w; let y := (s.rs b).toNat % 2 ^ f.w
    let neg (z : Nat) : Bool := decide (2 ^ (f.w - 1) ≤ z)
    let value (g : Bool) : SReg := ⟨BitVec.ofNat 64 (magOf f.w x + if g then 2 ^ (f.w - 1) else 0), 0⟩
    let truth (q : Prop) [Decidable q] : SReg := ⟨if q then 1 else 0, 0⟩
    (isB s.th.hwid = true ∨ t ≠ 0 → (s.th.getS a).tail = 0 → (s.th.getS b).tail = 0 →
      (∃ u, exec (.fscpy d a b t) s = .next u ∧ scalarOnly s u d (value (neg y)))
      ∧ (∃ u, exec (.fscpyn d a b t) s = .next u ∧ scalarOnly s u d (value (!neg y)))
      ∧ (∃ u, exec (.fsxor d a b t) s = .next u ∧ scalarOnly s u d (value (neg x != neg y)))
      ∧ (∃ u, exec (.fmvx d a t) s = .next u ∧ scalarOnly s u d ⟨BitVec.ofNat 64 x, 0⟩)
      ∧ (∃ u, exec (.fmvf d a t) s = .next u ∧ scalarOnly s u d ⟨BitVec.ofNat 64 x, 0⟩)
      ∧ (¬ nanBits f x → ¬ nanBits f y →
        (∃ u, exec (.feq d a b t) s = .next u ∧ scalarOnly s u d (truth (orderOf f x = orderOf f y)))
        ∧ (∃ u, exec (.flt d a b t) s = .next u ∧ scalarOnly s u d (truth (orderOf f x < orderOf f y)))
        ∧ (∃ u, exec (.fle d a b t) s = .next u ∧ scalarOnly s u d (truth (orderOf f x ≤ orderOf f y)))
        ∧ ∃ u, exec (.funord d a b t) s = .next u ∧ scalarOnly s u d ⟨0, 0⟩)
      ∧ ((quietBits f x ∧ (nanBits f y → quietBits f y)) ∨ (quietBits f y ∧ ¬ nanBits f x) →
        ∃ u, exec (.funord d a b t) s = .next u ∧ scalarOnly s u d ⟨1, 0⟩)
      ∧ ((nanBits f x ∧ ¬ quietBits f x) ∨ (nanBits f y ∧ ¬ quietBits f y) → floatResult s (.funord d a b t) d ⟨1, 0⟩ 16)
      ∧ (∀ neg m e, f.num x = .fin neg m e → s.th.rm.toNat ≤ 4 → ∃ z, encodesWhole f z neg (wholeOf s.th.rm.toNat neg m e)
        ∧ floatResult s (.frnd d a t) d ⟨BitVec.ofNat 64 z, 0⟩ (if e < 0 ∧ m % 2 ^ (-e).toNat ≠ 0 then 1 else 0))
      ∧ (∀ neg, f.num x = .inf neg → ∃ u, exec (.frnd d a t) s = .next u ∧ scalarOnly s u d ⟨BitVec.ofNat 64 x, 0⟩)
      ∧ (nanBits f x → floatResult s (.frnd d a t) d ⟨BitVec.ofNat 64 (x ||| 2 ^ (f.p - 2)), 0⟩
          (if x / 2 ^ (f.p - 2) % 2 = 1 then 0 else 16)))
    ∧ (∃ u, exec (.ftailr d a) s = .next u ∧ scalarOnly s u d ⟨BitVec.ofNat 64 ((s.th.getS a).tail.toNat % 4), 0⟩)
    ∧ ∃ u, exec (.ftailw d a) s = .next u ∧ scalarOnly s u d ⟨s.rs d,
        BitVec.ofNat 8 ((s.th.getS d).tail.toNat / 4 * 4 + (s.rs a).toNat % 4)⟩

/-- R175, R176, R180, R182: FCVT and VFCVT convert each element's image to the destination format in the instruction's rounding
mode or the dynamic one, with flags and FPTRAP; to or from F64 an L-core ships them. An integer result in a scalar register is
extended by its sign when its type is signed, else by zeros. -/
def Obligations.ConversionsComputeOrShip : Prop :=
  ∀ (s : State) (d a : BitVec 6) (k : BitVec 2) (p : BitVec 1) (src dst : BitVec 4) (m : BitVec 3),
    let cap := decide (s.th.enables ≠ 0); let here := isB s.th.hwid = true ∨ (src ≠ 0 ∧ dst ≠ 0)
    let away := isB s.th.hwid = false ∧ (src = 0 ∨ dst = 0)
    let x := convert src dst m s.th.rm (s.rs a).toNat ((s.th.getS a).tail.toNat % 4)
    let word : Word := if dst.toNat ≤ 8 then BitVec.ofNat 64 x.1
      else BitVec.ofInt 64 (if (intFmt dst).2 = true then signedE (intFmt dst).1 (x.1 % 2 ^ (intFmt dst).1) else x.1 % 2 ^ (intFmt dst).1)
    (here → floatResult s (.fcvt d a src dst m) d ⟨word, BitVec.ofNat 8 x.2.1⟩ x.2.2)
    ∧ (away → ∃ u, exec (.fcvt d a src dst m) s = .next u
        ∧ ships s u (.s d) cap (wordOf (.fcvt d a src dst m)) [.scalar (s.th.getS a)])
    ∧ (away → ∃ u tl, exec (.vfcvt d a k p src dst m) s = .next u
        ∧ ships s u (.v d) cap (wordOf (.vfcvt d a k p src dst m)) (.wide (s.th.getV a) :: tl))
    ∧ (here → d.toNat < 48 →
      let ws := containerWidth src; let wd := containerWidth dst; let ew := max ws wd
      let y (i : Nat) := convert src dst m s.th.rm ((s.th.getV a).elem ws i) ((s.th.getV a).etail ws i)
      ∃ w, floatVector s (.vfcvt d a k p src dst m) d w (laneFlags s k ew (fun i => (y i).2.2))
        ∧ ∀ i, i < 256 / ew → s.th.active k ew i = true → w.elem wd i = (y i).1 % 2 ^ wd ∧ w.etail wd i = (y i).2.1 % 4)

/-- R177 to R179, R182: a vector floating-point instruction does the scalar operation on each active element, with the flags of
the active elements together; an inactive one keeps its value and tail or becomes all ones; an L-core ships F64, divisions,
square roots and transcendentals. VFTAILR reads and VFTAILW writes the tails of the active elements. -/
def Obligations.VectorFloatsComputeOrShip : Prop :=
  ∀ (s : State) (d a b : BitVec 6) (k : BitVec 2) (p : BitVec 1) (t : BitVec 2), d.toNat < 48 →
    let cap := decide (s.th.enables ≠ 0); let f := fmt2 t
    (∀ q ∈ vectorFloats d a b k p t, let away := t = 0 ∨ (q.2.1 ≠ 99 ∧ shipsFloat q.2.1 t)
      (isB s.th.hwid = true ∨ ¬ away → let r := floatLane s q.2.1 f d a q.2.2
        ∃ w, floatVector s q.1 d w (laneFlags s k f.w (fun i => (r i).2.2))
          ∧ ∀ i, i < 256 / f.w → lane s d k p f.w w i ((r i).1 % 2 ^ f.w) ((r i).2.1 % 4))
      ∧ (isB s.th.hwid = false → away → ∃ u tl, exec q.1 s = .next u
          ∧ ships s u (.v d) cap (wordOf q.1) (.wide (s.th.getV a) :: tl)))
    ∧ (∃ u w, exec (.vftailr d a k p t) s = .next u ∧ vectorOnly s u d w
        ∧ ∀ i, i < 256 / f.w → lane s d k p f.w w i ((s.th.getV a).etail f.w i) 0)
    ∧ ∃ u w, exec (.vftailw d a k p t) s = .next u ∧ vectorOnly s u d w
        ∧ ∀ i, i < 256 / f.w → lane s d k p f.w w i ((s.th.getV d).elem f.w i) ((s.th.getV a).elem f.w i % 4)
namespace Sys2Proof.Claims

open Sys2Proof.Machine

/-- Of the thread only tile `d` changes, to `x`, and what retirement moves. -/
def tileRegs (s t : State) (d : BitVec 6) (x : Tile) : Prop :=
  noRegs s.th t.th
    ∧ { bare t.th with tileTC := s.th.tileTC, tileData := s.th.tileData, tileScale := s.th.tileScale } = bare s.th
    ∧ ∀ n : BitVec 6, n.toNat < 16 → t.th.tile n = if n = d then x else s.th.tile n

/-- Nothing but tile `d` of the thread changes, to `x`, and what retirement moves. -/
def tileOnly (s t : State) (d : BitVec 6) (x : Tile) : Prop := restKept s t ∧ tileRegs s t d x

/-- The frame of a load into tile `d`: the tile, and the records of the lines it takes; every byte of memory is as it was. -/
def loadsTile (s t : State) (d : BitVec 6) (x : Tile) : Prop := holdersMove s t ∧ t.mem = s.mem ∧ tileRegs s t d x

/-- A tile result with its flags: FPTRAP with no tile changed when an enabled flag is set (R165, R191). -/
def tileFloat (s : State) (i : Instr) (d : BitVec 6) (x : Tile) (fl : Flags) : Prop :=
  (fl &&& s.th.enables ≠ 0 → exec i s = .next (trapped s 0x09 (fl.zeroExtend 64)))
    ∧ (fl &&& s.th.enables = 0 → ∃ t, exec i s = .next t ∧ t.th.fcsr = s.th.fcsr ||| fl.zeroExtend 64
        ∧ tileOnly s { t with th := { t.th with fcsr := s.th.fcsr } } d x)

/-- A tile keeps its configuration and scales; its elements become `f`. -/
def cellsAre (x old : Tile) (f : Nat → Nat → Nat) : Prop :=
  x.tc = old.tc ∧ x.scale = old.scale
    ∧ ∀ r j, r < tcRows old.tc → j < tcCols old.tc → x.elem r j = f r j % 2 ^ tileCont (tcFmt old.tc)

/-- The flags of every element of a tile together. -/
def cellFlags (x : Tile) (f : Nat → Nat → Flags) : Flags := x.cells.foldl (fun fl c => fl ||| f c.1 c.2) 0

/-- PERM with a reason of R191: TVAL is the word and the reason. -/
def refusedFor (s : State) (reason : Nat) : State := trapped s 0x05 (BitVec.ofNat 64 (s.insn.toNat * 2 ^ 32 + reason))

/-- The MAT instructions on tiles with their function numbers, operands and slots (R192, R307). -/
noncomputable def tileInstrs (s : State) (d a b : BitVec 6) (m : BitVec 3) : List (Instr × Nat × Dst × List Slot × MatArg × BitVec 6 × BitVec 6) :=
  let x := s.rs a; let y := s.rs b; let z : VReg := ⟨0, 0⟩
  [ (.tcfg d a, 0, .none, [.scalar ⟨x, 0⟩], ⟨x, 0, z⟩, a, 0), (.tzero d, 1, .none, [], ⟨0, 0, z⟩, 0, 0),
    (.tld d a b, 2, .none, [.scalar ⟨x, 0⟩, .scalar ⟨y, 0⟩], ⟨x, y, z⟩, a, b),
    (.tst d a b, 3, .none, [.scalar ⟨x, 0⟩, .scalar ⟨y, 0⟩], ⟨x, y, z⟩, a, b),
    (.tldbp d a b, 4, .none, [.scalar ⟨x, 0⟩, .scalar ⟨y, 0⟩], ⟨x, y, z⟩, a, b),
    (.tldmx d a b, 5, .none, [.scalar ⟨x, 0⟩, .scalar ⟨y, 0⟩], ⟨x, y, z⟩, a, b),
    (.mma d a b, 6, .none, [], ⟨0, 0, z⟩, a, b), (.tcvt d a m, 7, .none, [], ⟨0, 0, z⟩, a, m.zeroExtend 6),
    (.tmov d a, 8, .none, [], ⟨0, 0, z⟩, a, 0), (.tget d a b, 9, .v d, [.scalar ⟨y, 0⟩], ⟨0, y, z⟩, a, b),
    (.tset d a b, 10, .none, [.wide (s.th.getV a), .scalar ⟨y, 0⟩], ⟨0, y, s.th.getV a⟩, a, b) ]

end Sys2Proof.Claims

/-- R187, R188, R191: a MAT instruction on tiles whose checks fail raises PERM with the word and the reason; on an L-core, with
its checks passed, it is shipped to the B-core, and TCFG and TMOV set the core's own copy of the configuration too. -/
def Obligations.TilesCheckAndShip : Prop :=
  ∀ (s : State) (d a b : BitVec 6) (m : BitVec 3), ∀ q ∈ tileInstrs s d a b m, let fn := q.2.1; let g := q.2.2.2.2.1
    let aa := q.2.2.2.2.2.1; let bb := q.2.2.2.2.2.2
    let tc (n : BitVec 6) : Word := (s.th.tile n).tc
    let bad := matCheck (if isB s.th.hwid = true then none else some s.th.grant.toNat) tc fn d aa bb g.x g.y
    (∀ r, bad = some r → exec q.1 s = .next (refusedFor s r.toNat))
    ∧ (bad = none → isB s.th.hwid = false → ∃ t v cap, exec q.1 s = .next t ∧ ships s v q.2.2.1 cap (wordOf q.1) q.2.2.2.1
        ∧ (fn ∈ [2, 3, 4, 5] → cap = true) ∧ (s.th.enables = 0 → fn ∉ [2, 3, 4, 5] → cap = false)
        ∧ t = { v with th := { v.th with tileTC :=
            if fn = 0 then s.th.tileTC.setIfInBounds d.toNat g.x
            else if fn = 8 then s.th.tileTC.setIfInBounds d.toNat (tc aa) else s.th.tileTC } })

/-- R193, R198, R203: on a B-core TCFG configures a tile and clears it, TZERO clears it, TMOV copies one with its
configuration; TGET reads up to 256 bits of a row, 0 beyond its columns, and TSET writes them, each floating-point element
rounded, with its flags. GEOM cuts an extent into parts of whole blocks and masks its last block; the length of an empty part
that starts past the end, as a difference modulo 2^64, is the model's reading (log entry 93). Nothing else changes. -/
def Obligations.TileRegistersMove : Prop :=
  ∀ (s : State) (d a b : BitVec 6), let y := (s.rs b).toNat; let D := s.th.tile d; let A := s.th.tile a
    (isB s.th.hwid = true → d.toNat < 16 →
      (tcValid (s.rs a) = true → ∃ t, exec (.tcfg d a) s = .next t ∧ tileOnly s t d ⟨s.rs a, 0, 0⟩)
      ∧ (tcValid (s.rs a) = false → exec (.tcfg d a) s = .next (refusedFor s 2))
      ∧ (∃ t, exec (.tzero d) s = .next t ∧ tileOnly s t d ⟨D.tc, 0, 0⟩)
      ∧ (A.tc ≠ 0 → ∃ t, exec (.tmov d a) s = .next t ∧ tileOnly s t d A)
      ∧ (A.tc = 0 → exec (.tmov d a) s = .next (refusedFor s 3))
      ∧ (D.tc ≠ 0 → tcValid D.tc = true → let c := tileCont (tcFmt D.tc); let n := 256 / c
        let img (j : Nat) := ((s.th.getV a).elem c (j - y / 32 * n), (s.th.getV a).etail c (j - y / 32 * n))
        let here (r j : Nat) : Prop := y ≤ 127 ∧ r = y % 32 ∧ y / 32 * n ≤ j ∧ j < y / 32 * n + n
        let new (r j : Nat) : Nat × Flags := if here r j then
            (if (tcFmt D.tc).toNat ≤ 8 then (fmtOf (tcFmt D.tc)).roundImg s.th.rm (img j).1 (img j).2 else ((img j).1, 0))
          else (D.elem r j, 0)
        ∃ x, tileFloat s (.tset d a b) d x (cellFlags D (fun r j => (new r j).2)) ∧ cellsAre x D (fun r j => (new r j).1)))
    ∧ (isB s.th.hwid = true → A.tc ≠ 0 → d.toNat < 48 → let c := tileCont (tcFmt A.tc); let n := 256 / c
        ∃ t w, exec (.tget d a b) s = .next t ∧ vectorOnly s t d w ∧ w.tail = 0 ∧ ∀ k, k < n → w.elem c k =
          if y ≤ 127 ∧ y % 32 < tcRows A.tc ∧ y / 32 * n + k < tcCols A.tc then A.elem (y % 32) (y / 32 * n + k) else 0)
    ∧ (d.toNat ≤ 60 →
      let e := (s.rs a).toNat % 2 ^ 32; let q := max ((s.rs a).toNat / 2 ^ 32 % 2 ^ 16) 1
      let pi := geomPart s.th.geomdim s.th.geompos (s.rs b); let nb := (e + q - 1) / q
      let lo := if pi.1 ≤ pi.2 then nb else pi.2 * nb / pi.1
      let hi := if pi.1 ≤ pi.2 then nb else (pi.2 + 1) * nb / pi.1
      ∃ t w, exec (.geom d a b) s = .next t ∧ restKept s t ∧ bare t.th = bare s.th
        ∧ (∀ n, t.th.getS n = if n = d ∧ d ≠ 0 then ⟨BitVec.ofNat 64 (lo * q), 0⟩
            else if n = d + 1 then ⟨BitVec.ofNat 64 (min (hi * q) e), 0⟩
            else if n = d + 2 then ⟨BitVec.ofNat 64 (min (hi * q) e) - BitVec.ofNat 64 (lo * q), 0⟩
            else if n = d + 3 then ⟨w, 0⟩ else s.th.getS n)
        ∧ (∀ n, t.th.getV n = s.th.getV n)
        ∧ ∀ j, j < 64 → (w.getLsbD j = true ↔ lo < hi ∧ j < q ∧ (hi - 1) * q + j < e))

/-- R81, R83, R194 to R197: on a B-core TLD fills the elements of a configured tile from its rows in memory, TLDBP from bit
planes, TLDMX its scales; TST writes the rows, the later over the earlier. Rows lie on NORMAL pages here. Nothing else changes.
A base or stride that is not aligned raises ALIGN with it. -/
def Obligations.TilesLoadAndStore : Prop :=
  ∀ (s : State) (d a b : BitVec 6) (l : Nat → Leaf), isB s.th.hwid = true → d.toNat < 16 →
    let D := s.th.tile d; let f := tcFmt D.tc; let m := tileMem f; let x := s.rs a; let y := s.rs b
    let row (r : Nat) : Word := x + BitVec.ofInt 64 (r * y.toInt); let n := tcCols D.tc * m / 8; let q := tcCols D.tc / 32
    D.tc ≠ 0 → tcValid D.tc = true →
    (x.toNat % 16 ≠ 0 → exec (.tld d a b) s = .next (trapped s 0x03 x) ∧ exec (.tst d a b) s = .next (trapped s 0x03 x))
    ∧ (x.toNat % 16 = 0 → y.toNat % 16 ≠ 0 →
        exec (.tld d a b) s = .next (trapped s 0x03 y) ∧ exec (.tst d a b) s = .next (trapped s 0x03 y))
    ∧ (x.toNat % 16 = 0 → y.toNat % 16 = 0 → calm s →
        (∀ r, r < tcRows D.tc → onNormal s (row r) n true false (l r)) →
        ∃ t z, exec (.tld d a b) s = .next t ∧ loadsTile s t d z
          ∧ cellsAre z D (fun r j => numberAt s (paOf (l r) (row r)) n / 2 ^ (m * j) % 2 ^ m))
    ∧ (x.toNat % 16 = 0 → y.toNat % 16 = 0 → calm s →
        (∀ r, r < tcRows D.tc → onNormal s (row r) n false true (l r)) →
        ∃ t, exec (.tst d a b) s = .next t ∧ memoryOnly s t
          ∧ (∀ r, r < tcRows D.tc → (∀ r', r < r' → r' < tcRows D.tc → paOf (l r) (row r) + n ≤ paOf (l r') (row r')
                ∨ paOf (l r') (row r') + n ≤ paOf (l r) (row r)) →
              ∀ j, j < tcCols D.tc → numberAt t (paOf (l r) (row r)) n / 2 ^ (m * j) % 2 ^ m = D.elem r j % 2 ^ m)
          ∧ ∀ z, (∀ r, r < tcRows D.tc → ¬ (paOf (l r) (row r) ≤ z ∧ z < paOf (l r) (row r) + n)) →
              Memory.get t.mem z = Memory.get s.mem z)
    ∧ (let plane (i : Nat) : Word := x + BitVec.ofNat 64 (1024 * (i / y.toNat) + 128 * (i % y.toNat))
      f = 14 → tcMx D.tc = false → tcCols D.tc % 32 = 0 → 2 ≤ y.toNat → y.toNat ≤ 8 →
      (x.toNat % 128 ≠ 0 → exec (.tldbp d a b) s = .next (trapped s 0x03 x))
      ∧ (x.toNat % 128 = 0 → calm s → (∀ i, i < q * y.toNat → onNormal s (plane i) 128 true false (l i)) →
        ∃ t z, exec (.tldbp d a b) s = .next t ∧ loadsTile s t d z
          ∧ cellsAre z D (fun r j => ((List.range y.toNat).map (fun p => let i := j / 32 * y.toNat + p
              (Memory.get s.mem (paOf (l i) (plane i) + 4 * r + j % 32 / 8)).toNat / 2 ^ (j % 8) % 2 * 2 ^ (7 - p))).sum)))
    ∧ (tcMx D.tc = true → calm s → (∀ r, r < tcRows D.tc → onNormal s (row r) q true false (l r)) →
        ∃ t z, exec (.tldmx d a b) s = .next t ∧ loadsTile s t d z ∧ z.tc = D.tc ∧ z.data = D.data
          ∧ ∀ r p, r < 32 → p < 4 → z.scaleAt r p = if r < tcRows D.tc ∧ p < q
              then (Memory.get s.mem (paOf (l r) (row r) + p)).toNat else D.scaleAt r p)

/-- R100, R101, R199 to R201: on a B-core MMA adds to each element of D the products of a row of A and a row of B: in integers
exactly modulo 2^32, in floating point k-step by k-step with one rounding a step; TCVT converts each element. Their flags
accumulate or trap. Shapes and formats that do not fit raise PERM with reasons 5 and 4. -/
def Obligations.TilesMultiplyAndConvert : Prop :=
  ∀ (s : State) (d a b : BitVec 6) (m : BitVec 3), isB s.th.hwid = true → d.toNat < 16 →
    let D := s.th.tile d; let A := s.th.tile a; let B := s.th.tile b
    D.tc ≠ 0 → A.tc ≠ 0 → tcValid D.tc = true →
    (B.tc ≠ 0 → tcRows A.tc = tcRows D.tc → tcRows B.tc = tcCols D.tc → tcCols B.tc = tcCols A.tc → tcMx D.tc = false →
      matD (tcFmt A.tc) (tcFmt B.tc) = some (tcFmt D.tc) →
      let dot (i j : Nat) : Nat × Flags := Dot.run
        { fa := tcFmt A.tc, fb := tcFmt B.tc, rm := s.th.rm, core := fun _ => (bcoreOf s.th.hwid).toNat, first := 0,
          a := A.elem i, b := B.elem j, sa := if tcMx A.tc = true then some (A.scaleAt i) else none,
          sb := if tcMx B.tc = true then some (B.scaleAt j) else none } 0 (tcCols A.tc) (D.elem i j)
      (∃ x, tileFloat s (.mma d a b) d x (cellFlags D (fun i j => (dot i j).2)) ∧ cellsAre x D (fun i j => (dot i j).1))
      ∧ (tcFmt A.tc = 14 → tcFmt B.tc = 14 → ∃ t x, exec (.mma d a b) s = .next t ∧ tileOnly s t d x
          ∧ cellsAre x D (fun i j => ((D.elem i j + ((List.range (tcCols A.tc)).map (fun k =>
              signedE 8 (A.elem i k) * signedE 8 (B.elem j k))).sum) % 2 ^ 32).toNat)))
    ∧ (B.tc ≠ 0 → (tcRows A.tc ≠ tcRows D.tc ∨ tcRows B.tc ≠ tcCols D.tc ∨ tcCols B.tc ≠ tcCols A.tc) →
        exec (.mma d a b) s = .next (refusedFor s 5))
    ∧ (tcMx D.tc = false → tcMx A.tc = false → tcRows A.tc = tcRows D.tc → tcCols A.tc = tcCols D.tc →
      (pairOk (tcFmt A.tc) (tcFmt D.tc) = true →
        let c (i j : Nat) := convert (tcFmt A.tc) (tcFmt D.tc) m s.th.rm (A.elem i j) 0
        ∃ x, tileFloat s (.tcvt d a m) d x (cellFlags D (fun i j => (c i j).2.2)) ∧ cellsAre x D (fun i j => (c i j).1))
      ∧ (pairOk (tcFmt A.tc) (tcFmt D.tc) = false → exec (.tcvt d a m) s = .next (refusedFor s 4)))
namespace Sys2Proof.Claims

open Sys2Proof.Machine

/-- No thread waits for records of an event queue in an outstanding operation. -/
def noEvwait (s : State) : Prop := ∀ t ∈ s.threads, ∀ o ∈ t.ops, ∀ q n, o.kind ≠ .evwait q n

/-- The generation the thread's next operation gets is not in use: at most 32 operations are outstanding (R108). -/
def freshGen (s : State) : Prop := ∀ o ∈ s.th.ops, o.gen ≠ s.th.opGen

/-- The event queues of a thread's pool but one, and all others, are as they were. -/
def otherQueues (s t : State) (q : BitVec 3) : Prop :=
  ∀ d p r, ¬ (d = dieOf s.th.hwid ∧ p = poolOf s.th.hwid ∧ r = q) → t.evq d p r = s.evq d p r

/-- What FCANCEL can no longer withdraw (R340): the last row of its table. -/
def goesOn (k : OpKind) : Prop :=
  (∃ p, k = .ship p) ∨ (∃ e g b, k = .append e g b) ∨ (∃ e g t, k = .sealOp e g t) ∨ (∃ l, k = .range l) ∨ k = .bamo
    ∨ (∃ g t, k = .free g t) ∨ (∃ w, k = .hostev w) ∨ (∃ x, k = .wdq x) ∨ (∃ q r x n, k = .submit q r x n)
    ∨ (∃ e m f, k = .copy 3 e m f) ∨ ∃ c x r, k = .chsend c x (some r)

/-- What FCANCEL stops, with the word that fills its register (R340): the second row of its table. -/
def stopsWith (k : OpKind) (w : Word) : Prop :=
  (w = statusOf 0 0 0x13 ∧ ((∃ n e m f, n ≠ 3 ∧ k = .copy n e m f) ∨ (∃ n, k = .mms n) ∨ (∃ q n, k = .evwait q n)
      ∨ (∃ c n, k = .chwait c n) ∨ (∃ c x n, k = .chrecv c x n) ∨ ∃ c x, k = .chsend c x none))
    ∨ (w = 0 ∧ ∃ c p, k = .ccnt c p)

/-- The copy commands with their codes (R341). -/
noncomputable def copyInstrs (d a : BitVec 6) : List (Instr × BitVec 2) := [(.cpy d a, 0), (.cpy2d d a, 1), (.cpym d a, 2), (.cpyr d a, 3)]

end Sys2Proof.Claims

/-- R205, R207, R320: an L-core ships MMS with its block's address; on a B-core a block that is not 64-byte aligned raises
ALIGN, one that fails its field checks PERM with its reason, a full command queue or a home makes the thread wait, and an
accepted command enters the queue as a snapshot and its status register becomes pending; with a trap enable set the thread
stays at the instruction until the command ends. -/
def Obligations.MatrixCommandsEnterTheirQueue : Prop :=
  ∀ (s : State) (d a : BitVec 6), let x := s.rs a; let i : Instr := .mms d a; let r := s.mmsCheck s.th x
    let bc := bcoreOf s.th.hwid
    (isB s.th.hwid = false → ∃ t, exec i s = .next t ∧ ships s t (.s d) true (wordOf i) [.scalar ⟨x, 0⟩])
    ∧ (isB s.th.hwid = true →
      (x.toNat % 64 ≠ 0 → exec i s = .next (trapped s 0x03 x))
      ∧ (r.2 = none → exec i s = .next r.1)
      ∧ (∀ k, r.2 = some (.error (.perm k)) → exec i s = .next (refusedFor r.1 k.toNat))
      ∧ (∀ c v, r.2 = some (.error (.trap c v)) → c ≠ 0x07 → c ≠ 0x08 → exec i s = .next (trapped r.1 c v))
      ∧ (∀ b, r.2 = some (.ok b) → 16 ≤ (r.1.bcore bc).mcq.length → exec i s = .next r.1)
      ∧ (∀ b, r.2 = some (.ok b) → (r.1.bcore bc).mcq.length < 16 →
        ∃ t e, exec i s = .next t ∧ (t.bcore bc).mcq = (r.1.bcore bc).mcq ++ [e] ∧ (t.bcore bc).running = (r.1.bcore bc).running
          ∧ e.block = b ∧ e.hwid = s.th.hwid ∧ e.gen = s.th.opGen ∧ e.native = true ∧ e.rm = s.th.rm ∧ e.enables = s.th.enables
          ∧ (s.th.enables = 0 → starts r.1 t (.s d) ((b.getD 7 0).extractLsb' 20 3) (.mms true) [.matrixCommandStart bc])
          ∧ (s.th.enables ≠ 0 → t.th.wait = .mms s.th.opGen ∧ t.th.pc = s.th.pc ∧ t.th.pendS d = decide (d ≠ 0 ∨ s.th.pendS d = true)
              ∧ noRegs s.th t.th)))

/-- R337 to R340: FTEST says whether a register is pending, FHANDLE gives the token of its operation or 0; FWAIT with 0 or with
the token of an operation that is no longer outstanding answers 0, with a token it cannot have been given raises TOKEN, and
otherwise waits. FCANCEL answers 0 where nothing is pending, 2 where the operation can no longer be withdrawn (a confluence
copy, a dispenser or submit request, a SYSC, a channel send that has its reservation, an append, a seal, a range instruction, a
bell write, a shipped instruction), and otherwise 1 with the register filled with CODE 0x13 (0 for a counter read) and the
operation gone, a waiting channel send from its channel's queue too. -/
def Obligations.FuturesAnswer : Prop :=
  ∀ (s : State) (d a : BitVec 6) (f : BitVec 1), let x := s.rs a
    let op := s.th.ops.find? (fun o => if f = 0 then o.dst.hasS a else o.dst.hasV a)
    let answers (i : Instr) (w : Word) : Prop := ∃ t, exec i s = .next t
      ∧ { t with th := s.th, caches := s.caches, pending := s.pending } = s ∧ (∀ e ∈ t.pending, e ∈ s.pending)
      ∧ bare t.th = bare s.th ∧ scalarRegs s.th t.th d ⟨w, 0⟩
    (op.isSome → ∃ t, exec (.ftest d a f) s = .next t ∧ scalarOnly s t d ⟨1, 0⟩)
    ∧ (op = none → answers (.ftest d a f) 0)
    ∧ (op = none → (∃ t, exec (.fhandle d a f) s = .next t ∧ scalarOnly s t d ⟨0, 0⟩)
        ∧ ∃ t, exec (.fcancel d a f) s = .next t ∧ scalarOnly s t d ⟨0, 0⟩)
    ∧ (∀ o, op = some o → ∃ t w, exec (.fhandle d a f) s = .next t ∧ scalarOnly s t d ⟨w, 0⟩ ∧ w.extractLsb' 0 17 = s.th.hwid
        ∧ w.extractLsb' 17 1 = f ∧ w.extractLsb' 18 6 = a ∧ w.extractLsb' 24 16 = o.gen.extractLsb' 0 16 ∧ w.extractLsb' 40 16 = s.th.asid
        ∧ w.extractLsb' 56 8 = 0)
    ∧ (x = 0 → answers (.fwait d a) 0)
    ∧ (x ≠ 0 → x.extractLsb' 56 8 ≠ 0 ∨ x.extractLsb' 40 16 ≠ s.th.asid ∨ hwidOk (x.extractLsb' 0 17) = false →
        exec (.fwait d a) s = .next (trapped s 0x0C x))
    ∧ (x ≠ 0 → x.extractLsb' 56 8 = 0 → x.extractLsb' 40 16 = s.th.asid → hwidOk (x.extractLsb' 0 17) = true →
        (s.tokenOp x = none → answers (.fwait d a) 0)
        ∧ ∀ u o, s.tokenOp x = some (u, o) → ∃ t, exec (.fwait d a) s = .next t ∧ restKept s t
            ∧ t.th = { s.th with wait := .fwait d (x.extractLsb' 0 17) o.gen o.dst })
    ∧ (∀ o, op = some o →
        (goesOn o.kind → ∃ t, exec (.fcancel d a f) s = .next t ∧ scalarOnly s t d ⟨2, 0⟩)
        ∧ (s.th.live = true → s.th.hwid ≠ orphanId → s.th.wait = .none → (∀ p ∈ s.th.ops, p.gen = o.gen → p = o) →
          ∀ w, stopsWith o.kind w → ∃ t, exec (.fcancel d a f) s = .next t ∧ t.th.ops = s.th.ops.filter (· ≠ o)
            ∧ (d ≠ 0 → t.th.getS d = ⟨1, 0⟩) ∧ (f = 0 → o.dst = .s a → a ≠ d → t.th.getS a = ⟨w, 0⟩)
            ∧ ((∀ n e m k, o.kind ≠ .copy n e m k) → (∀ n, o.kind ≠ .mms n) → t.mem = s.mem)
            ∧ ∀ c x, o.kind = .chsend c x none → ∀ z ∈ t.queues.channels, (s.th.hwid, o.gen) ∉ z.waiting))

/-- R317, R318, R334, R335, R341 to R344: a copy command waits while both entries of its core are taken, raises the cause or
PERM reason of a descriptor that fails its checks, and otherwise takes an entry with its register pending, the engine's work to
come; one with nothing to move is filled at once, with status 0, or 1 for a multicast to no pool. -/
def Obligations.CopiesTakeAnEntry : Prop :=
  ∀ (s : State) (d a : BitVec 6), let x := s.th.getV a; let h := s.th.hwid; let g := s.th.opGen
    ∀ p ∈ copyInstrs d a, let fn := p.2; let scope : BitVec 3 := x.val.extractLsb' 160 3
      (s.copyFull h = true → exec p.1 s = .next s)
      ∧ (s.copyFull h = false →
        (∀ r, s.copyBad fn x = some (.perm r) → exec p.1 s = .next (refusedFor s r.toNat))
        ∧ (∀ c v, s.copyBad fn x = some (.trap c v) → exec p.1 s = .next (trapped s c v))
        ∧ (s.copyBad fn x = none → fn = 3 ∨ (copySrcs fn x ≠ [] ∧ (fn = 2 → maskPools x ≠ [])) →
          ∃ t e, exec p.1 s = .next t ∧ t.queues.copyQ = s.queues.copyQ ++ [(coreOf h, e)] ∧ e.hwid = h ∧ e.gen = g ∧ e.desc = x
            ∧ e.fn = fn ∧ e.status = none ∧ starts s t (.s d) scope (.copy fn x s.th.rm s.th.enables)
                [if fn = 3 then .confluenceContribution h g else .copyComplete h g]
            ∧ { t with th := s.th, pending := s.pending, queues := s.queues } = s)
        ∧ (s.copyBad fn x = none → fn ≠ 3 → (copySrcs fn x = [] ∨ (fn = 2 ∧ maskPools x = [])) →
          s.th.live = true → h ≠ orphanId → freshGen s → s.th.wait = .none →
          ∃ t, exec p.1 s = .next t ∧ t.mem = s.mem
            ∧ (d ≠ 0 → t.th.getS d = ⟨statusOf 0 0 (if fn = 2 ∧ maskPools x = [] then 1 else 0), 0⟩)
            ∧ (∀ n, n ≠ d → t.th.getS n = s.th.getS n) ∧ t.th.ops = s.th.ops))

/-- R323, R345: EVWAIT for n records is filled at once with their count when they are there, else its register is pending;
EVPOP takes the oldest record with its valid bit, or 0 from an empty queue; EVPOST appends a record, or waits while 32 are
there or earlier stores are not performed. A queue number or count out of range raises PERM with its reason. -/
def Obligations.EventQueuesAnswer : Prop :=
  ∀ (s : State) (d a b : BitVec 6), let x := s.rs a; let n := (s.rs b).toNat; let q : BitVec 3 := x.extractLsb' 0 3
    let rs := s.evq (dieOf s.th.hwid) (poolOf s.th.hwid) q
    (8 ≤ x.toNat → exec (.evwait d a b) s = .next (refusedFor s 8) ∧ exec (.evpop d a) s = .next (refusedFor s 8))
    ∧ (x.toNat < 8 → n = 0 ∨ 32 < n → exec (.evwait d a b) s = .next (refusedFor s 2))
    ∧ (x.toNat < 8 → n ≠ 0 → n ≤ 32 → noEvwait s → (rs.length < n →
          ∃ t, exec (.evwait d a b) s = .next t ∧ starts s t (.s d) 0 (.evwait q n) [] ∧ { t with th := s.th } = s)
        ∧ (n ≤ rs.length → s.th.live = true → s.th.hwid ≠ orphanId → freshGen s → s.th.wait = .none →
          ∃ t, exec (.evwait d a b) s = .next t ∧ t.mem = s.mem ∧ t.evq (dieOf s.th.hwid) (poolOf s.th.hwid) q = rs
            ∧ scalarRegs s.th t.th d ⟨BitVec.ofNat 64 (rs.length % 2 ^ 32 * 65536), 0⟩ ∧ t.th.ops = s.th.ops))
    ∧ (x.toNat < 8 → d.toNat < 48 →
        (rs = [] → ∃ t, exec (.evpop d a) s = .next t ∧ vectorOnly s t d ⟨0, 0⟩)
        ∧ ∀ r rest, rs = r :: rest → ∃ t w, exec (.evpop d a) s = .next t ∧ bare t.th = bare s.th ∧ t.mem = s.mem
          ∧ vectorRegs s.th t.th d ⟨w, 0⟩ ∧ t.evq (dieOf s.th.hwid) (poolOf s.th.hwid) q = rest ∧ otherQueues s t q
          ∧ w.extractLsb' 0 64 = r.status ∧ w.extractLsb' 64 16 = r.tag ∧ w.extractLsb' 80 4 = r.kind ∧ w.extractLsb' 84 17 = r.hwid
          ∧ w.extractLsb' 128 64 = 1 ∧ w.extractLsb' 192 64 = 0)
    ∧ (x.extractLsb' 3 13 ≠ 0 ∨ x.extractLsb' 32 32 ≠ 0 → exec (.evpost a b) s = .next (refusedFor s 1))
    ∧ (x.extractLsb' 3 13 = 0 → x.extractLsb' 32 32 = 0 →
        (32 ≤ rs.length ∨ s.coveredOut s.th none = true → exec (.evpost a b) s = .next s)
        ∧ (rs.length < 32 → s.coveredOut s.th none = false → noEvwait s → ∃ t r, exec (.evpost a b) s = .next t ∧ bare t.th = bare s.th ∧ noRegs s.th t.th
          ∧ t.mem = s.mem ∧ t.evq (dieOf s.th.hwid) (poolOf s.th.hwid) q = rs ++ [r] ∧ otherQueues s t q
          ∧ r.status = s.rs b ∧ r.hwid = s.th.hwid ∧ r.kind = 0 ∧ r.tag = x.extractLsb' 16 16))
namespace Sys2Proof.Claims

open Sys2Proof.Machine

/-- No CHRECV or CHWAIT is outstanding anywhere. -/
def noChanWait (s : State) : Prop :=
  ∀ t ∈ s.threads, ∀ o ∈ t.ops, (∀ c n, o.kind ≠ .chwait c n) ∧ ∀ c x n, o.kind ≠ .chrecv c x n

/-- Where the operation of an instruction is filled at once: the register has its value, it is not pending, and every other
register and every byte is as it was. -/
def fillsNow (s t : State) (d : BitVec 6) (w : Word) : Prop :=
  scalarRegs s.th t.th d ⟨w, 0⟩ ∧ t.th.ops = s.th.ops ∧ t.mem = s.mem

/-- A thread for which an operation may be filled at once: it has a task, is not waiting, and its next generation is free. -/
def fillable (s : State) : Prop :=
  s.th.live = true ∧ s.th.hwid ≠ orphanId ∧ s.th.wait = .none ∧ ∀ o ∈ s.th.ops, o.gen ≠ s.th.opGen

/-- The address of the slot that queue entry `w0` has for reservation `r` (R325). -/
def slotAt (w0 r : Word) : Nat := queueBase w0 + 256 + 256 * (r.toNat % queueSlots w0)

/-- No stash line is kept or mapped, and the memory has its canonical form. -/
def noStash (s : State) : Prop := s.caches.stashLines = [] ∧ s.caches.stashMaps = [] ∧ Memory.wf s.mem = true

/-- Every barrier cell but one is as it was. -/
def otherCells (s t : State) (c : CellId) : Prop := ∀ x, x ≠ c → t.cell? x = s.cell? x

end Sys2Proof.Claims

/-- R324, R334, R346, R326, R347, R348: a channel operand with reserved bits raises PERM reason 1, an undeclared channel reason
7, a count beyond its slots reason 2. CHSEND starts, with its send the last that waits; CHRECV and CHWAIT are filled at once
when the channel holds what they ask for, and start otherwise; CHADV frees n slots and gives RD, or raises CHANNEL with the
number filled. WDQ of an aligned word below B1 of its stash starts a request to the dispenser. SUBMIT waits for the thread's
earlier stores, then reserves the next slot of a queue that admits the job, RSV one more; when the slot is free it is filled at
once with its number, the packet's bytes in the slot, no other byte changed, and the queue's reader awake, and else it stays
pending. A queue that does not admit the job raises PERM reason 9, a length out of range reason 2, and a misaligned address
ALIGN. Which of two failing checks is reported is the model's reading (log entries 20 and 54). -/
def Obligations.ChannelAndQueueRequests : Prop :=
  (∀ (s : State) (d a b : BitVec 6) (dcl : Chan), let x := s.rs b; let l := s.th.lrec; let ch : BitVec 2 := x.extractLsb' 0 2
      let n := (x.extractLsb' 16 32).toNat; let c := s.channel l ch; let full := (c.fl - c.rd).toNat
      let all : List Instr := [.chrecv d a b, .chwait d b, .chadv d b]
      let spare : Prop := x.extractLsb' 48 16 = 0 ∧ x.extractLsb' 2 14 = 0
      (¬ spare → ∀ i ∈ .chsend d a b :: all, exec i s = .next (refusedFor s 1))
      ∧ (spare → n ≠ 0 → exec (.chsend d a b) s = .next (refusedFor s 1))
      ∧ (spare → s.chanDecl l ch = none → (∀ i ∈ all, exec i s = .next (refusedFor s 7))
          ∧ (n = 0 → exec (.chsend d a b) s = .next (refusedFor s 7)))
      ∧ (spare → s.chanDecl l ch = some dcl → s.layers = [] →
        (n = 0 → s.rangesBad s.th true [((s.rs a).toNat, dcl.size)] [] = none → ∃ t, exec (.chsend d a b) s = .next t
          ∧ starts s t (.s d) 5 (.chsend ch (s.rs a) none) [.channelReserve l ch]
          ∧ t.channel l ch = { c with waiting := c.waiting ++ [(s.th.hwid, s.th.opGen)] })
        ∧ (dcl.slots ≤ n → exec (.chrecv d a b) s = .next (refusedFor s 2))
        ∧ (dcl.slots < n → exec (.chwait d b) s = .next (refusedFor s 2))
        ∧ (n ≤ dcl.slots → noChanWait s →
          (full < n → ∃ t, exec (.chwait d b) s = .next t ∧ starts s t (.s d) 5 (.chwait ch n) [] ∧ { t with th := s.th } = s)
          ∧ (n ≤ full → fillable s → ∃ t, exec (.chwait d b) s = .next t ∧ fillsNow s t d (statusOf (c.fl - c.rd) 0 0)))
        ∧ (n < dcl.slots → noChanWait s → s.rangesBad s.th true [] [((s.rs a).toNat, dcl.size)] = none →
          (full ≤ n → ∃ t, exec (.chrecv d a b) s = .next t ∧ starts s t (.s d) 5 (.chrecv ch (s.rs a) n) [] ∧ { t with th := s.th } = s)
          ∧ (∀ u, n < full → fillable s →
              s.chanCopy s.th (dcl.slot (c.rd + BitVec.ofNat 32 n)) (s.rs a).toNat dcl.size = .done u →
            ∃ t, exec (.chrecv d a b) s = .next t ∧ scalarRegs s.th t.th d ⟨0, 0⟩ ∧ t.th.ops = s.th.ops ∧ t.mem = u.mem))
        ∧ ((∀ o ∈ s.th.ops, ∀ q y k, o.kind ≠ .chrecv q y k) →
          (full < n → exec (.chadv d b) s = .next (trapped s 0x0D (BitVec.ofNat 64 full)))
          ∧ (n ≤ full → ∃ t, exec (.chadv d b) s = .next t ∧ bare t.th = bare s.th ∧ t.mem = s.mem
            ∧ scalarRegs s.th t.th d ⟨BitVec.ofNat 64 (c.rd + BitVec.ofNat 32 n).toNat, 0⟩
            ∧ t.channel l ch = { c with rd := c.rd + BitVec.ofNat 32 n }))))
  ∧ ∀ (s : State) (d a b : BitVec 6), let x := s.rs a; let o := x.toNat - 0x800000000000
      let q : BitVec 8 := (s.rs b).extractLsb' 0 8; let ag := s.th.engine; let ps := s.engPlaces ag false x.toNat 8
      let n := natOfBytes (s.engRead ag [] ps).2 % 32
      let r := s.reserveSlot q; let u := r.1
      let sound : Prop := (s.rs b).toNat < 256 ∧ x.toNat % 16 = 0 ∧ s.rangesBad s.th true [(x.toNat, 16)] [] = none
        ∧ s.dataCheck ag ps false = .ok () ∧ s.engWaits ag false [(x.toNat, 8)] [] = false
      let base := queueBase (s.queueEntry q).1; let slot := slotAt (s.queueEntry q).1 r.2
      let packet := (u.engRead ag [] (u.engPlaces ag false x.toNat (16 * n))).2
      (x.toNat % 4 ≠ 0 → exec (.wdq d a) s = .next (trapped s 0x03 x))
      ∧ (x.toNat % 4 = 0 → x.toNat < 0x800000000000 ∨ poolB s.th.poolb1 < o + 4 → exec (.wdq d a) s = .next (refusedFor s 4))
      ∧ (x.toNat % 4 = 0 → 0x800000000000 ≤ x.toNat → o + 4 ≤ poolB s.th.poolb1 → ∃ t, exec (.wdq d a) s = .next t
          ∧ starts s t (.s d) 2 (.wdq x) [.wdqRequest s.th.hwid s.th.opGen] ∧ { t with th := s.th, pending := s.pending } = s)
      ∧ (256 ≤ (s.rs b).toNat → exec (.submit d a b) s = .next (refusedFor s 1))
      ∧ ((s.rs b).toNat < 256 → x.toNat % 16 ≠ 0 → exec (.submit d a b) s = .next (trapped s 0x03 x))
      ∧ (sound → n < 2 ∨ 16 < n → exec (.submit d a b) s = .next (refusedFor s 2))
      ∧ (sound → 2 ≤ n → n ≤ 16 → s.rangesBad s.th true [(x.toNat, 16 * n)] [] = none →
        (s.queueAdmits q s.th.asid = false → exec (.submit d a b) s = .next (refusedFor s 9))
        ∧ (s.queueAdmits q s.th.asid = true → s.coveredOut s.th none = true → exec (.submit d a b) s = .next s)
        ∧ (s.queueAdmits q s.th.asid = true → s.coveredOut s.th none = false → s.queueShut base 16 = true →
          exec (.submit d a b) s = .next (s.rouseQueue base 16))
        ∧ (s.queueAdmits q s.th.asid = true → s.coveredOut s.th none = false → s.queueShut base 16 = false →
          (u.slotFree q r.2 = false → ∃ t, exec (.submit d a b) s = .next t ∧ starts u t (.s d) 5 (.submit q r.2 x (16 * n)) [])
          ∧ (u.slotFree q r.2 = true → fillable s → u.engRefused ag .engRead x.toNat (16 * n) = false →
            u.dataCheck ag (u.engPlaces ag false x.toNat (16 * n)) false = .ok () →
            u.engWaits ag false [(x.toNat, 16 * n)] [] = false → u.queueShut slot (16 * n) = false →
            ∃ t, exec (.submit d a b) s = .next t
              ∧ scalarRegs s.th t.th d ⟨statusOf (r.2.extractLsb' 0 32) 0 0, 0⟩ ∧ t.th.ops = s.th.ops
              ∧ (t.reader q).awake = true ∧ Instr.launchPacket q ∈ t.pending
              ∧ (noStash s → r.2 = Memory.read64 s.mem base ∧ Memory.read64 t.mem base = r.2 + 1
                ∧ (∀ (i : Nat) (h : i < packet.length), Memory.get t.mem (slot + i) = packet[i])
                ∧ ∀ z, (z < base ∨ base + 8 ≤ z) → (z < slot ∨ slot + packet.length ≤ z) → Memory.get t.mem z = Memory.get s.mem z))))

/-- R377 to R380: BARI sets up or frees a cell of the thread's own class or die; an arrival that is not the last counts and
waits, the last one starts the next phase and wakes the waiters with its number; BARD counts, drops its thread from the phases
to come and gives the phase it found. A cell of another launch, a count out of range, and a thread that has dropped out are
refused. An arrival waits until the thread's earlier stores are performed. On a stack cell the operation is a beat of the bell,
which the instruction waits for. -/
def Obligations.BarriersArrive : Prop :=
  ∀ (s : State) (d a b : BitVec 6) (c : CellId), let x := s.rs a; let y := s.rs b; let me := c.me s.th.hwid
    let count : BitVec 24 := y.extractLsb' 0 24; let owner := s.th.owner
    let mine (z : Cell) : Prop := s.cell? c = some z ∧ z.owner = owner ∧ z.expect ≠ 0 ∧ z.drop.contains me = false
    (x.extractLsb' 10 54 ≠ 0 → ∀ i ∈ [Instr.bari a b, .barr d a, .bard d a], y.extractLsb' 24 40 = 0 → exec i s = .next (refusedFor s 1))
    ∧ (cellOf s.th.hwid x = .ok c → (∀ e i, c ≠ .stack e i) →
      (y.extractLsb' 24 40 = 0 → (∀ z, s.cell? c = some z → z.owner = owner ∧ z.arrived = 0) →
        (c.slots < count.toNat → exec (.bari a b) s = .next (refusedFor s 2))
        ∧ (count.toNat ≤ c.slots → ∃ t, exec (.bari a b) s = .next t ∧ bare t.th = bare s.th ∧ noRegs s.th t.th ∧ t.mem = s.mem
          ∧ otherCells s t c ∧ t.cell? c = if count = 0 then none else some ⟨c, owner, count, 0, 0, 0, []⟩))
      ∧ ((s.cell? c = none ∨ ∃ z, s.cell? c = some z ∧ z.owner ≠ owner) →
        exec (.barr d a) s = .next (refusedFor s 3) ∧ exec (.bard d a) s = .next (refusedFor s 3))
      ∧ (∀ z, s.cell? c = some z → z.owner = owner → z.drop.contains me = true → let v := x ||| (z.phase.zeroExtend 64 <<< 32)
        exec (.barr d a) s = .next (trapped s 0x0A v) ∧ exec (.bard d a) s = .next (trapped s 0x0A v))
      ∧ (∀ z, mine z → s.coveredOut s.th none = true → exec (.barr d a) s = .next s ∧ exec (.bard d a) s = .next s)
      ∧ (∀ z, mine z → s.coveredOut s.th none = false → z.arrived + 1 ≠ z.expect →
        (∃ t, exec (.barr d a) s = .next t ∧ otherCells s t c ∧ t.cell? c = some { z with arrived := z.arrived + 1 }
          ∧ t.th = { s.th with wait := .barr c z.phase d } ∧ t.others = s.others ∧ t.mem = s.mem)
        ∧ ∃ t, exec (.bard d a) s = .next t ∧ otherCells s t c
          ∧ t.cell? c = some { z with arrived := z.arrived + 1, drops := z.drops + 1, drop := me :: z.drop }
          ∧ bare t.th = bare s.th ∧ scalarRegs s.th t.th d ⟨BitVec.ofNat 64 z.phase.toNat, 0⟩ ∧ t.mem = s.mem)
      ∧ (∀ z, mine z → s.coveredOut s.th none = false → z.arrived + 1 = z.expect → s.th.live = true → s.th.wait = .none →
        (∃ t, exec (.barr d a) s = .next t ∧ otherCells s t c
          ∧ t.cell? c = some { z with arrived := 0, drops := 0, expect := z.expect - z.drops, phase := z.phase + 1 }
          ∧ t.th.wait = .none ∧ scalarRegs s.th t.th d ⟨BitVec.ofNat 64 (z.phase + 1).toNat, 0⟩ ∧ t.mem = s.mem
          ∧ ∀ u ∈ s.others, ∀ p e, u.live = true → u.wait = .barr c p e → e ≠ 0 →
              ∃ v ∈ t.others, v.hwid = u.hwid ∧ v.wait = .none ∧ v.getS e = ⟨BitVec.ofNat 64 (z.phase + 1).toNat, 0⟩)
        ∧ ∃ t, exec (.bard d a) s = .next t ∧ otherCells s t c
          ∧ t.cell? c = some { z with arrived := 0, drops := 0, expect := z.expect - (z.drops + 1), phase := z.phase + 1, drop := me :: z.drop }
          ∧ scalarRegs s.th t.th d ⟨BitVec.ofNat 64 z.phase.toNat, 0⟩ ∧ t.mem = s.mem))
    ∧ (∀ e i, cellOf s.th.hwid x = .ok c → c = .stack e i →
        s.ownsBellSlot (dieOf s.th.hwid) s.th.part = true → s.bellFull = false →
        (s.coveredOut s.th none = false →
          (∃ t, exec (.barr d a) s = .next t ∧ beats s t 6 0 (barBeat 1 i 0 me) ∧ t.th = { s.th with wait := .beat d })
          ∧ ∃ t, exec (.bard d a) s = .next t ∧ beats s t 6 0 (barBeat 2 i 0 me) ∧ t.th = { s.th with wait := .beat d })
        ∧ (y.extractLsb' 24 40 = 0 → count.toNat ≤ 8448 → ∃ t, exec (.bari a b) s = .next t
            ∧ beats s t 6 0 (barBeat 0 i count me) ∧ t.th = { s.th with wait := .beat 0 }))

/-- R383, R384: CCNT of a counter of the job gives its status word or its progress, at once, or with the wait bit when it is
DONE; CANCEL gives 0 for a DONE counter, makes an IDLE one DONE and cancelled, and marks an ACTIVE one. A counter that is not
valid or of another job raises PERM reason 3, reserved bits reason 1. -/
def Obligations.CountersAnswer : Prop :=
  ∀ (s : State) (d a b : BitVec 6), let x := s.rs a; let y := s.rs b; let cid : BitVec 12 := x.extractLsb' 0 12
    let c := s.ctr cid; let p := y.getLsbD 1
    let word : Word := if p = true then
        BitVec.ofNat 64 (c.w1.toNat / 2 ^ 58 % 4 * 2 ^ 62 + c.w1.toNat / 2 ^ 60 % 2 * 2 ^ 61 + c.w1.toNat / 2 ^ 57 % 2 * 2 ^ 60
          + c.w2.toNat % 2 ^ 24 * 2 ^ 24 + c.w1.toNat % 2 ^ 24)
      else c.status
    (4096 ≤ x.toNat → exec (.ccnt d a b) s = .next (refusedFor s 1))
    ∧ (4096 ≤ x.toNat → exec (.cancelCounter d a) s = .next (refusedFor s 1))
    ∧ (x.toNat < 4096 → c.valid = false ∨ c.asid ≠ s.th.asid →
        exec (.cancelCounter d a) s = .next (refusedFor s 3) ∧ exec (.ccnt d a b) s = .next (refusedFor s 3))
    ∧ (x.toNat < 4096 → c.valid = true → c.asid = s.th.asid →
      (4 ≤ y.toNat → exec (.ccnt d a b) s = .next (refusedFor s 1)) ∧
      (y.toNat < 4 → y.getLsbD 0 = false → ∃ t, exec (.ccnt d a b) s = .next t ∧ scalarOnly s t d ⟨word, 0⟩)
      ∧ (y.toNat < 4 → y.getLsbD 0 = true → c.state ≠ 2 → ∃ t, exec (.ccnt d a b) s = .next t
        ∧ starts s t (.s d) 5 (.ccnt cid p) [] ∧ { t with th := s.th } = s)
      ∧ (y.toNat < 4 → y.getLsbD 0 = true → c.state = 2 → fillable s → ∃ t, exec (.ccnt d a b) s = .next t ∧ fillsNow s t d word)
      ∧ (2 ≤ c.state.toNat → ∃ t, exec (.cancelCounter d a) s = .next t
          ∧ scalarOnly s t d ⟨if c.state = 2 then 0 else 1, 0⟩)
      ∧ (c.state = 0 → (∀ u ∈ s.threads, ∀ o ∈ u.ops, ∀ k q, o.kind ≠ .ccnt k q) → ∃ t, exec (.cancelCounter d a) s = .next t
          ∧ bare t.th = bare s.th ∧ scalarRegs s.th t.th d ⟨1, 0⟩ ∧ t.mem = s.mem
          ∧ (t.ctr cid).state = 2 ∧ (t.ctr cid).canc = true ∧ (∀ k, k ≠ cid → t.ctr k = s.ctr k))
      ∧ (c.state = 1 → (∀ r ∈ s.launches, r.live = true → r.countedAt c = false) →
          ∃ t, exec (.cancelCounter d a) s = .next t ∧ bare t.th = bare s.th ∧ scalarRegs s.th t.th d ⟨1, 0⟩ ∧ t.mem = s.mem
          ∧ (t.ctr cid).state = 1 ∧ (t.ctr cid).canc = true ∧ (∀ k, k ≠ cid → t.ctr k = s.ctr k)))

namespace Sys2Proof.Claims

open Sys2Proof.Machine

/-- No thread changes, its registers and operations included. -/
def threadsKept (s t : State) : Prop := t.th = s.th ∧ t.others = s.others

/-- No thread and no byte of memory changes. -/
def apart (s t : State) : Prop := threadsKept s t ∧ t.mem = s.mem

/-- No operation of a thread or of an ended task waits for a queue slot or a counter, and no released packet for a slot. -/
def noneWaits (s : State) : Prop :=
  (∀ u ∈ s.threads, ∀ o ∈ u.ops, (∀ q r x n, o.kind ≠ .submit q r x n) ∧ ∀ c p, o.kind ≠ .ccnt c p)
  ∧ (∀ x ∈ s.queues.orphans, ∀ q r y n, x.2.2.kind ≠ .submit q r y n) ∧ s.queues.releases = []

/-- The queue reader has taken a packet: word 0 of the slot is zero, RIDX is one more, every other byte is as it was. -/
def taken (s t : State) (q : BitVec 8) : Prop :=
  let w0 := (s.queueEntry q).1; let r := (s.queueIdx w0).2; let k := slotAt w0 r; let x := queueBase w0 + 8
  Memory.read64 t.mem k = 0 ∧ Memory.read64 t.mem x = r + 1
  ∧ ∀ a, (a < k ∨ k + 8 ≤ a) → (a < x ∨ x + 8 ≤ a) → Memory.get t.mem a = Memory.get s.mem a

/-- A counter's fields. -/
def counterIs (c : Counter) (state : BitVec 2) (ended expect : BitVec 24) (status : Word) : Prop :=
  c.state = state ∧ c.ended = ended ∧ c.expect = expect ∧ c.status = status

end Sys2Proof.Claims

/-- R407, R326, R28 to R30, R353, R373, R31, R383, R384, R46: a doorbell write wakes its queue's reader. A reader whose home
cannot serve it waits; with nothing at its queue's head it sleeps; a packet behind a mark waits while a launch of the preceding
phase has not completed. A launch packet that passes its checks gets the launch record its words give (the least free one, log
entry 37) and starts its counter ACTIVE with EXPECT NGANG; one that fails completes a counter that may be written, with the word
of a rejected launch, or is reported to the host (of every KIND but 2, log entry 34). A phase mark opens its phase, CLOSED 0, and
closes the preceding one, without waiting for it (log entry 35); a rejected one is reported. A release takes one from the WAITS
of the packet its handle names and, for a failed predecessor, sets DOOMED, in one step; a packet that reaches zero reserves the
next slot of its queue, RSV one more, and is copied there when the slot is free: its words with WAITS 0 and its DOOMED bit in
word 2, no other byte, and the queue's reader awake; while the queue is full it waits with its slot. A release also waits while
the packet's home is busy. A host cancel of an IDLE counter makes it DONE with CANC set and the word of a cancelled level, and
changes no counter that is DONE. -/
def Obligations.QueueReadersAndSuccessors : Prop :=
  (∀ (s : State) (q : BitVec 8),
      (∃ t, exec (.doorbellWrite q) s = .next t ∧ t.reader q = { s.reader q with awake := true } ∧ apart s t
        ∧ t.pending = s.pending ++ [.launchPacket q] ∧ (∀ x, x ≠ q → t.reader x = s.reader x))
      ∧ (noneWaits s → s.readerWaits q = true → ∀ i ∈ [Instr.launchPacket q, .phaseMark q], exec i s = .next (s.readerRouse q i))
      ∧ (s.headPacket q = none → s.readerWaits q = false → noneWaits s → ∀ i ∈ [Instr.launchPacket q, .phaseMark q],
          ∃ t, exec i s = .next t ∧ t.reader q = { s.reader q with awake := false } ∧ apart s t ∧ t.pending = s.pending)
      ∧ (∀ p, s.headPacket q = some p → s.gated q = true → s.readerWaits q = false → noneWaits s →
          exec (if pkKind p = 2 then .phaseMark q else .launchPacket q) s
            = .next (s.send (if pkKind p = 2 then .phaseMark q else .launchPacket q)))
      ∧ (∀ p l, s.headPacket q = some p → pkKind p ≠ 2 → s.gated q = false → s.readerWaits q = false → s.packetOk q p = true → pkDoomed p = false →
          s.freeLrec = some l → noneWaits s → Memory.wf s.mem = true →
          ∃ t r, exec (.launchPacket q) s = .next t ∧ threadsKept s t ∧ taken s t q ∧ t.launch? l = some r
            ∧ r.packet = p.take (2 * pkLen16 p) ∧ r.args = pkArgs p ∧ r.asid = s.queueAsid q ∧ r.q = q ∧ r.live = true
            ∧ r.canc = false ∧ r.gangs = [] ∧ r.nextGang = 0 ∧ r.disp = 0 ∧ r.fcount = 0
            ∧ counterIs (t.ctr (pkLaunch p)) 1 0 (pkNGang p) 0 ∧ (t.ctr (pkLaunch p)).canc = false)
      ∧ (∀ p, s.headPacket q = some p → pkKind p ≠ 2 → s.gated q = false → s.readerWaits q = false → s.packetOk q p = false → rejectedSuccs p = [] →
          noneWaits s → Memory.wf s.mem = true → let c := s.ctr (pkLaunch p)
          let writable : Prop := pkLaunch p ≠ 0 ∧ c.valid = true ∧ c.asid = s.queueAsid q ∧ c.level = 0 ∧ c.state ≠ 1
          ∃ t, exec (.launchPacket q) s = .next t ∧ threadsKept s t ∧ taken s t q ∧ t.launches = s.launches
            ∧ (writable → counterIs (t.ctr (pkLaunch p)) 2 0 0 (BitVec.ofNat 64 (0xFF * 2 ^ 45 + 2 ^ 53)) ∧ t.queues.mail = s.queues.mail)
            ∧ (¬ writable → t.counters = s.counters ∧ t.queues.mail = s.queues.mail ++ [.rejection q (pkLaunch p)]))
      ∧ (∀ p, s.headPacket q = some p → pkKind p = 2 → s.gated q = false → s.readerWaits q = false → noneWaits s → Memory.wf s.mem = true →
          let n := pkPhase p; let old := (s.reader q).phase
          ∃ t, exec (.phaseMark q) s = .next t ∧ threadsKept s t ∧ taken s t q ∧ t.launches = s.launches
            ∧ (s.phaseMarkOk q p = true → (t.reader q).phase = n ∧ (t.ctr n).state = 1 ∧ (t.ctr n).closed = false
              ∧ (old ≠ 0 → old ≠ n → (t.ctr old).closed = true) ∧ t.queues.mail = s.queues.mail)
            ∧ (s.phaseMarkOk q p = false → t.counters = s.counters ∧ t.queues.mail = s.queues.mail ++ [.rejection q n])))
  ∧ ∀ (s : State),
      (∀ (asid : BitVec 16) (h : Word) (doomed : Bool) (l : Leaf), let va := (h.extractLsb' 0 48).toNat
        let pa := l.pa + (va + 16) % l.size; let w := Memory.read64 s.mem pa; let waits := (w.extractLsb' 52 11).toNat
        let q : BitVec 8 := h.extractLsb' 48 8; let w0 := (s.queueEntry q).1; let idx := s.queueIdx w0; let base := queueBase w0
        let released (t : State) : Prop := holdersMove s t ∧ t.th = s.th
          ∧ (Memory.read64 t.mem pa).extractLsb' 0 52 = w.extractLsb' 0 52
          ∧ ((Memory.read64 t.mem pa).extractLsb' 52 11).toNat = waits - 1
          ∧ (Memory.read64 t.mem pa).getLsbD 63 = (w.getLsbD 63 || doomed)
        s.walk asid (va + 16) = some l → s.queues.succs = [] →
        (s.succWaits asid h doomed = true → let r := s.succRouse asid h doomed
          exec (.successorRelease asid h doomed) s
            = .next { r with queues := { r.queues with succs := r.queues.succs ++ [⟨asid, doomed, [h], 0⟩] } })
        ∧ (calm s → 2 ≤ waits → ∃ t, exec (.successorRelease asid h doomed) s = .next t ∧ released t ∧ t.queues = s.queues
          ∧ ∀ a, a < pa ∨ pa + 8 ≤ a → Memory.get t.mem a = Memory.get s.mem a)
        ∧ (calm s → waits = 1 → w0.getLsbD 63 = true → (pa + 8 ≤ base ∨ base + 16 ≤ pa) → ∃ v, released v
          ∧ Memory.read64 v.mem base = idx.1 + 1
          ∧ (∀ a, (a < pa ∨ pa + 8 ≤ a) → (a < base ∨ base + 8 ≤ a) → Memory.get v.mem a = Memory.get s.mem a)
          ∧ ((idx.1 - idx.2).toNat < queueSlots w0 →
              exec (.successorRelease asid h doomed) s = .next (v.copySuccessor ⟨asid, h, q, idx.1⟩))
          ∧ (queueSlots w0 ≤ (idx.1 - idx.2).toNat → exec (.successorRelease asid h doomed) s
              = .next { v with queues := { v.queues with releases := v.queues.releases ++ [⟨asid, h, q, idx.1⟩] } })))
      ∧ (∀ (x : Release) (l : Leaf), let va := (x.handle.extractLsb' 0 48).toNat; let p := l.pa + va % l.size
        let src (i : Nat) : Word := Memory.read64 s.mem (p + 8 * i); let n := min (pkLen16 [src 0]) 16
        let slot := slotAt (s.queueEntry x.q).1 x.index; let t := s.copySuccessor x
        noStash s → (∀ i, i < 32 → s.walk x.asid (va + 8 * i) = some l ∧ (va + 8 * i) % l.size = va % l.size + 8 * i) →
        threadsKept s t ∧ (t.reader x.q).awake = true ∧ t.pending = s.pending ++ [.launchPacket x.q]
          ∧ (∀ i, i < 2 * n → Memory.read64 t.mem (slot + 8 * i) = if i = 2 then src 2 &&& 0x800FFFFFFFFFFFFF else src i)
          ∧ ∀ a, a < slot ∨ slot + 16 * n ≤ a → Memory.get t.mem a = Memory.get s.mem a)
      ∧ (∀ (cid : BitVec 12), (s.ctr cid).valid = false ∨ 2 ≤ (s.ctr cid).state.toNat → exec (.hostCancel cid) s = .next s)
      ∧ ∀ (cid : BitVec 12), (s.ctr cid).valid = true → (s.ctr cid).state = 0 → noneWaits s →
          ∃ t, exec (.hostCancel cid) s = .next t ∧ apart s t ∧ (t.ctr cid).state = 2 ∧ (t.ctr cid).canc = true
            ∧ (t.ctr cid).status = BitVec.ofNat 64 (2 ^ 53) ∧ t.launches = s.launches
            ∧ ∀ x, x ≠ cid → t.ctr x = s.ctr x

namespace Sys2Proof.Claims

open Sys2Proof.Machine

/-- The status word of R36 from its fields. -/
def wordOf36 (done faulted flags cause cancelled : Nat) : Word :=
  BitVec.ofNat 64 (done + faulted * 2 ^ 24 + flags * 2 ^ 40 + cause * 2 ^ 45 + cancelled * 2 ^ 53)

/-- `c` combines the status words `a` and `b`, field by field (R36). -/
def combined (a b c : Word) : Prop :=
  let f (lo n : Nat) (w : Word) : Nat := (w.extractLsb' lo n).toNat
  f 0 24 c = min (f 0 24 a + f 0 24 b) 0xFFFFFF ∧ f 24 16 c = min (f 24 16 a + f 24 16 b) 0xFFFF
  ∧ c.extractLsb' 40 5 = a.extractLsb' 40 5 ||| b.extractLsb' 40 5
  ∧ f 45 8 c = (if f 45 8 a = 0 then f 45 8 b else if f 45 8 b = 0 then f 45 8 a else min (f 45 8 a) (f 45 8 b))
  ∧ c.getLsbD 53 = (a.getLsbD 53 || b.getLsbD 53) ∧ f 54 10 c = 0

/-- The word a roll-call node has accumulated. -/
def heldAt (s : State) (l : BitVec 16) (n : RollNode) : Word :=
  ((s.counters.roll.find? (fun x => x.lrec == l && x.node == n)).map (·.word)).getD 0

/-- The word that reaches the launch counter is the last of its launch on its way: no node holds another, no other is in flight,
no task that has ended is still to report. -/
def lastWord (s : State) (l : BitVec 16) (w : Word) : Prop :=
  (∀ a ∈ s.counters.roll, a.lrec ≠ l) ∧ (∀ u ∈ s.threads, u.lrec = l → u.ended = false)
    ∧ (s.counters.rollSent.filter (fun a => a.lrec == l) = []
      ∨ ∃ g, s.counters.rollSent.filter (fun a => a.lrec == l) = [⟨l, .launch, w, g⟩])

/-- A gang of a launch record. -/
def gangAt (s : State) (l : BitVec 16) (k : BitVec 24) : Option Gang := (s.launch? l).map (fun r => r.gang k)

/-- No thread waits in FWAIT for an operation. -/
def nobodyWaits (s : State) (h : BitVec 17) (gen : OpId) : Prop :=
  ∀ u ∈ s.threads, ∀ d r, u.wait ≠ .fwait d h gen r

end Sys2Proof.Claims

/-- R35 to R37, R142, R374: the report of a task that ended frees its thread and its slot and sends its status word to its core
node, and waits while its host B-core still performs an operation of it (log entry 63) or a bell write of it is still to be
applied. A node combines the words it gets and forwards them to its parent when it is ready, else keeps them; at the launch
counter they are combined. A gang with a word still held in a node is not counted as ended (log entry 66). With the last word
there ENDED counts the gangs that have ended, and a launch whose gangs have all ended completes when no thread of it is left
(log entry 66). -/
def Obligations.ReportsReachTheLaunchCounter : Prop :=
  ∀ (s : State),
    (∀ h t w, s.thread? h = some t → t.buf = [] →
      (t.wait = .exiting ∧ w = wordOf36 1 0 (t.flags ||| t.resumeFlags).toNat 0 0 ∨ t.wait = .faulted w ∨ t.wait = .cancelled w) →
      (t.ops ≠ [] ∨ s.beatsOut h = true → exec (.taskExitReport h) s = .next (s.send (.taskExitReport h)))
      ∧ (t.ops = [] → s.beatsOut h = false → ∃ u, exec (.taskExitReport h) s = .next u ∧ u.thread? h = none ∧ (u.slot (dieOf h) (slotOf h)).state = .free
        ∧ .rollcallStatusWord t.lrec (coreNode h) w ∈ u.pending ∧ (s.caches.stashLines = [] → u.mem = s.mem)))
    ∧ (∀ l n w, n ≠ .launch → (∀ a ∈ s.counters.roll, a.lrec = l → a.node = n) →
      ∃ t c, exec (.rollcallStatusWord l n w) s = .next t ∧ apart s t ∧ combined (heldAt s l n) w c
        ∧ (s.nodeReady l n = true → t.pending = s.pending ++ [.rollcallStatusWord l (rollParent n) c]
            ∧ ∀ a ∈ t.counters.roll, a.lrec ≠ l)
        ∧ (s.nodeReady l n = false → t.pending = s.pending ∧ heldAt t l n = c))
    ∧ ∀ l r w, s.launch? l = some r → r.live = true → let k := pkLaunch r.packet
      ((∃ g ∈ r.gangs, (g.state = .ended ∨ g.state = .dropped) ∧ ∃ x ∈ s.counters.roll, x.lrec = l ∧ g.idx ∈ x.gangs) →
          r.endedGangs ≤ (pkNGang r.packet).toNat →
          ∃ t c, exec (.rollcallStatusWord l .launch w) s = .next t ∧ apart s t ∧ t.launches = s.launches
            ∧ combined (s.ctr k).status w c ∧ (t.ctr k).status = c ∧ (t.ctr k).state = (s.ctr k).state
            ∧ (t.ctr k).ended.toNat < (pkNGang r.packet).toNat)
      ∧ (lastWord s l w → (r.endedGangs ≠ (pkNGang r.packet).toNat ∨ ∃ u ∈ s.threads, u.lrec = l) →
          ∃ t c, exec (.rollcallStatusWord l .launch w) s = .next t ∧ apart s t ∧ t.launches = s.launches
            ∧ combined (s.ctr k).status w c ∧ (t.ctr k).status = c ∧ (t.ctr k).state = (s.ctr k).state
            ∧ (r.endedGangs ≠ (pkNGang r.packet).toNat → (t.ctr k).ended = BitVec.ofNat 24 r.endedGangs))
      ∧ (lastWord s l w → r.endedGangs = (pkNGang r.packet).toNat → (∀ u ∈ s.threads, u.lrec ≠ l) → pkSuccs r.packet = [] → noneWaits s →
          (∀ x ∈ [pkGraph r.packet, pkPhase r.packet, pkJob r.packet], x = 0 ∨ x ≠ k) →
          ∃ t c, exec (.rollcallStatusWord l .launch w) s = .next t ∧ apart s t ∧ combined (s.ctr k).status w c
            ∧ counterIs (t.ctr k) 2 (pkNGang r.packet) (s.ctr k).expect c ∧ (t.launch? l).map (·.live) = some false)

/-- R41, R43 to R46, R404: the end of a slice raises a pre-emption request against the gang. A task at its boundary whose
operations have completed stops: its value and flags go into its resume record and its slot is STOPPING; when the last task of
the gang stops, its threads are free and the gang re-enters. At the end of the grace period the task that has not stopped is
cancelled with its flags and its report is sent; a gang whose every task has reached its boundary is not cancelled. A REALIGN
wait that has reached its timeout ends. A slot stays STOPPING until its whole gang has stopped (log entry 67); an expiry or a
timeout before its time changes nothing (log entry 18). -/
def Obligations.GangsStopAndRestart : Prop :=
  ∀ (s : State),
    (∀ l k r c, s.launch? l = some r → (r.gang k).started = some c → pkSlice r.packet ≠ 0 →
      (s.cycle < c + pkSlice r.packet * 2700 → exec (.sliceExpiry l k) s = .next s)
      ∧ (c + pkSlice r.packet * 2700 ≤ s.cycle → (r.gang k).preempt = none → s.gangThreads l k ≠ [] →
          ∃ t, exec (.sliceExpiry l k) s = .next t ∧ (gangAt t l k).map (·.preempt) = some (some s.cycle)
            ∧ (gangAt t l k).map (·.started) = some none ∧ t.mem = s.mem
            ∧ ∀ u ∈ t.gangThreads l k, ∀ p n x, u.wait ≠ .realign p n x))
    ∧ (∀ h t v r, s.thread? h = some t → t.wait = .stopping v → t.ops = [] → t.held = [] → t.buf = [] →
        s.bellOut h 5 = false → t.refused = [] →
        s.launch? t.lrec = some r → let k := t.gangIdx
        let kept (u : State) : Prop := (gangAt u t.lrec k).map (fun g => g.record t.tig)
          = some ⟨t.tig, v, 1, ((r.gang k).record t.tig).flags ||| t.flags⟩
        ((∃ x ∈ s.gangThreads t.lrec k, x.hwid ≠ h ∧ x.wait ≠ .stopped) → ∃ u, exec (.taskStop h) s = .next u ∧ kept u
          ∧ u.thread? h = some { t with wait := .stopped } ∧ (u.slot (dieOf h) (slotOf h)).state = .stopping ∧ u.mem = s.mem)
        ∧ (s.gangThreads t.lrec k = [t] → ∃ u, exec (.taskStop h) s = .next u ∧ kept u ∧ u.thread? h = none
          ∧ u.gangThreads t.lrec k = [] ∧ (gangAt u t.lrec k).map (fun g => (g.state, g.preempt)) = some (.reentered, none)
          ∧ (s.caches.stashLines = [] → pkSuccs r.packet = [] → u.mem = s.mem)))
    ∧ (∀ l k r c x, s.launch? l = some r → (r.gang k).preempt = some c → graceEnd r c ≤ s.cycle → s.gangThreads l k = [x] →
        x.fork = none → x.boundaryReached = false → ∃ t y, exec (.graceExpiry l k) s = .next t ∧ t.thread? x.hwid = some y
          ∧ (∀ o ∈ y.ops, o.dst = .none) ∧ ((∀ o ∈ x.ops, ∀ p, o.kind ≠ .ship p) → y.ops = []) ∧ y.held = [] ∧ y.undo = []
          ∧ y.wait = .cancelled (wordOf36 0 0 (x.flags ||| x.resumeFlags).toNat 0 1) ∧ .taskExitReport x.hwid ∈ t.pending
          ∧ (gangAt t l k).map (·.preempt) = some none ∧ t.mem = s.mem)
    ∧ (∀ l k, (∀ x ∈ s.gangThreads l k, x.boundaryReached = true) → exec (.graceExpiry l k) s = .next s)
    ∧ ∀ h t p n c, s.thread? h = some t → t.wait = .realign p n c →
      (s.cycle < c + n.toNat → exec (.realignTimeout h) s = .next s)
      ∧ (c + n.toNat ≤ s.cycle → ∃ u, exec (.realignTimeout h) s = .next u ∧ u.thread? h = some { t with wait := .none }
          ∧ u.mem = s.mem)
namespace Sys2Proof.Claims

open Sys2Proof.Machine

/-- Only the tables, the launch records and the events in flight change, and the core's last command answered `r`. -/
def commandDone (s t : State) (d : BitVec 6) (r : FwResult) : Prop :=
  (t.firmware d).result = r ∧ { t with tables := s.tables, launches := s.launches, pending := s.pending } = s

/-- The events that one command puts in flight. -/
def sends (s t : State) (e : List Instr) : Prop := t.pending = s.pending ++ e

/-- A thread that has just been bound at first start: the registers that R34 names hold what it says, every other register is
0, and nothing is outstanding. -/
def freshlyBound (v : Thread) (r : Launch) (gang task : Nat) : Prop :=
  let p := r.packet; let number : Word := BitVec.ofNat 64 (gang * pkGang p + task)
  v.live = true ∧ v.pc = BitVec.ofNat 64 (pkEntry p).toNat ∧ v.taskid = number
  ∧ (∀ n, v.getS n = if n = 2 then ⟨number, 0⟩ else ⟨0, 0⟩) ∧ (∀ n, v.getV n = ⟨0, 0⟩) ∧ v.fcsr = 0 ∧ v.ldepth = 0
  ∧ v.tvec = 0 ∧ v.valid = 0 ∧ v.instret = 0 ∧ v.leases = pkLeases p ∧ v.priv = r.priv ∧ v.lrec = r.lrec
  ∧ v.geomdim = BitVec.ofNat 64 (pkGang p * 2 ^ 32 + pkGridY p * 2 ^ 16 + pkGridX p)
  ∧ v.geompos = BitVec.ofNat 64 (task * 2 ^ 32 + gang / pkGridX p % 65536 * 2 ^ 16 + gang % pkGridX p)
  ∧ v.argp = BitVec.ofNat 64 (0x800000100000 + 128 * r.lrec.toNat) ∧ v.ops = [] ∧ v.pfx = none ∧ v.wait = .none

end Sys2Proof.Claims

/-- R354, R355, R360 to R362, R367, R412: what the commands of a running timetable core do. OPEN fills an empty entry with a
launch record, CLOSE empties one that nothing uses, CLAIM gives the next gang of its launch to the die, UNCLAIM gives it back,
LEASE writes a FREE or FAILED lease entry and starts the walk of a FREE one, RELEASE frees one that nothing uses, PREEMPT
raises a request, BELLPART writes PART at the next frame boundary, and a mailbox message of a kind that the filter lets out
goes to the host. A refused command changes nothing but the status word, a refused write sets REFUSED. That OPEN of an entry in
use or of no launch, and LEASE of a FAILED entry, which it writes, are refused (log entry 39), and that a gang given back before
it started may be claimed again (log entry 38), are the model's readings. -/
def Obligations.TimetableCommandsAct : Prop :=
  ∀ (s : State) (d lent : BitVec 6), s.coreRuns d = true →
    (∀ l, ((s.launch? l).isNone = true ∨ ∃ e ∈ s.tables.launchE, e.die = d ∧ e.lent = lent) →
        ∃ t, exec (.openLent d lent l) s = .next t ∧ commandDone s t d .refused ∧ t.tables.launchE = s.tables.launchE)
    ∧ (∀ l, (s.launch? l).isSome = true → (∀ e ∈ s.tables.launchE, e.die = d → e.lent ≠ lent) →
        ∃ t, exec (.openLent d lent l) s = .next t ∧ commandDone s t d .done ∧ t.openLaunch d lent = s.launch? l)
    ∧ (∀ r, s.openLaunch d lent = some r →
      (s.entryBusy d lent = false → (∀ g ∈ r.gangs, g.state ≠ .claimed d) →
        ∃ t, exec (.closeLent d lent) s = .next t ∧ commandDone s t d .done ∧ t.openLaunch d lent = none)
      ∧ (s.entryBusy d lent = true → exec (.closeLent d lent) s = .next (s.fwDone d .refused))
      ∧ (r.nextClaim = none → ∃ t, exec (.claim d lent) s = .next t ∧ commandDone s t d .none ∧ t.launches = s.launches)
      ∧ (∀ g, r.nextClaim = some g → ∃ t, exec (.claim d lent) s = .next t ∧ commandDone s t d (.gang g.idx g.stoppedSet)
          ∧ (gangAt t r.lrec g.idx).map (·.state) = some (.claimed d))
      ∧ (∀ k, (r.gang k).state = .claimed d → (s.gangThreads r.lrec k) = [] →
          (∀ x ∈ s.tables.slots, x.state = .pending → x.gang = k → s.slotLaunch x ≠ some r.lrec) →
          ∃ t, exec (.unclaim d lent k) s = .next t ∧ commandDone s t d .done
            ∧ (gangAt t r.lrec k).map (·.state) = some (if (r.gang k).resume.any (·.state == 1) then .reentered else .fresh))
      ∧ (∀ k, (r.gang k).state = .claimed d → s.gangThreads r.lrec k ≠ [] → (r.gang k).preempt = none →
          ∃ t, exec (.preemptCmd d lent k) s = .next t ∧ (t.firmware d).result = .done ∧ t.mem = s.mem
            ∧ (gangAt t r.lrec k).map (·.preempt) = some (some s.cycle)))
    ∧ (∀ e w0 w1 w2, let x := s.leaseEntry d e
      (x.state = 0 → leaseEntryOk w0 w1 w2 = true → ∃ t, exec (.leaseCmd d e w0 w1 w2) s = .next t ∧ commandDone s t d .done
          ∧ t.leaseEntry d e = ⟨d, e, w0, w1, w2, 1⟩ ∧ sends s t [.leaseWalkDone d e])
      ∧ (x.state = 4 → leaseEntryOk w0 w1 w2 = true → ∃ t, exec (.leaseCmd d e w0 w1 w2) s = .next t
          ∧ commandDone s t d .refused ∧ t.leaseEntry d e = ⟨d, e, w0, w1, w2, 4⟩)
      ∧ (x.state ≠ 0 ∧ x.state ≠ 4 ∨ leaseEntryOk w0 w1 w2 = false → ∃ t, exec (.leaseCmd d e w0 w1 w2) s = .next t
          ∧ commandDone s t d .refused ∧ (t.firmware d).refused = true ∧ t.leaseEntry d e = x)
      ∧ ((x.state = 4 ∨ (x.state = 3 ∧ s.leaseUsers d e = 0)) → ∃ t, exec (.releaseCmd d e) s = .next t
          ∧ commandDone s t d .done ∧ t.leaseEntry d e = { x with state := 0 } ∧ sends s t []))
    ∧ (∀ slot part, let x := s.belltab (stackOf d) slot
      slot ≠ 0 → x.extractLsb' 14 2 = 1 → x.extractLsb' 11 3 = layerOf d →
      ∃ t, exec (.bellpart d slot part) s = .next t ∧ commandDone s t d .done
        ∧ t.tables.bellPend = s.tables.bellPend ++ [(stackOf d, slot, BitVec.ofNat 16 part.toNat, true)])
    ∧ ∀ kind m,
      (FilterRule.mail kind ∉ s.boundary.filter →
        exec (.firmwareMailboxSend d kind m) s = .next (s.fwDone d .refused))
      ∧ (FilterRule.mail kind ∈ s.boundary.filter → (∀ x ∈ s.boundary.fwSend, x.1 = d → x.2 + 2700 ≤ s.cycle) →
        ∃ t, exec (.firmwareMailboxSend d kind m) s = .next t ∧ apart s t ∧ t.queues.mail = s.queues.mail ++ [.firmware d m])

/-- R33, R34, R116, R117, R356 to R359, R362: a bind record written to a FREE or REJECTED slot of a die whose core runs is
rejected with reason 1 when its entry holds no launch; the record of a gang of one task that passes every check starts its
thread, with the state of R34, and its slot is RUNNING; VALID 0 frees a REJECTED slot. A lease walk pins a range that is mapped
and asks the host for one that is not, and waits for a home that sleeps or moves; the host's answers walk it again or refuse
it. -/
def Obligations.BindRecordsStartGangs : Prop :=
  ∀ (s : State) (d : BitVec 6),
    (∀ (slot : BitVec 11) (w0 w1 w2 w3 : Word), let k : TSlot := ⟨d, slot, w0, w1, w2, w3, .pending, 0⟩; let u := s.putSlot k
      let free : Prop := (s.slot d slot).state = .free ∨ (s.slot d slot).state = .rejected
      s.coreRuns d = true →
      (slot.toNat < 1056 → free → w0.getLsbD 63 = true → s.openLaunch d k.lent = none →
        ∃ t, exec (.bindRecordWrite d slot w0 w1 w2 w3) s = .next t ∧ apart s t
          ∧ t.slot d slot = ⟨d, slot, w0, w1, w2, w3, .rejected, 1⟩)
      ∧ (∀ r, slot.toNat < 1056 → free → w0.getLsbD 63 = true → s.openLaunch d k.lent = some r → r.live = true →
        pkGang r.packet = 1 → k.tig = 0 → (r.gang k.gang).resume = [] → u.gangReason r k.gang [k] = 0 →
        (u.tables.slots.filter (fun x => x.die == d && x.state == .pending && x.lent == k.lent && x.gang == k.gang)) = [k] →
        s.thread? k.hwid = none →
        ∃ t v, exec (.bindRecordWrite d slot w0 w1 w2 w3) s = .next t ∧ t.thread? k.hwid = some v
          ∧ freshlyBound v r k.gang.toNat 0 ∧ (t.slot d slot).state = .running
          ∧ (gangAt t r.lrec k.gang).map (·.started) = some (some s.cycle))
      ∧ (slot.toNat < 1056 → (s.slot d slot).state = .rejected → w0.getLsbD 63 = false →
        ∃ t, exec (.bindRecordWrite d slot w0 w1 w2 w3) s = .next t ∧ apart s t ∧ (t.slot d slot).state = .free)
      ∧ ((1056 ≤ slot.toNat ∨ ¬ free) → ∃ t, exec (.bindRecordWrite d slot w0 w1 w2 w3) s = .next t
          ∧ (t.firmware d).refused = true ∧ { t with tables := s.tables } = s ∧ t.tables.slots = s.tables.slots))
    ∧ ∀ e, let x := s.leaseEntry d e
      (x.state = 1 → s.rangeStop x.asid x.base x.len = none → s.rangeMapped x.asid x.base x.len = true → ∃ t, exec (.leaseWalkDone d e) s = .next t ∧ apart s t
        ∧ t.leaseEntry d e = { x with state := 3 } ∧ t.queues.mail = s.queues.mail)
      ∧ (x.state = 1 → s.rangeStop x.asid x.base x.len = none → s.rangeMapped x.asid x.base x.len = false → ∃ t, exec (.leaseWalkDone d e) s = .next t ∧ apart s t
        ∧ t.leaseEntry d e = { x with state := 2 } ∧ t.queues.mail = s.queues.mail ++ [.residency d e])
      ∧ (∀ v, x.state = 1 → s.rangeStop x.asid x.base x.len = some v →
        exec (.leaseWalkDone d e) s = .next ((s.rouseWalk x.asid v).send (.leaseWalkDone d e)))
      ∧ (x.state = 2 → (∃ t, exec (.hostRangeMapped d e) s = .next t ∧ apart s t ∧ t.leaseEntry d e = { x with state := 1 }
          ∧ sends s t [.leaseWalkDone d e])
        ∧ ∃ t, exec (.hostLeaseRefuse d e) s = .next t ∧ apart s t ∧ t.leaseEntry d e = { x with state := 4 } ∧ sends s t [])
namespace Sys2Proof.Claims

open Sys2Proof.Machine

/-- A thread's scalar register `n` holds `x` and every other scalar register what it held. -/
def onlyS (t u : Thread) (n : BitVec 6) (x : SReg) : Prop := u.getS n = x ∧ ∀ m, m ≠ n → u.getS m = t.getS m

/-- Operation (h, gen) is outstanding in a thread of the module, fills scalar register `n`, and nobody waits for it in FWAIT.
-/
def awaited (s : State) (h : BitVec 17) (gen : OpId) (t : Thread) (o : Op) (n : BitVec 6) : Prop :=
  h ≠ orphanId ∧ s.op? h gen = some (t, o) ∧ o.dst = .s n ∧ n ≠ 0 ∧ nobodyWaits s h gen

/-- A guest instruction of B-core `b` that runs for a thread has issued, and one result packet goes back to its sender. -/
def answersGuest (s u : State) (b : BitVec 9) (r : ResultPkt) : Prop :=
  threadsKept s u ∧ (u.bcore b).guests = [] ∧ sends s u [.resultPacket r]

/-- B-core `b` holds one guest, sent by thread `t` for its operation `o`, with nothing older of it to wait for. -/
def guestAlone (s : State) (b : BitVec 9) (p : GuestPkt) (t : Thread) (o : Op) : Prop :=
  (∃ v c, (s.bcore b).guests = [⟨p, v, c⟩]) ∧ s.thread? p.hwid = some t ∧ t.opOfSeq p.seq = some o ∧ s.mayIssue t o p = true

/-- What the undo log saved first of scalar register n, else what the register holds. -/
def rolledS (t : Thread) (n : BitVec 6) : SReg :=
  ((t.undo.filterMap (fun u => match u.old with | .s m r => if m = n then some r else none | _ => none)).head?).getD (t.getS n)

/-- The same for a vector register. -/
def rolledV (t : Thread) (n : BitVec 6) : VReg :=
  ((t.undo.filterMap (fun u => match u.old with | .v m r => if m = n then some r else none | _ => none)).head?).getD (t.getV n)

/-- Operation (h, gen) has ended: its register is filled with the word, it is no longer outstanding. -/
def filled (t : State) (h : BitVec 17) (gen : OpId) (x : Thread) (n : BitVec 6) (w : Word) : Prop :=
  ∃ y, t.thread? h = some y ∧ onlyS x y n ⟨w, 0⟩ ∧ y.ops = x.ops.filter (fun p => p.gen != gen) ∧ y.pc = x.pc

end Sys2Proof.Claims

/-- R307 to R310, R315, R316, R392: a packet that finds room enters the guest queue at its priority and each 256 cycles of
waiting raise it by one level; a shipped floating-point instruction issues and its result packet goes back. A shipped wide
atomic acts on the object in the sender's space and returns the old one, FADDA with its flags, or the trap with nothing stored;
a shipped TZERO, TLD or TST acts on the sender's guest tile in its slot (R251, R280, R313, R194). At the sender a result fills
its register and its flags join FCSR; a cause is delivered at the shipped instruction, with bit 7 of TCAUSE set and its ship
sequence in TSEQ, every younger operation is gone, and each register that a younger instruction wrote holds again what it held
before the first of them. -/
def Obligations.GuestsExecuteAndAnswer : Prop :=
  ∀ (s : State),
    (∀ b p, let g := (s.bcore b).guests
      (g.length < 64 → ∃ t, exec (.guestPacket b p) s = .next t ∧ apart s t ∧ sends s t [.guestIssue b]
          ∧ (t.bcore b).guests = g ++ [⟨p, p.prio, s.cycle⟩])
      ∧ (64 ≤ g.length → exec (.guestPacket b p) s = .next (s.send (.guestPacket b p)))
      ∧ (∃ t, exec (.guestAgeing b) s = .next t ∧ apart s t ∧ (t.bcore b).guests
          = g.map (fun e => { e with level := BitVec.ofNat 2 (min 3 (e.pkt.prio.toNat + (s.cycle - e.since) / 256)) })))
    ∧ (∀ b e t o, (s.bcore b).guests = [e] → s.thread? e.pkt.hwid = some t → t.opOfSeq e.pkt.seq = some o →
        wMajor e.pkt.insn ≠ 0x24 → wMajor e.pkt.insn ≠ 0x33 →
        ∃ u, exec (.guestIssue b) s = .next u ∧ apart s u ∧ (u.bcore b).guests = [] ∧ sends s u [.resultPacket (fpGuest e.pkt)])
    ∧ (∀ b p t o r y l, guestAlone s b p t o → wMajor p.insn = 0x24 → p.slots = [.scalar r, y] → calm s →
        let k := wFn p.insn % 16; let x := r.val; let n := wamoSize k
        (x.toNat % n ≠ 0 → ∃ u, exec (.guestIssue b) s = .next u ∧ answersGuest s u b ⟨p.hwid, p.seq, 0x03, 0, x, none⟩ ∧ u.mem = s.mem)
        ∧ (x.toNat % n = 0 → onNormalOf s t x n true true l → let old := numberAt s (paOf l x) n
          let gives (u : State) (fl : Flags) (z : Slot) : Prop :=
            exec (.guestIssue b) s = .next u ∧ answersGuest s u b ⟨p.hwid, p.seq, 0, fl, 0, some z⟩
          (∀ v, y = .wide v → k = 0 → ∃ u, gives u 0 (.wide ⟨BitVec.ofNat 256 old, 0⟩) ∧ writesNumber s u (paOf l x) 16
            (if old = v.val.toNat % 2 ^ 128 then v.val.toNat / 2 ^ 128 else old))
          ∧ (∀ v, y = .wide v → k = 1 → ∃ u, gives u 0 (.wide ⟨BitVec.ofNat 256 old, 0⟩)
            ∧ writesNumber s u (paOf l x) 16 (v.val.toNat / 2 ^ 128))
          ∧ (∀ v, y = .wide v → k = 4 → ∃ u, gives u 0 (.wide ⟨BitVec.ofNat 256 old, 0⟩)
            ∧ (∀ j, j < 8 → numberAt u (paOf l x + 4 * j) 4 = (numberAt s (paOf l x + 4 * j) 4 + (slot32 v j).toNat) % 2 ^ 32)
            ∧ ∀ z, ¬ (paOf l x ≤ z ∧ z < paOf l x + 32) → Memory.get u.mem z = Memory.get s.mem z)
          ∧ ∀ v f, y = .scalar v → (k = 2 ∧ f = F32) ∨ (k = 3 ∧ f = F64) → let w := faddaSum f p.rm old (imgS v)
            (w.2 &&& p.enables = 0 → ∃ u, gives u w.2 (.scalar ⟨BitVec.ofNat 64 old, 0⟩) ∧ writesNumber s u (paOf l x) n w.1)
            ∧ (w.2 &&& p.enables ≠ 0 → ∃ u, exec (.guestIssue b) s = .next u ∧ u.mem = s.mem
              ∧ answersGuest s u b ⟨p.hwid, p.seq, 0x09, 0, w.2.zeroExtend 64, none⟩)))
    ∧ (∀ b p t o, guestAlone s b p t o → wMajor p.insn = 0x33 → (wD p.insn).toNat < 8 →
        let d := wD p.insn; let D := s.guestTile t.hwid d; let good : ResultPkt := ⟨p.hwid, p.seq, 0, 0, 0, none⟩
        let tile (u : State) (z : Tile) : Prop := exec (.guestIssue b) s = .next u ∧ answersGuest s u b good ∧ u.mem = s.mem
          ∧ ∀ k, k.toNat < 8 → u.guestTile t.hwid k = if k = d then z else s.guestTile t.hwid k
        (wFn p.insn = 1 → ∃ u, tile u ⟨D.tc, 0, 0⟩)
        ∧ ∀ rx ry (l : Nat → Leaf), p.slots = [.scalar rx, .scalar ry] → D.tc ≠ 0 → tcValid D.tc = true →
          let x := rx.val; let y := ry.val; let m := tileMem (tcFmt D.tc); let n := tcCols D.tc * m / 8
          let row (r : Nat) : Word := x + BitVec.ofInt 64 (r * y.toInt)
          (wFn p.insn = 2 ∨ wFn p.insn = 3 → x.toNat % 16 ≠ 0 → ∃ u, exec (.guestIssue b) s = .next u ∧ apart s u
            ∧ answersGuest s u b ⟨p.hwid, p.seq, 0x03, 0, x, none⟩)
          ∧ (x.toNat % 16 = 0 → y.toNat % 16 = 0 → calm s →
            (wFn p.insn = 2 → (∀ r, r < tcRows D.tc → onNormalOf s t (row r) n true false (l r)) →
              ∃ u z, tile u z ∧ cellsAre z D (fun r j => numberAt s (paOf (l r) (row r)) n / 2 ^ (m * j) % 2 ^ m))
            ∧ (wFn p.insn = 3 → (∀ r, r < tcRows D.tc → onNormalOf s t (row r) n false true (l r)) →
              ∃ u, exec (.guestIssue b) s = .next u ∧ answersGuest s u b good
                ∧ (∀ r, r < tcRows D.tc → (∀ r', r < r' → r' < tcRows D.tc → paOf (l r) (row r) + n ≤ paOf (l r') (row r')
                      ∨ paOf (l r') (row r') + n ≤ paOf (l r) (row r)) →
                    ∀ j, j < tcCols D.tc → numberAt u (paOf (l r) (row r)) n / 2 ^ (m * j) % 2 ^ m = D.elem r j % 2 ^ m)
                ∧ ∀ z, (∀ r, r < tcRows D.tc → ¬ (paOf (l r) (row r) ≤ z ∧ z < paOf (l r) (row r) + n)) →
                    Memory.get u.mem z = Memory.get s.mem z)))
    ∧ (∀ (r : ResultPkt) t o, s.thread? r.hwid = some t → r.hwid ≠ orphanId → t.opOfSeq r.seq = some o → t.ended = false →
        r.cause ≠ 0 → r.cause ∉ fatalCodes → loopAddr t.tvec ≠ 0 → (∀ x ∈ t.olderOps o.gen, x.trapcap = false) →
        (∀ u ∈ t.undo, ∀ w, u.old ≠ .ctl 0x020 w) →
        ∃ u y, exec (.resultPacket r) s = .next u ∧ u.mem = s.mem ∧ u.thread? r.hwid = some y
          ∧ (∀ n, n ≠ 0 → y.getS n = rolledS t n) ∧ (∀ n, n.toNat < 48 → y.getV n = rolledV t n)
          ∧ y.pc = loopAddr t.tvec ∧ y.tpc = loopAddr o.tpc ∧ y.tcause = BitVec.ofNat 64 (128 + r.cause.toNat) ∧ y.tval = r.tval
          ∧ y.tseq = BitVec.ofNat 64 o.seq.toNat ∧ y.ops = t.olderOps o.gen ∧ y.held = [] ∧ y.heldRes = [] ∧ y.undo = []
          ∧ y.heldFault = none)
    ∧ ∀ (r : ResultPkt) t o, s.thread? r.hwid = some t → r.hwid ≠ orphanId → t.opOfSeq r.seq = some o →
      t.ops.find? (fun x => x.gen == o.gen) = some o → t.undo = [] → t.heldRes = [] → t.ended = false →
      (∀ n v, r.cause = 0 → r.value = some (.scalar v) → o.dst = .s n → n ≠ 0 → (∀ x ∈ t.ops, x.trapcap = false) →
        nobodyWaits s r.hwid o.gen →
        ∃ u y, exec (.resultPacket r) s = .next u ∧ u.mem = s.mem ∧ u.thread? r.hwid = some y ∧ onlyS t y n v
          ∧ y.fcsr = t.fcsr ||| BitVec.ofNat 64 r.flags.toNat ∧ y.ops = t.ops.filter (fun p => p.gen != o.gen) ∧ y.pc = t.pc)
      ∧ (r.cause ≠ 0 → r.cause ∉ fatalCodes → loopAddr t.tvec ≠ 0 → (∀ x ∈ t.olderOps o.gen, x.trapcap = false) →
        ∃ u y, exec (.resultPacket r) s = .next u ∧ u.mem = s.mem ∧ u.thread? r.hwid = some y ∧ noRegs t y
          ∧ y.pc = loopAddr t.tvec ∧ y.tpc = loopAddr o.tpc ∧ y.tcause = BitVec.ofNat 64 (128 + r.cause.toNat) ∧ y.tval = r.tval
          ∧ y.tseq = BitVec.ofNat 64 o.seq.toNat ∧ y.ops = t.olderOps o.gen ∧ y.held = [] ∧ y.heldFault = none)

/-- R206 to R208, R320 to R322: a free matrix unit starts a command of the highest level among those whose thread has no older
command waiting; each 4,096 cycles of waiting raise a
command by one level; a level-3 command takes the unit from a lower one, which is parked in slot 6 or 7; a command past its
threshold moves once to an idle B-core of the die; a split command sends its high half to the partner. When a command ends, D
is written, its future is filled with its status, its flags join FCSR, and the unit is free; a command whose trap window its
sender has not closed yet waits for that. -/
def Obligations.MatrixCommandsRun : Prop :=
  ∀ (s : State) (b : BitVec 9), let c := s.bcore b
    let waited (e : McqEntry) : Nat := e.waited + (s.cycle - e.since)
    let begun (e : McqEntry) : McqEntry :=
      { e with overtaken := none, waited := waited e, ran := if e.ran.contains b then e.ran else e.ran ++ [b] }
    (c.running = none → s.mcqReady c.mcq ≠ [] → ∃ t e, e ∈ s.mcqReady c.mcq
      ∧ (∀ x ∈ s.mcqReady c.mcq, x.level.toNat ≤ e.level.toNat)
      ∧ exec (.matrixCommandStart b) s = .next t ∧ apart s t ∧ (t.bcore b).running = some (begun e)
      ∧ (t.bcore b).mcq = c.mcq.erase e ∧ .mmsComplete b ∈ t.pending
      ∧ ((∀ k ∈ s.queues.bcores, k.1 ≠ b → ∀ x ∈ k.2.mcq, x.hwid ≠ e.hwid) →
        sends s t ((if blkSplit e.block && !e.half && !e.sent then [.mmsSplitHalf b] else []) ++ [.mmsComplete b])))
    ∧ (c.running = none → s.mcqReady c.mcq = [] → exec (.matrixCommandStart b) s = .next s)
    ∧ (∃ t, exec (.mcqAgeing b) s = .next t ∧ apart s t ∧ (t.bcore b).mcq
        = c.mcq.map (fun e => { e with level := BitVec.ofNat 2 (min 3 (e.prio.toNat + waited e / 4096)) }))
    ∧ (∀ r, c.running = some r → r.level ≠ 3 → s.mcqReady (c.mcq.filter (fun e => e.level == 3)) ≠ [] → (c.mcq.filterMap (·.overtaken)).length < 2 →
        ∃ t e k, e ∈ c.mcq ∧ e.level = 3 ∧ (k = 6 ∨ k = 7) ∧ exec (.mcqOvertake b) s = .next t ∧ apart s t
          ∧ (t.bcore b).running = some (begun e)
          ∧ (t.bcore b).mcq = { r with overtaken := some k, since := s.cycle } :: c.mcq.erase e)
    ∧ (∀ target e, let th := (s.mcqmig (BitVec.ofNat 6 (b.toNat / 8)) e.level).toNat
        c.migrate = true → b ≠ target → b.toNat / 8 = target.toNat / 8 → (s.bcore target).mcq = [] →
        (s.bcore target).running = none → c.mcq = [e] → s.olderCommand e = false → e.moved = false → th ≠ 0 → th < waited e →
        ∃ t, exec (.mcqMigrate b target) s = .next t ∧ apart s t ∧ (t.bcore b).mcq = []
          ∧ (t.bcore target).mcq = [{ e with moved := true, no := (s.bcore target).next }] ∧ sends s t [.matrixCommandStart target])
    ∧ ∀ e, c.running = some e →
      (blkSplit e.block = true → e.half = false → e.sent = false → (s.bcore (b ^^^ 1)).mcq.length < 16 →
        ∃ t, exec (.mmsSplitHalf b) s = .next t ∧ apart s t ∧ (t.bcore b).running = some { e with sent := true }
          ∧ (t.bcore (b ^^^ 1)).mcq = (s.bcore (b ^^^ 1)).mcq
              ++ [{ e with half := true, sent := true, prio := e.level, since := s.cycle, waited := 0, ran := [], moved := false,
                           overtaken := none, no := (s.bcore (b ^^^ 1)).next }])
      ∧ (s.windowOpen e = true → exec (.mmsComplete b) s = .next (s.send (.mmsComplete b)))
      ∧ (e.half = true → e.waitsHalf = false → s.windowOpen e = false → ∃ t, exec (.mmsComplete b) s = .next t ∧ apart s t ∧ (t.bcore b).running = none
          ∧ ∀ k x, k ≠ b → (s.bcore k).running = some x → x.hwid = e.hwid → x.gen = e.gen → x.dead = e.dead → x.half = false →
              (t.bcore k).running = some { x with halfDone := true, halfRan := e.ran })
      ∧ (e.half = false → e.waitsHalf = true → exec (.mmsComplete b) s = .next (s.send (.mmsComplete b)))
      ∧ (∀ x o n, let u := (s.putBCore b { c with running := none }).send (.matrixCommandStart b); let r := u.mmsRun b e
          e.half = false → e.waitsHalf = false → s.windowOpen e = false → s.mmsWaits e = false → e.dead = false → e.enables = 0 → awaited s e.hwid e.gen x o n →
          r.bad = none → r.refused = false →
          ∃ t, exec (.mmsComplete b) s = .next t ∧ (t.bcore b).running = none
            ∧ filled t e.hwid e.gen x n (BitVec.ofNat 64 (r.flags.toNat * 256))
            ∧ (t.thread? e.hwid).map (·.fcsr) = some (x.fcsr ||| BitVec.ofNat 64 r.flags.toNat)
            ∧ t.mem = (r.state.engWrite e.agent (r.state.writable e.agent r.writes)).mem)
namespace Sys2Proof.Claims

open Sys2Proof.Machine

/-- A copy command's entry is held by operation (h, gen) and its work is still to be done. -/
def copyReady (s : State) (h : BitVec 17) (gen : OpId) (e : CopyEntry) : Prop :=
  s.copyEntry h gen = some e ∧ e.hwid = h ∧ e.gen = gen ∧ e.status = none ∧ descEven e.desc = false

/-- An arrival is served now: no older one of its thread, no forwarded queue and no free of the page comes first, and the home
is awake. -/
def served (s : State) (h : BitVec 17) (gen : OpId) (page : BitVec 36) : Prop :=
  s.olderArrival h gen page = false ∧ (∀ m ∈ s.caches.migrations, (m.moved = true ∧ m.queued = []) ∨ m.covers page.toNat = false)
    ∧ (isHbm (page ++ 0#16) = true → s.awake (s.homeOf (page ++ 0#16)) = true)
    ∧ (s.pageRec page 0).freeing = none ∧ (s.pageRec page 0).queued = []

/-- The bytes stand in memory from a key on; every other byte is as it was. -/
def placedAt (s t : State) (k : Nat) (bs : List Byte) : Prop :=
  ∀ a, Memory.get t.mem a = if k ≤ a ∧ a < k + bs.length then bs.getD (a - k) 0 else Memory.get s.mem a

end Sys2Proof.Claims

/-- R319, R324, R329, R330, R341, R346, R347, R398, R411: the engines' events. A copy writes what its rows read, fills its
future with status 0 and frees its entry; a range that the boundary filter refuses fills 0x20; a fabric copy with no route
fills 0x20, and one that was sent fills at its last acknowledgement. A record that waits enters its event queue when there is
room. A channel send takes slot WR when there is one and its fill writes the slot and advances FL. The dispenser answers the
next coordinate of the grid, in the stash word and the future. A contribution opens its group. A HOSTEV record goes to the host
and fills 0. That a range which the boundary filter refuses fills 0x20 is the model's reading (log entry 51). -/
def Obligations.EnginesComplete : Prop :=
  ∀ (s : State) (h : BitVec 17) (gen : OpId),
    (∀ e x o n, copyReady s h gen e → awaited s h gen x o n →
      (∀ w, e.fn ≠ 3 → e.acks = none → s.copyWaits x e.fn e.desc = false → w = s.copyWork x e.fn e.desc → w.bad = none →
        (w.filtered = true → ∃ t, exec (.copyComplete h gen) s = .next t ∧ filled t h gen x n 0x20 ∧ t.mem = s.mem)
        ∧ (w.filtered = false → w.refused = true → descFabric e.desc = true →
          s.fabricReaches x.part ((descDst e.desc).extractLsb' 48 12) = true →
          ∃ t, exec (.copyComplete h gen) s = .next t ∧ filled t h gen x n 6 ∧ t.mem = s.mem)
        ∧ (w.filtered = false → w.refused = false → descFabric e.desc = false →
          ∃ t, exec (.copyComplete h gen) s = .next t ∧ filled t h gen x n 0 ∧ t.mem = (w.state.doWrites w.writes).mem
            ∧ t.copyEntry h gen = none)
        ∧ (w.filtered = false → w.refused = false → descFabric e.desc = true →
          (s.fabricReaches x.part ((descDst e.desc).extractLsb' 48 12) = false →
            ∃ t, exec (.copyComplete h gen) s = .next t ∧ filled t h gen x n 0x20 ∧ t.mem = s.mem)
          ∧ (s.fabricReaches x.part ((descDst e.desc).extractLsb' 48 12) = true →
            ∃ t k tx, exec (.copyComplete h gen) s = .next t ∧ threadsKept s t ∧ t.copyEntry h gen = some { e with acks := some k }
              ∧ t.boundary.fabricOut = s.boundary.fabricOut ++ tx ∧ tx.length = k)))
      ∧ (∀ bad : Bool, e.acks = some 1 → ∃ t, exec (.fabricAck h gen bad) s = .next t
          ∧ filled t h gen x n (if e.refused || bad then 0x20 else 0) ∧ t.mem = s.mem ∧ t.copyEntry h gen = none)
      ∧ (∀ (bad : Bool) k, e.acks = some k → 1 < k → ∃ t, exec (.fabricAck h gen bad) s = .next t ∧ apart s t
          ∧ t.copyEntry h gen = some { e with acks := some (k - 1), refused := e.refused || bad }))
    ∧ (∀ e w, s.copyEntry h gen = some e → e.status = some w → noEvwait s →
        let q := descEvq e.desc; let d := dieOf e.who; let p := poolOf e.who
        ((s.evq d p q).length < 32 → ∃ t, exec (.copyEventRecord h gen) s = .next t ∧ apart s t ∧ t.copyEntry h gen = none
          ∧ t.evq d p q = s.evq d p q ++ [⟨w, e.who, if e.fn = 3 then 2 else 1, descTag e.desc, descScope e.desc⟩])
        ∧ (32 ≤ (s.evq d p q).length → exec (.copyEventRecord h gen) s = .next (s.send (.copyEventRecord h gen))))
    ∧ (∀ l ch dcl rest t o src, let c := s.channel l ch
        s.chanDecl l ch = some dcl → c.waiting = (h, gen) :: rest → h ≠ orphanId → s.op? h gen = some (t, o) →
        o.kind = .chsend ch src none → (c.wr - c.rd).toNat < dcl.slots → s.layers = [] → noChanWait s →
        ∃ u, exec (.channelReserve l ch) s = .next u ∧ u.mem = s.mem ∧ .channelSlotFilled l ch c.wr ∈ u.pending
          ∧ u.channel l ch = { c with wr := c.wr + 1, waiting := rest })
    ∧ (∀ l ch dcl x o n src u, let c := s.channel l ch
        s.chanDecl l ch = some dcl → awaited s h gen x o n → o.kind = .chsend ch src (some c.fl) →
        s.sender l ch c.fl = some (h, x, o) → o.gen = gen → c.filled = [] → noChanWait s →
        s.chanCopy x src.toNat (dcl.slot c.fl) dcl.size = .done u →
        ∃ t, exec (.channelSlotFilled l ch c.fl) s = .next t ∧ t.mem = u.mem
          ∧ filled t h gen x n (BitVec.ofNat 64 (c.fl.toNat * 65536)) ∧ t.channel l ch = { c with fl := c.fl + 1 })
    ∧ (∀ x o n a r, awaited s h gen x o n → o.kind = .wdq a → s.launch? x.lrec = some r → s.caches.stashMaps = [] →
        s.layers = [] → Memory.wf s.mem = true → 0x800000000000 ≤ a.toNat → a.toNat < 0x800000100000 - 3 →
        let cells := pkGridX r.packet * pkGridY r.packet; let i := r.disp.toNat
        let v := if i < cells then i % pkGridX r.packet * 65536 + i / pkGridX r.packet else 0xFFFFFFFF
        ∃ t, exec (.wdqRequest h gen) s = .next t ∧ filled t h gen x n (BitVec.ofNat 64 (v % 2 ^ 32 * 65536))
          ∧ writesNumber s t (stashKey (dieOf x.hwid) (poolOf x.hwid) (a.toNat - 0x800000000000)) 4 (v % 2 ^ 32)
          ∧ (i < cells → v < 0xFFFFFFFF → (t.launch? x.lrec).map (·.disp) = some (r.disp + 1)))
    ∧ (∀ x o d rm en, s.op? h gen = some (x, o) → o.kind = .copy 3 d rm en →
        let eng := engineOf x.hwid; let key : BitVec 16 := (descLane d 7).extractLsb' 16 16; let ag := x.engine
        let src := (descSrc d).toNat; let ps := s.engPlaces ag false src (descLen d)
        s.dataCheck ag ps false = .ok () → s.filterRefuses x src (descLen d) = false →
        s.engRefused ag .engRead src (descLen d) = false → s.engWaits ag false [((descSrc d).toNat, descLen d)] [] = false →
        s.engineLoad eng + descLen d ≤ 65536 → (∀ g ∈ s.queues.groups, g.engine ≠ eng) → descLane d 6 ≠ 1 →
        ∃ t g, exec (.confluenceContribution h gen) s = .next t ∧ threadsKept s t ∧ t.queues.groups = s.queues.groups ++ [g]
          ∧ g.engine = eng ∧ g.key = key ∧ g.count = descLane d 6 ∧ g.entry = s.confEntry (descIndex d) ∧ g.rm = rm
          ∧ g.parts = [⟨h, gen, (s.engRead ag [] ps).2, descDst d⟩])
    ∧ ∀ x o n w, awaited s h gen x o n → o.kind = .hostev w → (∀ y ∈ s.queues.lastHostev, y.1 = x.hwid → y.2 + 2700 ≤ s.cycle) →
      ∃ t, exec (.hostevRecordAccept h gen) s = .next t ∧ filled t h gen x n 0 ∧ t.mem = s.mem
        ∧ t.queues.mail = s.queues.mail
            ++ [.hostev w (BitVec.ofNat 64 ((x.launchid.extractLsb' 0 28).toNat * 2 ^ 36 + x.hwid.toNat))]

/-- R227, R228, R230, R253 to R255: the home of an APPEND page gives an append the next offset that is a multiple of its size,
answers −1 when no room is left, and −2 when the page is sealed; once the write is performed and every earlier one is, DONE
passes it and its future is filled with the offset. A seal with no append before it makes the page SEALED, its leaf too, and
fills the number of bytes. -/
def Obligations.HomesAppendAndSeal : Prop :=
  ∀ (s : State) (h : BitVec 17) (gen : OpId) (page : BitVec 36), let g := s.pageRec page 0
    (∀ x o n ea data, let z := data.length; let off := (g.reserve.toNat + (z - 1)) / z * z
      awaited s h gen x o n → o.kind = .append ea page data → served s h gen page → 0 < z → z ≤ 64 →
      (g.isSealed = false → g.seals = [] → 65536 < off + z → ∃ t, exec (.appendArrival h gen) s = .next t
        ∧ filled t h gen x n 0xFFFFFFFFFFFFFFFF ∧ t.mem = s.mem ∧ t.caches = s.caches)
      ∧ (g.isSealed = true → ∃ t y, exec (.appendArrival h gen) s = .next t ∧ t.thread? h = some y
          ∧ onlyS x y n ⟨0xFFFFFFFFFFFFFFFE, 0⟩ ∧ t.mem = s.mem ∧ t.caches = s.caches)
      ∧ (g.isSealed = false → g.seals = [] → off + z ≤ 65536 → Memory.wf s.mem = true → ∃ t, exec (.appendArrival h gen) s = .next t
          ∧ threadsKept s t ∧ sends s t [.appendWriteDone page (BitVec.ofNat 17 off)]
          ∧ (t.pageRec page 0).reserve.toNat = off + z ∧ (t.pageRec page 0).done = g.done
          ∧ (t.pageRec page 0).writes = g.writes ++ [⟨BitVec.ofNat 17 off, BitVec.ofNat 7 z, false, h, gen⟩]
          ∧ placedAt s t (page.toNat * 65536 + g.reserve.toNat) (List.replicate (off - g.reserve.toNat) 0)))
    ∧ (∀ x o n ea data w, awaited s h gen x o n → o.kind = .append ea page data → g.writes = [w] → w.performed = false →
        w.hwid = h → w.gen = gen → g.seals = [] → Memory.wf s.mem = true → s.pageAsleep page = false →
        ∃ t, exec (.appendWriteDone page w.off) s = .next t ∧ filled t h gen x n (BitVec.ofNat 64 w.off.toNat)
          ∧ placedAt s t (page.toNat * 65536 + w.off.toNat) data ∧ (t.pageRec page 0).writes = []
          ∧ (t.pageRec page 0).done = w.off + BitVec.ofNat 17 w.size.toNat)
    ∧ (∀ off, s.pageAsleep page = true →
        exec (.appendWriteDone page off) s = .next ((s.rouse (s.homeOf (page ++ 0#16))).send (.appendWriteDone page off)))
    ∧ (∀ x o n ea pte, awaited s h gen x o n → o.kind = .sealOp ea page pte → served s h gen page → g.writes = [] →
        g.seals = [] → Memory.wf s.mem = true →
        ∃ t, exec (.sealArrival h gen) s = .next t ∧ filled t h gen x n (BitVec.ofNat 64 g.reserve.toNat)
          ∧ (g.isSealed = true → t.mem = s.mem)
          ∧ (g.isSealed = false → (t.pageRec page 0).isSealed = true ∧ (Memory.read64 t.mem pte.toNat).extractLsb' 55 3 = 3
            ∧ ∀ a, a < pte.toNat ∨ pte.toNat + 8 ≤ a → Memory.get t.mem a = Memory.get s.mem a))
namespace Sys2Proof.Claims

open Sys2Proof.Machine

/-- A request for a line has reached its home: the home is awake, no forwarded queue comes first, and the line's page is of a
class whose lines are tracked (R22, R216, R289). -/
def arrives (s : State) (l : BitVec 52) : Prop :=
  (isHbm (pageNo l.toNat ++ 0#16) = true → s.awake (s.homeOf (pageNo l.toNat ++ 0#16)) = true)
  ∧ (∀ m ∈ s.caches.migrations, (m.moved = true ∧ m.queued = []) ∨ m.covers (pageNo l.toNat).toNat = false) ∧ s.appendPage? l.toNat = none

/-- No request is queued for a line. -/
def noneQueued (s : State) (l : BitVec 52) : Prop := ∀ e ∈ s.caches.homeQ, ∀ x, requestMsg e.req = some x → x.line ≠ l

/-- A request for the line that arrives is served at once. -/
def atRest (s : State) (l : BitVec 52) : Prop := arrives s l ∧ s.lineFree l = true ∧ noneQueued s l

/-- The requests of a line that read it, and those that write it (R293, R294). -/
def readsOf (m : CohMsg) : List Instr := [.gets m, .geti m, .getu m]

/-- The requests that leave no other die a copy. -/
def writesOf (m : CohMsg) (mask : BitVec 64) (bytes : BitVec 512) (op : BitVec 4) (wide : Bool) (off : BitVec 6) (v c : Word) : List Instr :=
  [.geto m false, .geto m true, .wrm m mask bytes, .amoh m op wide off v c]

/-- Only the home's records, the messages in flight and the counts of performance events change. -/
def homeOnly (s t : State) : Prop :=
  apart s t ∧ { t with caches := s.caches, pending := s.pending, counters := { t.counters with perf := s.counters.perf } } = s

/-- The bytes of a line under a mask are the message's, every other byte is as it was (R296). -/
def merged (s t : State) (l : BitVec 52) (mask : BitVec 64) (bytes : BitVec 512) : Prop :=
  ∀ a, Memory.get t.mem a = if l.toNat ≤ a ∧ a < l.toNat + 64 ∧ mask.getLsbD (a - l.toNat) = true
    then bytes.extractLsb' (8 * (a - l.toNat)) 8 else Memory.get s.mem a

end Sys2Proof.Claims

/-- R216, R232, R303, R365: a page that may move, with nothing under way on it, has its bytes in the new frame and its leaf
names the frame and the new home, and a redirect follows; while a transaction of the page goes on the old home queues its
requests; a page that may not move is refused to the host (the model's choice, log entry 107); a redirect sends the messages of
the queued requests to the new home. A free of a SEALED page whose home is awake marks it and sends the shootdown to the eight base
dies; a base die takes it for its bell slot; the last of 64 acknowledgements makes the page an empty APPEND page of zero bytes.
A host invalidation drops the TLB entries of its range. -/
def Obligations.PagesMoveAndAreFreed : Prop :=
  ∀ (s : State),
    (∀ asid va frame home, s.walkStop asid va.toNat = none →
        (∀ l, s.walk asid va.toNat = some l → s.movable l frame.toNat = false) →
        exec (.pageMigration asid va frame home) s = .next ((s.thaw (pageNo frame.toNat)).mail (.refusal (.migrate asid va)))
        ∧ ((∀ m ∈ s.caches.migrations, m.moved = true) →
          exec (.pageMigration asid va frame home) s = .next (s.mail (.refusal (.migrate asid va)))))
    ∧ (∀ asid va frame home l, s.walkStop asid va.toNat = none → s.walk asid va.toNat = some l → s.movable l frame.toNat = true →
        s.moveBusy l frame.toNat home = false → s.moveWaits l = true → ∃ t, exec (.pageMigration asid va frame home) s = .next t
          ∧ t.mem = s.mem ∧ threadsKept s t ∧ .pageMigration asid va frame home ∈ t.pending
          ∧ ∃ m ∈ t.caches.migrations, m.page = pageNo l.pa ∧ m.moved = false)
    ∧ (∀ asid va frame home l, s.walkStop asid va.toNat = none → s.walk asid va.toNat = some l → s.movable l frame.toNat = true →
        s.moveBusy l frame.toNat home = false → s.moveWaits l = false → s.pending = [] → s.caches.stashLines = [] → Memory.wf s.mem = true →
        ∃ t, exec (.pageMigration asid va frame home) s = .next t ∧ t.pending = [.redirect (pageNo l.pa)]
          ∧ (∀ i, i < l.size → (frame.toNat + i < l.pte.toNat ∨ l.pte.toNat + 8 ≤ frame.toNat + i) →
              Memory.get t.mem (frame.toNat + i) = Memory.get s.mem (l.pa + i))
          ∧ (let e := Memory.read64 t.mem l.pte.toNat
            e.extractLsb' 16 36 = frame.extractLsb' 16 36 ∧ e.extractLsb' 58 6 = home)
          ∧ (∀ e ∈ t.caches.tlbs, (e.leaf.extractLsb' 16 36).toNat * 65536 < l.pa ∨ l.pa + l.size ≤ (e.leaf.extractLsb' 16 36).toNat * 65536))
    ∧ (∀ m page, s.caches.migrations.find? (fun x => x.page == page && x.moved && !x.queued.isEmpty) = some m →
        ∃ t, exec (.redirect page) s = .next t ∧ homeOnly s t ∧ (∀ e, e ∈ t.pending ↔ e ∈ s.pending ∨ ∃ r ∈ m.queued, r.who = none ∧ r.req = e)
          ∧ t.caches.migrations = s.caches.migrations.filter (fun x => !x.moved || !x.queued.isEmpty))
    ∧ (∀ asid va, s.walkStop asid va.toNat = none → (∀ l, s.walk asid va.toNat = some l → l.cls ≠ 3) →
        exec (.hostFree asid va) s = .next (s.mail (.refusal (.free asid va))))
    ∧ (∀ asid va l, s.walkStop asid va.toNat = none → s.walk asid va.toNat = some l → l.cls = 3 → (s.pageRec (pageNo l.pa) l.pte).freeing = none →
        (isHbm (BitVec.ofNat 52 l.pa) = true → s.awake l.home = true) →
        ∃ t, exec (.hostFree asid va) s = .next t ∧ homeOnly s t ∧ (t.pageRec (pageNo l.pa) 0).freeing = some 0
          ∧ sends s t ((List.range 8).map (fun k => .shootdownMessage (pageNo l.pa) (BitVec.ofNat 3 k))))
    ∧ (∀ page st, ∃ t, exec (.shootdownMessage page st) s = .next t ∧ apart s t ∧ sends s t [.bellSlot st]
        ∧ t.queues.baseQ = s.queues.baseQ ++ [(st, page)])
    ∧ (∀ page (d : BitVec 6) a, let g := s.pageRec page 0; let b : BitVec 64 := a ||| BitVec.ofNat 64 (2 ^ d.toNat)
        g.freeing = some a → s.pageAsleep page = false →
        (b ≠ BitVec.allOnes 64 → ∃ t, exec (.shootdownAck page d) s = .next t ∧ homeOnly s t
          ∧ t.pageRec page 0 = { g with freeing := some b })
        ∧ (b = BitVec.allOnes 64 → g.frees = [] → g.queued = [] → Memory.wf s.mem = true →
            ∃ t, exec (.shootdownAck page d) s = .next t ∧ threadsKept s t
              ∧ (∀ i, i < 65536 → Memory.get t.mem (page.toNat * 65536 + i) = 0)
              ∧ (t.pageRec page 0).reserve = 0 ∧ (t.pageRec page 0).done = 0 ∧ (t.pageRec page 0).isSealed = false
              ∧ (t.pageRec page 0).freeing = none
              ∧ ((g.pte.toNat + 8 ≤ page.toNat * 65536 ∨ page.toNat * 65536 + 65536 ≤ g.pte.toNat) →
                (Memory.read64 t.mem g.pte.toNat).extractLsb' 55 3 = 2)))
    ∧ ∀ asid va len, ∃ t, exec (.hostInvalidate asid va len) s = .next t ∧ homeOnly s t
        ∧ (∀ e ∈ t.caches.tlbs, e.asid = asid → e.va.toNat + e.size.toNat ≤ va.toNat ∨ va.toNat + len.toNat ≤ e.va.toNat)

/-- R22, R226, R290 to R301, R409: what a home does with a request. In state U a read or an ownership request is answered with
the line, a masked write merges its bytes, an atomic performs and returns the old value; a line that is shared has every die of
its vector invalidated before a write is served, one that is owned has its owner downgraded or recalled. A line in state P
answers POISON, but to a request that writes it whole. A request for a line in use is queued at its slice, one for a sleeping
die waits and wakes the layer. A die with no filter entry answers an INV at once, an owner answers a probe with the line and
keeps it shared or not at all, the last answer completes the request, an owner's data being written first; an owner that
returns its line leaves it in state U, PUTB merges the dirty bytes of an SWM line, and a line that its owner, or a slice, has
LOST is in state P. Of two requests
for a line that reach its home in one cycle, the one at the first port at or after the rotating pointer is served first, the
other next, and the pointer advances by one. -/
def Obligations.CoherenceMessagesAct : Prop :=
  ∀ (s : State) (m : CohMsg) (mask : BitVec 64) (bytes : BitVec 512) (op : BitVec 4) (wide : Bool) (off : BitVec 6) (v c : Word),
    let l := m.line; let all := readsOf m ++ writesOf m mask bytes op wide off v c; let line := BitVec.ofNat 512 (numberAt s l.toNat 64)
    let whole : BitVec 64 := BitVec.allOnes 64
    (atRest s l → s.lineState l = 0 →
      (∃ t, exec (.gets m) s = .next t ∧ homeOnly s t ∧ t.lineState l = 1 ∧ (t.dirOf l).dv.getLsbD m.die.toNat = true
        ∧ sends s t [.dataMsg m false false line])
      ∧ (∃ t, exec (.geto m false) s = .next t ∧ homeOnly s t ∧ t.lineState l = 2 ∧ t.lineOwner l = m.die
        ∧ sends s t [.dataMsg m false false line])
      ∧ (∃ t, exec (.geto m true) s = .next t ∧ homeOnly s t ∧ t.lineState l = 2 ∧ t.lineOwner l = m.die
        ∧ sends s t [.ackMsg m false false])
      ∧ (∃ t, exec (.geti m) s = .next t ∧ homeOnly s t ∧ t.caches = s.caches ∧ sends s t [.dataMsg m false false line])
      ∧ (∃ t, exec (.getu m) s = .next t ∧ homeOnly s t ∧ t.caches = s.caches ∧ sends s t [.dataMsg { m with rq := 3 } false false line])
      ∧ (Memory.wf s.mem = true → ∃ t, exec (.wrm m mask bytes) s = .next t ∧ threadsKept s t ∧ merged s t l mask bytes
        ∧ t.lineState l = 0 ∧ sends s t [.ackMsg m false false])
      ∧ (Memory.wf s.mem = true → ∃ t, exec (.putb m mask bytes) s = .next t ∧ threadsKept s t ∧ merged s t l mask bytes
        ∧ t.lineState l = 0 ∧ sends s t [.ackMsg { m with rq := 3 } false false])
      ∧ (Memory.wf s.mem = true → let n := if wide then 8 else 4; let k := l.toNat + off.toNat / n * n; let old := numberAt s k n
        ∃ t, exec (.amoh m op wide off v c) s = .next t ∧ threadsKept s t ∧ t.lineState l = 0
          ∧ numberAt t k n = amoNew op.toNat n old (v.toNat % 2 ^ (8 * n)) (c.toNat % 2 ^ (8 * n)) % 2 ^ (8 * n)
          ∧ (∀ a, a < k ∨ k + n ≤ a → Memory.get t.mem a = Memory.get s.mem a)
          ∧ sends s t [.dataMsg { m with rq := 3 } false false (BitVec.ofNat 512 old)])
      ∧ (physOf l.toNat = .host → l.toNat % 64 = 0 → (∀ x ∈ s.caches.badSectors, x.toNat / 64 ≠ l.toNat / 64) → ∀ k, ∃ t, exec (.hostSnoop l k) s = .next t ∧ apart s t
          ∧ t.lineState l = 0 ∧ t.queues.mail = s.queues.mail ++ [.read line]))
    ∧ (atRest s l → s.lineState l = 3 →
        (∀ i ∈ [.geto m false, .amoh m op wide off v c] ++ readsOf m,
          ∃ t, exec i s = .next t ∧ homeOnly s t ∧ sends s t [.poisonMsg m])
        ∧ (mask ≠ whole → ∀ i ∈ [Instr.wrm m mask bytes, .putb m mask bytes],
          ∃ t, exec i s = .next t ∧ homeOnly s t ∧ sends s t [.poisonMsg m])
        ∧ (physOf l.toNat = .host → l.toNat % 64 = 0 → ∀ k, ∃ t, exec (.hostSnoop l k) s = .next t ∧ apart s t
          ∧ t.queues.mail = s.queues.mail ++ [.poisoned])
        ∧ (∃ t, exec (.geto m true) s = .next t ∧ homeOnly s t ∧ t.lineState l = 2 ∧ t.lineOwner l = m.die
          ∧ sends s t [.ackMsg m false false])
        ∧ (Memory.wf s.mem = true → ∃ t, exec (.wrm m whole bytes) s = .next t ∧ threadsKept s t ∧ merged s t l whole bytes
          ∧ t.lineState l = 0 ∧ sends s t [.ackMsg m false false]))
    ∧ (atRest s l → s.lineState l = 2 →
      (∀ i ∈ readsOf m, ∃ t, exec i s = .next t ∧ homeOnly s t ∧ t.lineBusy l = true
        ∧ sends s t [.downMsg { m with die := s.lineOwner l }])
      ∧ (∀ i ∈ writesOf m mask bytes op wide off v c, ∃ t, exec i s = .next t ∧ homeOnly s t ∧ t.lineBusy l = true
        ∧ sends s t [.recallMsg { m with die := s.lineOwner l }]))
    ∧ (atRest s l → s.lineState l = 1 →
      (∃ t, exec (.gets m) s = .next t ∧ homeOnly s t ∧ t.lineState l = 1 ∧ (t.dirOf l).dv.getLsbD m.die.toNat = true
        ∧ sends s t [.dataMsg m false false line])
      ∧ ((s.dirOf l).dv ≠ 0 → ∀ i ∈ writesOf m mask bytes op wide off v c, ∃ t, exec i s = .next t ∧ homeOnly s t
        ∧ t.lineBusy l = true
        ∧ sends s t (((List.range 64).filter (fun d => (s.dirOf l).dv.getLsbD d)).map (fun d => .invMsg { m with die := BitVec.ofNat 6 d }))))
    ∧ (atRest s l → s.lineState l = 1 → (s.dirOf l).dv = 0 → ∀ full, ∃ t, exec (.geto m full) s = .next t ∧ homeOnly s t
        ∧ t.lineState l = 2 ∧ t.lineOwner l = m.die ∧ sends s t [.dataMsg m false false line])
    ∧ (arrives s l → s.lineFree l = false → ∀ i ∈ all,
        ((s.sliceQueue l).length < 64 → ∃ t, exec i s = .next t ∧ homeOnly s t ∧ t.caches.homeQ = s.caches.homeQ ++ [⟨i, none⟩] ∧ sends s t [])
        ∧ (64 ≤ (s.sliceQueue l).length → exec i s = .next (s.send i)))
    ∧ (let d := s.homeOf (pageNo l.toNat ++ 0#16)
      isHbm (pageNo l.toNat ++ 0#16) = true → s.awake d = false → ∀ i ∈ all, exec i s = .next ((s.rouse d).send i))
    ∧ (s.probeWaits m = true → ∀ i ∈ [Instr.invMsg m, .recallMsg m, .downMsg m], exec i s = .next (s.send i))
    ∧ (s.probeWaits m = false → s.caches.stashLines = [] →
      (s.dieEntry m.die l = none → exec (.invMsg m) s = .next (s.send (.ackMsg m true true)))
      ∧ (∀ x, s.dieEntry m.die l = some x → ∃ t b, exec (.invMsg m) s = .next t ∧ homeOnly s t ∧ sends s t [.ackMsg m true b]
          ∧ (∀ e ∈ t.caches.classF, e ∈ s.caches.classF)
          ∧ ∀ e ∈ t.caches.classF, e.die = m.die → e.line = l → e.state = 1 → x.holds e.pool = false ∨ s.excluded l m.die e.pool = true)
      ∧ (∃ t b, exec (.recallMsg m) s = .next t ∧ homeOnly s t ∧ t.ownedOn m.die l = false
          ∧ sends s t [if s.ownedOn m.die l then .dataMsg m true b line else .ackMsg m true b])
      ∧ (∃ t b, exec (.downMsg m) s = .next t ∧ homeOnly s t ∧ t.ownedOn m.die l = false
          ∧ sends s t [if s.ownedOn m.die l then .dataMsg m true b line else .ackMsg m true b]
          ∧ ∀ c ∈ s.caches.classF, c.die = m.die → c.line = l → c.state = 2 → c.stash = false →
              ∃ e ∈ t.caches.classF, e.die = m.die ∧ e.pool = c.pool ∧ e.line = l ∧ e.state = 1))
    ∧ (noneQueued s l → s.poolKeeps m.die m.pool = true →
      (∀ b, m.rq = 0 → s.lineState l = 2 → s.lineOwner l = m.die → s.rangesOn m.die l = [] → ∀ i ∈ [Instr.ackMsg m false b, .dataMsg m false b bytes],
        ∃ t, exec i s = .next t ∧ homeOnly s t ∧ (t.classEntry m.die m.pool l).map (·.state) = some 2 ∧ sends s t [])
      ∧ (∀ b, m.rq = 1 → s.lineState l = 1 → (s.dirOf l).dv.getLsbD m.die.toNat = true →
        ∃ t, exec (.dataMsg m false b bytes) s = .next t ∧ homeOnly s t
          ∧ (t.classEntry m.die m.pool l).map (·.state) = some 1 ∧ sends s t [])
      ∧ (∀ b, m.rq = 2 → s.classEntry m.die m.pool l = none → s.dieCopyOf m.die l.toNat = none →
        ∃ t, exec (.dataMsg m false b bytes) s = .next t ∧ homeOnly s t
          ∧ ⟨m.die, m.pool, l, false, bytes⟩ ∈ t.caches.copies ∧ sends s t [])
      ∧ (∀ b, m.rq = 3 → exec (.dataMsg m false b bytes) s = .next s))
    ∧ (∀ b x (d : BitVec 6), s.caches.txs = [x] → x.line = l → x.req = .gets m → x.need = BitVec.ofNat 64 (2 ^ d.toNat) →
        s.caches.homeQ = [] →
        (s.lineState l ≠ 3 → ∃ t, exec (.ackMsg { m with die := d } true b) s = .next t ∧ homeOnly s t ∧ t.lineBusy l = false
          ∧ t.caches.txs = [] ∧ t.lineState l = 1 ∧ sends s t [.dataMsg m false false line])
        ∧ (s.lineState l = 2 → s.lineOwner l = d → Memory.wf s.mem = true →
          ∃ t, exec (.dataMsg { m with die := d } true b bytes) s = .next t ∧ threadsKept s t ∧ merged s t l whole bytes
            ∧ t.lineBusy l = false ∧ t.caches.txs = [] ∧ t.lineState l = 1 ∧ sends s t [.dataMsg m false false bytes]))
    ∧ (noneQueued s l →
      ((s.dieOwns l m.die = false → ∀ b, ∃ t, exec (.puto m b) s = .next t ∧ homeOnly s t ∧ t.lineState l = s.lineState l
          ∧ sends s t [.ackMsg { m with rq := 3 } false false])
        ∧ (s.lineBusy l = false → s.dieOwns l m.die = true →
            (∀ c ∈ s.caches.classF, c.die = m.die → c.line = l → c.pool ≠ m.pool → c.state ≠ 2) →
          (∃ t, exec (.puto m none) s = .next t ∧ homeOnly s t ∧ t.lineState l = 0 ∧ t.classEntry m.die m.pool l = none
            ∧ sends s t [.ackMsg { m with rq := 3 } false false])
          ∧ (Memory.wf s.mem = true → ∃ t, exec (.puto m (some bytes)) s = .next t ∧ threadsKept s t ∧ merged s t l whole bytes
            ∧ t.lineState l = 0 ∧ t.classEntry m.die m.pool l = none ∧ sends s t [.ackMsg { m with rq := 3 } false false])))
      ∧ (m.pool.toNat < 24 → s.dieOwns l m.die = true → (∀ x, .recallMsg x ∉ s.pending ∧ .downMsg x ∉ s.pending) →
          ∃ t, exec (.lostMsg m) s = .next t ∧ homeOnly s t ∧ t.lineState l = 3 ∧ t.classEntry m.die m.pool l = none ∧ sends s t []))
    ∧ (noneQueued s l → m.pool.toNat < 24 → s.dieOwns l m.die = false → exec (.lostMsg m) s = .next s)
    ∧ (noneQueued s l → 24 ≤ m.pool.toNat → (∀ x, .recallMsg x ∉ s.pending ∧ .downMsg x ∉ s.pending) →
        ∃ t, exec (.lostMsg m) s = .next t ∧ apart s t ∧ t.lineState l = 3 ∧ ∀ c ∈ t.caches.dieCopies, c.die = m.die → c.line ≠ l)
    ∧ (m.rq ≠ 1 ∨ s.rangesOn m.die l = [] → ∃ t, exec (.poisonMsg m) s = .next t ∧ homeOnly s t ∧ t.classEntry m.die m.pool l = none ∧ sends s t [])
    ∧ ∀ (p q : BitVec 2) (e e' : Instr), (∀ i ∈ [e, e'], ∃ x, requestMsg i = some x ∧ x.line = l) →
        let ptr := (lookup? s.caches.ports (s.sliceOf l)).getD 0
        (p - ptr).ult (q - ptr) = true → ∀ reqs ∈ [[(p, Racer.request e), (q, .request e')], [(q, .request e'), (p, .request e)]], let t := s.race l reqs
          t.tape = .event e :: .event e' :: s.tape ∧ t.pending = (s.pending.erase e).erase e'
            ∧ lookup? t.caches.ports (s.sliceOf l) = some (ptr + 1)
            ∧ { t with tape := s.tape, pending := s.pending, caches := { t.caches with ports := s.caches.ports } } = s
namespace Sys2Proof.Claims

open Sys2Proof.Machine

/-- Only the boundary's own state changes. -/
def boundaryOnly (s t : State) : Prop := { t with boundary := s.boundary } = s

/-- Only the tables change, and what the queue readers and the counters hold. -/
def tablesOnly (s t : State) : Prop := apart s t ∧ { t with tables := s.tables } = s

/-- Nothing but the next mail to the host. -/
def mails (s t : State) (m : Mail) : Prop := t = { s with queues := { s.queues with mail := s.queues.mail ++ [m] } }

/-- The next mail is an SPDM response with its two signatures, the free values of log entry 10; nothing else changes. -/
def replies (s t : State) (r : SpdmReply) : Prop :=
  ∃ x y, { t with free := s.free } = { s with queues := { s.queues with mail := s.queues.mail ++ [.spdm r x y] } }

/-- No thread has a task. -/
def noTasks (s : State) : Prop := s.th.live = false ∧ s.others = []

/-- The word that a beat of the bell leaves (R265, R327): a store or a swap, a sum, a signed maximum, an OR. -/
def bellWord (op : BitVec 4) (old v : Word) : Word :=
  if op = 1 then old + v else if op = 2 then (if old.toInt < v.toInt then v else old) else if op = 3 then old ||| v else v

end Sys2Proof.Claims

/-- R350 to R352, R362, R363, R367, R368, R372, R386, R387, R407 to R411: what the host and the fabric write. Queue words,
counter words, BELLTAB, the confluence table, select registers and the ASID table take the fields that their rules let the host
write, and keep their contents otherwise; a root that would change a page of a PINNED lease is refused. A host access reads or
writes its bytes at the home, where it takes its place when it must wait; a fabric write that the import table admits is
performed before it is acknowledged, with the marks of its bad flits, any other is refused, and one that the boundary filter
keeps from host memory too (R412). -/
def Obligations.HostAndFabricWrites : Prop :=
  ∀ (s : State),
    (∀ q (v : Word), let e := s.queueEntry q
      (v.extractLsb' 16 48 = 0 → ∃ t, exec (.queueTableWrite q 1 v) s = .next t ∧ apart s t ∧ t.queueEntry q = (e.1, v))
      ∧ (v.extractLsb' 16 48 ≠ 0 → ∃ t, exec (.queueTableWrite q 1 v) s = .next t ∧ apart s t ∧ t.queueEntry q = e)
      ∧ (v.extractLsb' 52 4 = 0 → v.extractLsb' 5 7 = 0 → v.getLsbD 63 = true → 1 ≤ (v.extractLsb' 0 5).toNat →
          (v.extractLsb' 0 5).toNat ≤ 16 → queueBaseOk v = true →
          ((s.queueIdx e.1).1 = (s.queueIdx e.1).2 → ∃ t, exec (.queueTableWrite q 0 v) s = .next t ∧ apart s t
            ∧ t.queueEntry q = (v, e.2) ∧ (t.reader q).awake = true)
          ∧ ((s.queueIdx e.1).1 ≠ (s.queueIdx e.1).2 → e.1.extractLsb' 0 5 ≠ 0 → v.extractLsb' 12 40 ≠ e.1.extractLsb' 12 40 →
            ∃ t, exec (.queueTableWrite q 0 v) s = .next t ∧ apart s t ∧ t.queueEntry q = e)))
    ∧ (∀ cid (v : Word), let c := s.ctr cid; let active : Prop := c.valid = true ∧ c.state = 1
      (¬ active → v.getLsbD 60 = false → ∃ t, exec (.counterEntryWrite cid 1 v) s = .next t ∧ apart s t
        ∧ t.ctr cid = ⟨cid, 0, v &&& 0xF000FFFF00000000, if v.getLsbD 62 then 0 else c.w2, 0⟩)
      ∧ (¬ active → c.valid = false → ∃ t, exec (.counterEntryWrite cid 2 v) s = .next t ∧ apart s t
        ∧ (t.ctr cid).expect = v.extractLsb' 0 24 ∧ (t.ctr cid).w1 = c.w1)
      ∧ (active → c.level = 0 → exec (.counterEntryWrite cid 2 v) s = .next (s.putCtr c))
      ∧ (active → 2 ≤ c.level.toNat → v.getLsbD 60 = true → noneWaits s → ∃ t, exec (.counterEntryWrite cid 1 v) s = .next t
        ∧ apart s t ∧ (t.ctr cid).closed = true ∧ (t.ctr cid).state = if c.ended = c.expect then 2 else 1))
    ∧ (∀ st slot (v : BitVec 16), ∃ t, exec (.belltabWrite st slot v) s = .next t ∧ tablesOnly s t
        ∧ t.tables.bellPend = s.tables.bellPend ++ (if slot = 0 ∨ v.extractLsb' 14 2 = 3 then [] else [(st, slot, v, false)])
        ∧ t.belltab st slot = s.belltab st slot)
    ∧ (∀ i v, ∃ t, exec (.confluenceTableWrite i v) s = .next t ∧ tablesOnly s t
        ∧ t.confEntry i = if confOk v then v else s.confEntry i)
    ∧ (∀ d (off : BitVec 16) (v : Word), off.toNat % 16 = 0 → off.toNat < 0x4880 →
        let old := (s.perf? d off.toNat).select
        ∃ t, exec (.perfSelectWrite d off v) s = .next t ∧ apart s t ∧ let x := (t.perf? d off.toNat).select
          x.getLsbD 63 = v.getLsbD 63 ∧ x.extractLsb' 52 4 = v.extractLsb' 52 4 ∧ x.extractLsb' 0 16 = v.extractLsb' 0 16
          ∧ x.getLsbD 62 = (old.getLsbD 62 && !v.getLsbD 62) ∧ (t.perf? d off.toNat).count = (s.perf? d off.toNat).count)
    ∧ (∀ (a : BitVec 16) (v : Word), ∀ k ∈ [0, 1], let o := 0x4000000 + 16 * a.toNat + 8 * k; let e := s.asidEntry a
        let e' : Word × Word := if k = 0 then (v &&& 0x000FFFFFFFFFF000, e.2) else (e.1, v &&& 0xC00000000000000F)
        let u := { s with tables := { s.tables with asids := assoc s.tables.asids a e' } }
        (s.breaksPin u = true → ∃ t, exec (.hostRegisterWrite ⟨false, BitVec.ofNat 32 o⟩ 8 v) s = .next t
          ∧ mails s t (.refusal (.write (BitVec.ofNat 52 (0x4000000000000 + o)))))
        ∧ (s.breaksPin u = false → u.classPages 2 = [] → u.classPages 3 = [] →
          ∃ t, exec (.hostRegisterWrite ⟨false, BitVec.ofNat 32 o⟩ 8 v) s = .next t ∧ tablesOnly s t ∧ t.asidEntry a = e'))
    ∧ (∀ (pa : BitVec 52) (n : BitVec 7) (bytes : BitVec 512), (physOf pa.toNat = .hbm ∨ physOf pa.toNat = .host) → n ≠ 0 →
        pa.toNat % 64 + n.toNat ≤ 64 → let home := s.homeOf (BitVec.ofNat 52 (lineOf pa.toNat))
        (∀ w, let e := Instr.hostMemAccess pa w n bytes; let line := BitVec.ofNat 52 (lineOf pa.toNat)
          let ask : Instr := if w then .wrm ⟨line, 0, 31, 3, 0⟩ 0 0 else .geti ⟨line, 0, 31, 2, 0⟩
          s.homeHolds (some (.event e)) false (lineOf pa.toNat) home = true →
          exec e s = .next ((s.queueUp ⟨ask, some (.event e)⟩ (lineOf pa.toNat) home).send e))
        ∧ (calm s → ∃ t, exec (.hostMemAccess pa false n bytes) s = .next t ∧ holdersMove s { t with queues := s.queues } ∧ apart s t
          ∧ t.queues = { s.queues with mail := s.queues.mail ++ [.read (BitVec.ofNat 512 (numberAt s pa.toNat n.toNat))] })
        ∧ (calm s → (∀ x ∈ s.tables.leaseE, x.state ≠ 3) → s.tables.asids = [] →
          ∃ t, exec (.hostMemAccess pa true n bytes) s = .next t ∧ holdersMove s t ∧ threadsKept s t
            ∧ writesNumber s t pa.toNat n.toNat bytes.toNat))
    ∧ ∀ m (va : BitVec 48) (n : BitVec 9) (bytes : BitVec 2048) (marks : FlitMarks), n ≠ 0 → n.toNat ≤ 256 →
      let i := Instr.fabricWrite m va n bytes marks
      (s.importOf m va.toNat n.toNat = none → ∃ t, exec i s = .next t ∧ boundaryOnly s t
        ∧ t.boundary.fabricOut = s.boundary.fabricOut ++ [.answer m va true])
      ∧ ∀ asid, let ag := outsideAgent asid i; let wr := [(va.toNat, n.toNat)]; let ps := s.engPlaces ag false va.toNat n.toNat
        let bs : List Byte := (List.range n.toNat).map (fun i => bytes.extractLsb' (8 * i) 8)
        let lets : Prop := ∀ p ∈ ps, physOf p.key = .host → ∀ k, k < p.n →
          s.hostAllowed ((s.asidEntry asid).2.extractLsb' 0 4) (p.key + k) = true
        s.importOf m va.toNat n.toNat = some asid → va.toNat + n.toNat ≤ 0x800000000000 → s.engWalk ag wr = none →
        (s.engRefused ag .engWrite va.toNat n.toNat = true ∨ ¬ lets → ∃ t, exec i s = .next t ∧ boundaryOnly s t
          ∧ t.boundary.fabricOut = s.boundary.fabricOut ++ [.answer m va true])
        ∧ (s.engRefused ag .engWrite va.toNat n.toNat = false → lets → s.engWaits ag false [] wr = true →
          exec i s = .next ((s.rouseEng ag false [] wr).send i))
        ∧ (s.engRefused ag .engWrite va.toNat n.toNat = false → lets → s.engWaits ag false [] wr = false →
          s.dataCheck ag ps true = .ok () →
          ∃ t, exec i s = .next t ∧ t.boundary.fabricOut = s.boundary.fabricOut ++ [.answer m va false]
            ∧ t.mem = (s.engWrite ag (spread ps bs)).mem
            ∧ ∀ k ∈ badFlitSectors ps (badFlits bs marks), k ∈ t.caches.badSectors)

/-- R22, R234, R235, R282, R327, R328, R367: the owner of a bell slot sends the beat at the head of its queue, which writes its
word in the master and in the mirrors of the awake layers of the stack, in that step or, in a mirror that lags, later; an
unowned slot sends nothing; the slots follow one another. Between two frames the pending writes of BELLTAB take effect, and a
waking layer gets the master's words and is awake. A layer that nothing keeps awake sleeps, holds no copy, and the lines it is
home to are in state U. -/
def Obligations.BellAndLayersAct : Prop :=
  ∀ (s : State),
    (∀ (st : BitVec 3) (b : Beat) rest, let i := s.queues.bellSlot[st.toNat]?.getD 0; let e := s.belltab st i
      let d : BitVec 6 := st ++ e.extractLsb' 11 3; let word (k : Nat) := Memory.read64 s.mem k
        let hears := (stackDies st).filter s.awake
      e.extractLsb' 14 2 = 1 → s.bellQueue d (e.extractLsb' 0 4) = b :: rest → s.awake d = true → i ≠ 255 → b.op.toNat ≤ 4 →
      b.die = d → Memory.wf s.mem = true →
      ∃ t, exec (.bellSlot st) s = .next t ∧ t.bellQueue d (e.extractLsb' 0 4) = rest
        ∧ t.queues.bellSlot[st.toNat]? = some (i + 1)
        ∧ (∀ k ∈ bellMasterKey st (8 * b.word.toNat) :: (hears.filter (fun x => x ∉ s.queues.lagging)).map
              (fun x => bellMirrorKey x (8 * b.word.toNat)), Memory.read64 t.mem k = bellWord b.op (word k) b.value)
        ∧ t.queues.mirrorQ = s.queues.mirrorQ ++ (hears.filter (fun x => x ∈ s.queues.lagging)).map (fun x => ⟨x, b⟩)
        ∧ (∀ a, (∀ k ∈ bellMasterKey st (8 * b.word.toNat) :: (stackDies st).map (fun x => bellMirrorKey x (8 * b.word.toNat)),
            a < k ∨ k + 8 ≤ a) → Memory.get t.mem a = Memory.get s.mem a)
        ∧ (∀ x o n, b.op ≠ 0 → d ∉ s.queues.lagging → awaited s b.hwid b.gen x o n →
            filled t b.hwid b.gen x n (word (bellMirrorKey d (8 * b.word.toNat)))))
    ∧ (∀ (st : BitVec 3), let i := s.queues.bellSlot[st.toNat]?.getD 0
        (s.belltab st i).extractLsb' 14 2 = 0 → i ≠ 255 → ∃ t, exec (.bellSlot st) s = .next t ∧ apart s t
          ∧ t.queues.bellQ = s.queues.bellQ ∧ t.queues.bellSlot[st.toNat]? = some (i + 1))
    ∧ (∀ (st : BitVec 3) slot v part, s.queues.bellSlot[st.toNat]?.getD 0 = 0 → s.layers = [] →
        s.tables.bellPend = [(st, slot, v, part)] → let old := s.belltab st slot
        ∃ t, exec (.bellFrameBoundary st) s = .next t ∧ tablesOnly s t ∧ t.tables.bellPend = []
          ∧ (t.belltab st slot).extractLsb' 0 4 = (if part then v else old).extractLsb' 0 4
          ∧ (t.belltab st slot).extractLsb' 11 5 = (if part then old else v).extractLsb' 11 5)
    ∧ (∀ d, s.layers = [⟨d, .asleep⟩] → Memory.wf s.mem = true → s.queues.bellSlot[(stackOf d).toNat]?.getD 0 = 0 →
        (∀ o, o < 2 ^ 20 → Memory.get s.mem (bellMirrorKey d o) = 0) →
        ∃ t, exec (.layerWake d) s = .next t ∧ threadsKept s t ∧ t.awake d = true
          ∧ ∀ o, o < 2 ^ 20 → Memory.get t.mem (bellMirrorKey d o) = Memory.get s.mem (bellMasterKey (stackOf d) o))
    ∧ ∀ d, s.maySleep d = true → (∀ c ∈ s.caches.dieCopies, c.die = d → c.dirty = 0 ∨ s.lineHeld d c.line = false) →
        ∃ t, exec (.layerSleep d) s = .next t ∧ threadsKept s t ∧ t.awake d = false
        ∧ (∀ c ∈ t.caches.copies, c.die ≠ d) ∧ (∀ c ∈ t.caches.dieCopies, c.die ≠ d) ∧ (∀ e ∈ t.caches.classF, e.die ≠ d)
        ∧ (∀ e ∈ t.caches.tlbs, e.unit.die ≠ d) ∧ (∀ x ∈ s.layers, x ∈ t.layers)
        ∧ ∀ l, s.homeOn d l = true → s.lineState l ≠ 3 → t.lineState l = 0

/-- R298, R300, R402, R410, R413 to R423: a start that passes leaves the module ready with the attempt counter 0, its
measurements, each extended by SHA-384 with the digest of what step 7 measures, and its filter, no task, memory, tables and counters at their reset contents, a warm start with HBM, its marks and
CYCLE as they were; one whose image is not signed under the fused keys ends in recovery; one that fails is followed by another,
the third ends in recovery too, which only a verified image ends. An SPDM request of a module that has started or is in
recovery is answered, with signatures. Caps between floor and ceiling are taken, power above a cap and a hot die lower a clock
by a step, and 115 degrees shut the module down. Errors are counted, reported and contained: a clean copy is fetched again, a
line whose only copy is gone is LOST. The model's choices: HBM reads 0 after a cold start (log entry 1), the start that follows
a failed one and the recovery of a module (log entry 47), the floor 0 of a stack's cap (log entry 48), the empty filter of a
configuration that is not signed (log entry 111). -/
def Obligations.StartsAttestationPowerAndErrors : Prop :=
  ∀ (s : State), let f := s.boundary.fuses
    (∀ (r : StartRun), let signed := f.accept r.image
      let good := s.boundary.trained && s.boundary.badLinks.isEmpty
      let open_ : Prop := s.boundary.recovery = false ∨ s.boundary.restart = true
      let warm : Prop := s.boundary.shutdown = false ∧ s.boundary.restart = false ∧ s.boundary.recovery = false
      let built : Prop := r.fuses = true ∧ r.training = true ∧ r.bist = true ∧ r.hbm = true ∧ r.bell = true
      let up (t : State) : Prop := noTasks t ∧ t.boundary.ready = true ∧ t.boundary.attempts = 0 ∧ t.boundary.recovery = false
        ∧ (let loaded := if f.accept r.config = true then r.filter else []
          t.boundary.filter = loaded ∧ t.boundary.measurements = (startDigests f r loaded).map (extendMeasurement 0))
        ∧ t.tables = Tables.empty ∧ t.counters = Counters.empty ∧ t.queues = Queues.empty ∧ t.launches = [] ∧ t.pending = []
        ∧ { t.caches with poison := [], badSectors := [] } = Caches.empty
      (open_ → built → signed = true → r.inTime = true → ∃ t, exec (.coldStart r) s = .next t ∧ up t ∧ t.cycle = 0
        ∧ ∀ a, Memory.wf s.mem = true → Memory.get t.mem a = if physOf a = .host then Memory.get s.mem a else 0)
      ∧ (warm → r.fuses = true → (good = true ∨ r.training = true) → r.bell = true → signed = true → r.inTime = true →
        ∃ t, exec (.warmStart r) s = .next t ∧ up t ∧ t.cycle = s.cycle
          ∧ (∀ l ∈ s.caches.poison, physOf l.toNat = .hbm → l ∈ t.caches.poison)
          ∧ (∀ l ∈ s.caches.badSectors, physOf l.toNat = .hbm → l ∈ t.caches.badSectors)
          ∧ ∀ a, Memory.wf s.mem = true → Memory.get t.mem a
            = if physOf a = .host ∨ physOf a = .hbm then Memory.get s.mem a else 0)
      ∧ (open_ → built → signed = false →
          ∃ t, exec (.coldStart r) s = .next t ∧ t.boundary.recovery = true ∧ t.boundary.ready = false)
      ∧ (open_ → r.fuses = false →
        (s.boundary.attempts.toNat < 2 → ∃ t, exec (.coldStart r) s = .next t ∧ t.boundary.restart = true
          ∧ t.boundary.recovery = false ∧ t.boundary.ready = false)
        ∧ (s.boundary.attempts = 2 → ∃ t, exec (.coldStart r) s = .next t ∧ t.boundary.recovery = true
          ∧ t.boundary.attempts = 3 ∧ t.boundary.ready = false))
      ∧ (¬ open_ → exec (.coldStart r) s = .next s) ∧ (¬ warm → exec (.warmStart r) s = .next s))
    ∧ (s.boundary.starting = true → ∃ t, exec .bootTimeout s = .next t ∧ boundaryOnly s t ∧ t.boundary.starting = false
        ∧ t.boundary.ready = false ∧ t.boundary.recovery = decide (3 ≤ s.boundary.attempts.toNat))
    ∧ (∀ image, s.boundary.recovery = true →
      (f.accept image = true → ∃ t, exec (.recoveryImageLoad image.rsa image.slh) s = .next t ∧ boundaryOnly s t
        ∧ t.boundary.restart = true ∧ t.boundary.attempts = 0)
      ∧ (f.accept image = false → exec (.recoveryImageLoad image.rsa image.slh) s = .next s))
    ∧ ((s.boundary.ready = true ∨ s.boundary.recovery = true) → s.boundary.shutdown = false →
      (∃ t, exec .getVersion s = .next t ∧ replies s t (.version 1 3))
      ∧ (∃ t, exec .getCapabilities s = .next t ∧ replies s t (.capabilities false false))
      ∧ (∃ t, exec (.negotiateAlgorithms true true) s = .next t
          ∧ replies { s with boundary := { s.boundary with negotiated := true } } t (.algorithms true true))
      ∧ (∃ t d, exec .getDigests s = .next t ∧ replies s t (.digests d))
      ∧ (∀ o n, ∃ t d, exec (.getCertificate o n) s = .next t ∧ replies s t (.certificate o n d))
      ∧ (∀ nonce, ∃ t, exec (.spdmChallenge nonce) s = .next t ∧ replies s t (.challengeAuth nonce))
      ∧ (∀ (i : BitVec 8) v, 1 ≤ i.toNat → i.toNat ≤ 4 → (i = 1 → s.boundary.recovery = false) →
          s.boundary.measurements[i.toNat - 1]? = some v →
          ∃ t, exec (.getMeasurements i) s = .next t ∧ replies s t (.measurement i v))
      ∧ (s.boundary.recovery = true → ∃ t, exec (.getMeasurements 1) s = .next t ∧ replies s t (.measurement 1 0)))
    ∧ (∀ w : BitVec 16,
      (1600 ≤ w.toNat → w.toNat ≤ f.moduleCeil.toNat →
        ∃ t, exec (.powerCapSet .module w) s = .next t ∧ boundaryOnly s t ∧ t.boundary.moduleCap = w)
      ∧ (w.toNat < 1600 ∨ f.moduleCeil.toNat < w.toNat → exec (.powerCapSet .module w) s = .next s)
      ∧ (∀ st, w.toNat ≤ f.stackCeil.toNat → ∃ t, exec (.powerCapSet (.stack st) w) s = .next t ∧ boundaryOnly s t
          ∧ t.boundary.stackCap[st.toNat]? = some w)
      ∧ (∀ st, f.stackCeil.toNat < w.toNat → exec (.powerCapSet (.stack st) w) s = .next s)
      ∧ (12 ≤ w.toNat → w.toNat ≤ f.clockCeil.toNat → ∃ t, exec (.powerCapSet .clock w) s = .next t ∧ boundaryOnly s t
          ∧ t.boundary.clockCap.toNat = w.toNat)
      ∧ (w.toNat < 12 ∨ f.clockCeil.toNat < w.toNat → exec (.powerCapSet .clock w) s = .next s))
    ∧ (∀ (st : BitVec 3) c, s.boundary.stackClock[st.toNat]? = some c →
        ∃ t, exec (.powerCapEnforcement st) s = .next t ∧ boundaryOnly s t
          ∧ t.boundary.stackClock[st.toNat]? = some (if 12 < c.toNat then c - 1 else c))
    ∧ (∀ (d : BitVec 6) (c : BitVec 10), let k := s.boundary.clockOf d
      (100 ≤ c.toNat → ∃ t, exec (.thermalThrottle d c) s = .next t ∧ boundaryOnly s t
        ∧ t.boundary.clockOf d = if 12 < k.toNat then k - 1 else k)
      ∧ (c.toNat < 95 → ∃ t, exec (.thermalThrottle d c) s = .next t ∧ boundaryOnly s t ∧ t.boundary.clockOf d = 27)
      ∧ (115 ≤ c.toNat → ∃ t, exec (.thermalShutdown d c) s = .next t ∧ t.boundary.shutdown = true ∧ noTasks t
        ∧ t.boundary.ready = false ∧ t.boundary.attempts = s.boundary.attempts))
    ∧ (∀ u (x : BitVec 52) d p, s.boundary.mcLog.length < 4096 → s.caches.stashLines = [] → let l := x &&& 0xFFFFFFFFFFFC0
      (∃ t, exec (.softErrorCorrected (.cleanCopy u x d p)) s = .next t ∧ boundaryOnly s t ∧ ∃ n, (u, 0, n) ∈ t.boundary.soft ∧ 0 < n)
      ∧ (∃ t, exec (.uncorrectableError (.cleanCopy u x d p)) s = .next t ∧ apart s t
          ∧ { t with boundary := s.boundary, caches := { t.caches with copies := s.caches.copies, dieCopies := s.caches.dieCopies } } = s
          ∧ (∃ n, (u, 2, n) ∈ t.boundary.soft ∧ 0 < n)
          ∧ ∀ c ∈ t.caches.copies, c.die = d → c.pool = p → c.line = l → s.homeHolds none false l.toNat (s.homeOf l) = false
            ∧ c.bytes = BitVec.ofNat 512 (numberAt s l.toNat 64))
      ∧ (s.dieCopyOf d l.toNat = none → ∃ t, exec (.uncorrectableError (.onlyCopy u x d p)) s = .next t ∧ apart s t
          ∧ sends s t [.lostMsg ⟨l, d, p, 0, 0⟩] ∧ ∃ m, m.kind = .lost ∧ t.queues.mail = s.queues.mail ++ [.machineCheck m])
      ∧ (∃ t, exec (.uncorrectableError (.hbm u x)) s = .next t ∧ apart s t ∧ (x &&& 0xFFFFFFFFFFFE0) ∈ t.caches.badSectors
          ∧ ∃ m, m.kind = .uncorrectable ∧ t.queues.mail = s.queues.mail ++ [.machineCheck m])
      ∧ (∃ t, exec (.uncorrectableError (.icache u d p x)) s = .next t ∧ apart s t
          ∧ ∀ b, b ∈ t.caches.iblocks ↔ b ∈ s.caches.iblocks ∧ ¬ (b.die = d ∧ b.pool = p ∧ b.pa.toNat / 64 = x.toNat / 64))
      ∧ ∃ t, exec (.uncorrectableError (.poolOut u d p)) s = .next t ∧ apart s t
          ∧ (∀ e ∈ t.caches.classF, e.die = d → e.pool ≠ p)
          ∧ ∀ e ∈ s.caches.classF, e.die = d → e.pool = p → e.state = 2 → s.dieCopyOf d e.line.toNat = none → .lostMsg ⟨e.line, d, p, 0, 0⟩ ∈ t.pending)
    ∧ (∀ port, ∃ t, exec (.flitRetry port) s = .next t ∧ boundaryOnly s t
        ∧ lookup? t.boundary.retries port = some ((lookup? s.boundary.retries port).getD 0 + 1))
    ∧ ∀ link, ∃ t, exec (.linkUncorrectableError link) s = .next t ∧ boundaryOnly s t ∧ link ∈ t.boundary.badLinks
namespace Sys2Proof.Claims

open Sys2Proof.Machine

/-- Nothing comes from outside, the current thread may issue with its stores performed and no instruction set aside, nobody stands
in a home's queue, and its pc lies on a page it may fetch
from, in no block of an I-cache, on a line that its home can give, with no fault in it; `w` is the word there, the lowest byte
first (R5), with the steps of an open repeat applied (R65). -/
def fetches (s : State) (w : BitVec 32) : Prop :=
  s.tape = [] ∧ s.th.ready = true ∧ s.th.buf = [] ∧ s.th.parked = [] ∧ s.caches.iblocks = [] ∧ s.caches.stashLines = []
  ∧ s.noTickets = true ∧ s.fetchHeld s.th = false ∧ s.fetchError s.th = none
  ∧ ∃ pa, s.fetchPA s.th s.th.pc.toNat = some pa ∧ s.th.stepped (BitVec.ofNat 32 (numberAt s pa 4)) = some w

/-- Instruction words with what they stand for, each written out from the encoding tables of the chapter that defines the
instruction (06, 07, 08, 10, 11, 15, 17, 18, 20, 22 to 25). -/
noncomputable def samples : List (BitVec 32 × Instr) :=
  [ (0x04310501, .sub 3 4 5), (0x1C913FFF, .slti 9 4 (-1)), (0x2F2CC809, .bne 50 51 9), (0x3C610005, .syscFree 6 4),
    (0x4C310403, .ldd 3 4 0 1 3), (0x64709804, .stw 7 2 1 2 4), (0x8C3105D0, .amoadd 3 4 5 1 5),
    (0xA0310500, .vadd 3 4 5 0 0 0 0) ]
  ++ [ (0xC4A2CC0A, .fma 10 11 12 0), (0xCC004206, .mma 0 1 2), (0xD0730004, .cpy 7 12), (0xD401C800, .bari 7 8),
       (0xD8300000, .movc 3 0), (0xFCC32400, .rep 3 1 1 0) ]

end Sys2Proof.Claims

/-- The state right after a cold start: no thread is bound, every register of the slot is 0, every memory is empty and reads 0
(R414's HBM contents are the model's choice, log entry 1, and the registers' values log entry 2); GSHARE is 4 (R119); each
table has its reset contents (R350, R352): no queue, address space, slot, launch entry or lease is valid, no counter or barrier
cell is in use, BELLTAB slot 0 is UNMASTERED and the others tile the mirror; the ceilings are 4,800 W and 520 W (R422). -/
def Obligations.ResetState : Prop :=
  let s := State.reset
  s.th = Thread.idle 0 ∧ s.others = [] ∧ s.tape = [] ∧ s.pending = [] ∧ s.launches = []
  ∧ (∀ n, s.th.getS n = ⟨0, 0⟩) ∧ (∀ n, s.th.getV n = ⟨0, 0⟩) ∧ s.th.fcsr = 0 ∧ s.th.depth = 0
  ∧ s.MemoryCanonical ∧ (∀ k, Memory.get s.mem k = 0)
  ∧ (∀ b, (s.bcore b).gshare = 4)
  ∧ (∀ st, s.belltab st 0 = 0x8000)
  ∧ (∀ st (k : BitVec 8), k ≠ 0 → s.belltab st k = BitVec.ofNat 16 (0x4000 + (k.toNat - 1) % 8 * 2048))
  ∧ (∀ d, s.mcqmig d 0 = 65536 ∧ s.mcqmig d 1 = 16384 ∧ s.mcqmig d 2 = 4096 ∧ s.mcqmig d 3 = 1024)
  ∧ (∀ q, s.queueEntry q = (0, 0)) ∧ (∀ a, s.asidEntry a = (0, 0))
  ∧ (∀ c, s.ctr c = ⟨c, 0, 0, 0, 0⟩) ∧ (∀ c, s.cell? c = none) ∧ (∀ d e, (s.leaseEntry d e).state = 0)
  ∧ s.tables.slots = [] ∧ s.tables.launchE = []
  ∧ s.boundary.ready = true ∧ s.boundary.moduleCap = 4800 ∧ ∀ i, i < 8 → s.boundary.stackCap[i]? = some 520

/-- The words of `samples` decode to what they stand for; the all-zeros word, a reserved major, a vector field above 47 and the
reserved branch condition 6 decode to no instruction (R69, R70). The guest packet of the example in R307 has the header words
given there and takes two flits; every guest packet takes the flits that R306 says. The check of a sector is that of the two
examples in R418. A sanity statement. -/
def Obligations.DecodeSamples : Prop :=
  (∀ p ∈ samples, decodeWord p.1 = .ok p.2)
  ∧ (∀ w ∈ ([0x00000000, 0xE0000000, 0xA0313280, 0x2C6037FB] : List (BitVec 32)), ∀ i, decodeWord w ≠ .ok i)
  ∧ (∀ (l : BitVec 16) (x y : SReg),
      let p : GuestPkt := ⟨0x5766, 0xC4310503, false, 0, false, 1, true, false, 8, 0, 0x21, 0x12, l, [.scalar x, .scalar y], []⟩
      guestWord0 p = 0x00005766C4310503 ∧ guestWord1 p = 0x0002064000210012 ∧ (guestBytes p).length = 64)
  ∧ (∀ p : GuestPkt, (guestBytes p).length = 32 * ((16 + guestPlen p + 31) / 32))
  ∧ sectorCheck (List.replicate 32 0) = 0 ∧ sectorCheck (List.replicate 31 0 ++ [1]) = 0x8BB7

/-- A step runs the decoded instruction. With nothing from outside and a word at the pc that decodes to `i`, its control
register one the thread has (R111), its prefixes in order (R67), its registers not pending (R108), and no refusal it observes
(R254), the step is `exec i`, after the acquires of the fills it observes (R281), when that moves the thread; otherwise the
instruction waits, and the oldest event in flight happens and the next thread gets its turn, or its requests take their places
at their homes. A native instruction that only computes on registers, and waits for one, is set aside (R108). A word that is no instruction
raises ILLEGAL with itself in TVAL, one that refuses its prefixes HINTMIS with its pc (R70). A thread that may not issue leaves
the step to its stores and to the events. What the tape holds happens first, unless the module is shut down (R423). Which of
these comes when is the model's choice (log entry 5). -/
def Obligations.StepRunsDecoded : Prop :=
  ∀ (s : State),
    (∀ w i, fetches s w → decodeWord w = .ok i → s.noCtl w = false → s.hintmis w = false →
      (s.th.parks w = false → s.th.mustWait w = false → s.th.observed w = none → let o := exec i (s.observeReads w)
        step s = (s.settle w i o).getD s.otherTurn
        ∧ (s.th.unseen = [] → s.observeReads w = s)
        ∧ ∀ t, o = .next t →
          (s.th.inShadow = false → s.th.sameSpot t.th = false → t.th.ops.length ≤ 32 →
            step s = .next (s.after (s.perfShipped t)) ∧ (t.counters.perf = [] → t.noTickets = true → step s = .next t))
          ∧ (let queuesKept : Prop := t.pending = s.pending ∧ t.caches.homeQ = s.caches.homeQ
                ∧ t.caches.appendPages = s.caches.appendPages ∧ t.caches.migrations = s.caches.migrations
            s.th.sameSpot t.th = true → (queuesKept → step s = s.otherTurn)
              ∧ (¬ queuesKept → ∃ u, step s = .next u ∧ u.th = s.th ∧ u.others = s.others ∧ u.mem = s.mem
                  ∧ u.pending = t.pending ∧ u.caches.homeQ = t.caches.homeQ)))
      ∧ (s.th.parks w = false → s.th.mustWait w = true → step s = s.otherTurn)
      ∧ (s.th.parks w = true → step s = .next (s.after (s.park w))))
    ∧ (∀ w i, fetches s w → decodeWord w = .ok i → s.noCtl w = false → s.hintmis w = true → step s = .next (trapped s 0x02 s.th.pc))
    ∧ (∀ w, fetches s w → ((∀ i, decodeWord w ≠ .ok i) ∨ s.noCtl w = true) → s.th.pfx = none →
        step s = .next (trapped s 0x01 (w.zeroExtend 64)))
    ∧ (s.tape = [] → s.th.buf = [] → s.th.parked = [] → s.th.ready = true → s.fetchPA s.th s.th.pc.toNat = none →
        s.walkWaits s.th.fetchTlbs s.th.asid s.th.pc.toNat = false → step s = .next (trapped s 0x10 s.th.pc))
    ∧ (s.tape = [] → s.th.buf = [] → s.th.parked = [] → s.th.ready = false → step s = s.otherTurn)
    ∧ (s.pending = [] → s.others = [] → s.th.buf = [] → s.otherTurn = .next s)
    ∧ (∀ e r t, s.th.buf = [] → s.pending = e :: r → exec e { s with pending := r } = .next t →
        s.otherTurn = .next (s.after t).rotate ∧ (t.counters.perf = [] → t.noTickets = true → s.otherTurn = .next t.rotate))
    ∧ (∀ x r, s.th.live = true → s.th.buf = x :: r → s.homeWaits s.th.storer (x.writes.map (·.1)) true = false →
        ∃ t, s.otherTurn = .next t ∧ t.th.buf = r)
    ∧ (s.boundary.shutdown = false →
      (∀ e r, s.tape = .event e :: r → encodeNat e = none → let u := { s with tape := r }
        step s = u.counted (exec e u) ∧ ∀ t, exec e u = .next t → t.counters.perf = [] → t.noTickets = true → step s = .next t)
      ∧ (∀ h r, s.tape = .run h :: r → step s = (State.select { s with tape := r } h).turn)
      ∧ ∀ l reqs r, s.tape = .race l reqs :: r → step s = .next (State.race { s with tape := r } l reqs))
    ∧ (s.boundary.shutdown = true → ∀ x r, s.tape = x :: r → x.afterShutdown = false → step s = .next { s with tape := r })
    ∧ (∀ n r, s.tape = .tick n :: r → s.counters.perf = [] → step s = .next { s with tape := r, cycle := s.cycle + n })

/-- Decoding inverts encoding: the word of every well-formed instruction fits 32 bits and decodes to that instruction, with
every operand at every value its fields admit (R50 to R60, R69). -/
def Obligations.DecodeInvertsEncode : Prop :=
  ∀ (i : Instr) (n : Nat), i.check = none → encodeNat i = some n →
    n < 2 ^ 32 ∧ decodeWord (BitVec.ofNat 32 n) = .ok i

/-- Every step keeps the memory in its canonical form, from every state that has it (log entry 1 names what an unlisted byte
reads as). -/
def Obligations.StepKeepsMemoryCanonical : Prop :=
  ∀ s t : State, s.MemoryCanonical → step s = .next t → t.MemoryCanonical

/-- No step refuses, and a step stops only at a host access to a physical address that R211 reserves, where it does stop; every
other instruction and event has an effect in every state. That the access stops the machine is the model's reading (log entry
15). -/
def Obligations.StepStopsOnlyAtReserved : Prop :=
  (∀ s r, step s ≠ .refused r)
  ∧ (∀ s f, step s = .fault f → ∃ pa w n b, .event (.hostMemAccess pa w n b) ∈ s.tape ∨ .hostMemAccess pa w n b ∈ s.pending
      ∧ physOf pa.toNat = .reserved ∧ f = .reservedPhysical pa.toNat)
  ∧ (∀ (i : Instr) s f, exec i s = .fault f → reachesNothing i)
  ∧ ∀ (pa : BitVec 52) w n b s, physOf pa.toNat = .reserved →
      exec (.hostMemAccess pa w n b) s = .fault (.reservedPhysical pa.toNat)
end

