-- ==== Sys2Proof/Laws/Memory.lean ====
section
/-! SUPPORT. Laws of the byte memory: read after write, and the canonical form that every operation keeps. -/

namespace Sys2Proof.Machine

/-- Every key of the list is greater than `k`. -/
def Memory.above (k : Nat) (m : List Host.Cell) : Prop := ∀ c ∈ m, k < c.1

theorem Memory.wf_nil : Memory.wf [] = true := rfl

/-- The canonical form, cell by cell. -/
theorem Memory.wf_cons (k : Nat) (v : Byte) (m : List Host.Cell) :
    Memory.wf ((k, v) :: m) = true ↔ v ≠ Memory.unlisted ∧ Memory.above k m ∧ Memory.wf m = true := by
  induction m generalizing k v with
  | nil => simp [Memory.wf, Memory.above]
  | cons c r ih =>
    obtain ⟨k', v'⟩ := c
    rw [Memory.wf, Bool.and_eq_true, Bool.and_eq_true, ih]
    simp only [bne_iff_ne, ne_eq, decide_eq_true_eq, Memory.above, List.mem_cons, forall_eq_or_imp]
    constructor
    · rintro ⟨⟨h1, h2⟩, h3, h4, h5⟩
      exact ⟨h1, ⟨h2, fun c hc => Nat.lt_trans h2 (h4 c hc)⟩, h3, h4, h5⟩
    · rintro ⟨h1, ⟨h2, -⟩, h3, h4, h5⟩
      exact ⟨⟨h1, h2⟩, h3, h4, h5⟩

/-- A byte below every key is not listed. -/
theorem Memory.get_of_above {k j : Nat} {m : List Host.Cell} (h : Memory.above k m) (hj : j ≤ k) :
    Memory.get m j = Memory.unlisted := by
  cases m with
  | nil => rfl
  | cons c r =>
    have : k < c.1 := h c (List.mem_cons_self ..)
    rw [Memory.get, if_neg (by omega), if_pos (by omega)]

/-- A cell of memory after a write is the one written, or was there before. -/
theorem Memory.mem_set {j : Nat} {v : Byte} {m : List Host.Cell} {c : Host.Cell} (hc : c ∈ Memory.set m j v) : c = (j, v) ∨ c ∈ m := by
  induction m with
  | nil => simp only [Memory.set] at hc; split at hc <;> simp_all
  | cons a r ih =>
    simp only [Memory.set] at hc
    have step : c ∈ a :: Memory.set r j v → c = (j, v) ∨ c ∈ a :: r := fun h => by
      rcases List.mem_cons.1 h with e | h
      · exact .inr (e ▸ List.mem_cons_self)
      · exact (ih h).imp id (List.mem_cons_of_mem a)
    repeat' split at hc
    all_goals first | exact step hc | (simp_all; done) | (simp_all; tauto)

/-- A write keeps every key above `k`. -/
theorem Memory.set_above {k j : Nat} {v : Byte} {m : List Host.Cell} (h : Memory.above k m) (hj : k < j) :
    Memory.above k (Memory.set m j v) := fun c hc => (Memory.mem_set hc).elim (fun e => e ▸ hj) (h c)

/-- A write keeps the canonical form. -/
theorem Memory.set_wf {m : List Host.Cell} (k : Nat) (v : Byte) (h : Memory.wf m = true) :
    Memory.wf (Memory.set m k v) = true := by
  induction m with
  | nil =>
    rw [Memory.set]
    split
    · rfl
    · exact (Memory.wf_cons ..).2 ⟨by assumption, fun _ hc => absurd hc (List.not_mem_nil), rfl⟩
  | cons c r ih =>
    obtain ⟨a, b⟩ := c
    obtain ⟨hb, ha, hr⟩ := (Memory.wf_cons ..).1 h
    rw [Memory.set]
    split
    · split
      · exact h
      · refine (Memory.wf_cons ..).2 ⟨by assumption, fun c hc => ?_, h⟩
        rcases List.mem_cons.1 hc with rfl | hc
        · assumption
        · exact Nat.lt_trans (by assumption) (ha c hc)
    · split
      · split
        · exact hr
        · exact (Memory.wf_cons ..).2 ⟨by assumption, ha, hr⟩
      · exact (Memory.wf_cons ..).2 ⟨hb, Memory.set_above ha (by omega), ih hr⟩

/-- Read after write: the byte written, and every other as before. -/
theorem Memory.get_set {m : List Host.Cell} (k j : Nat) (v : Byte) (h : Memory.wf m = true) :
    Memory.get (Memory.set m k v) j = if j = k then v else Memory.get m j := by
  induction m with
  | nil =>
    rw [Memory.set]
    by_cases hv : v = Memory.unlisted
    · rw [if_pos hv]; simp [Memory.get, hv]
    · rw [if_neg hv]; simp only [Memory.get]; split <;> simp
  | cons c r ih =>
    obtain ⟨a, b⟩ := c
    obtain ⟨hb, ha, hr⟩ := (Memory.wf_cons ..).1 h
    rw [Memory.set]
    by_cases h1 : k < a
    · rw [if_pos h1]
      by_cases hv : v = Memory.unlisted
      · rw [if_pos hv]
        by_cases hj : j = k
        · subst hj; rw [if_pos rfl, Memory.get, if_neg (by omega), if_pos h1, hv]
        · rw [if_neg hj]
      · rw [if_neg hv, Memory.get]
        by_cases hj : j = k
        · simp [hj]
        · rw [if_neg hj, if_neg hj]
          by_cases h2 : j < k
          · rw [if_pos h2, Memory.get, if_neg (by omega), if_pos (by omega)]
          · rw [if_neg h2]
    · rw [if_neg h1]
      by_cases h2 : k = a
      · rw [if_pos h2]
        by_cases hv : v = Memory.unlisted
        · rw [if_pos hv]
          by_cases hj : j = k
          · subst hj; rw [if_pos rfl, Memory.get_of_above ha (by omega), hv]
          · rw [if_neg hj, Memory.get, if_neg (by omega)]
            by_cases h3 : j < a
            · rw [if_pos h3, Memory.get_of_above ha (by omega)]
            · rw [if_neg h3]
        · rw [if_neg hv, Memory.get, Memory.get, h2]
          by_cases hj : j = a <;> simp [hj]
      · rw [if_neg h2, Memory.get, Memory.get, ih hr]
        by_cases hj : j = a
        · subst hj; rw [if_pos rfl, if_neg (by omega), if_pos rfl]
        · rw [if_neg hj, if_neg hj]
          by_cases h3 : j < a
          · rw [if_pos h3, if_pos h3, if_neg (by omega)]
          · rw [if_neg h3, if_neg h3]

/-- Several writes keep the canonical form. -/
theorem Memory.setMany_wf {m : List Host.Cell} (cs : List Host.Cell) (h : Memory.wf m = true) :
    Memory.wf (Memory.setMany m cs) = true := by
  induction cs generalizing m with
  | nil => exact h
  | cons c r ih => exact ih (Memory.set_wf c.1 c.2 h)

theorem Memory.writeNat_wf {m : List Host.Cell} (k n v : Nat) (h : Memory.wf m = true) :
    Memory.wf (Memory.writeNat m k n v) = true := Memory.setMany_wf _ h

theorem Memory.write64_wf {m : List Host.Cell} (k : Nat) (v : Word) (h : Memory.wf m = true) :
    Memory.wf (Memory.write64 m k v) = true := Memory.writeNat_wf _ _ _ h

/-- A part of the memory is in canonical form too. -/
theorem Memory.filter_wf {m : List Host.Cell} (p : Host.Cell → Bool) (h : Memory.wf m = true) :
    Memory.wf (m.filter p) = true := by
  induction m with
  | nil => rfl
  | cons c r ih =>
    obtain ⟨a, b⟩ := c
    obtain ⟨hb, ha, hr⟩ := (Memory.wf_cons ..).1 h
    rw [List.filter_cons]
    split
    · exact (Memory.wf_cons ..).2 ⟨hb, fun c hc => ha c (List.mem_filter.1 hc).1, ih hr⟩
    · exact ih hr

/-- A byte whose key no write names is as before. -/
theorem Memory.get_setMany_other {m : List Host.Cell} (cs : List Host.Cell) (j : Nat) (h : Memory.wf m = true)
    (hj : ∀ c ∈ cs, c.1 ≠ j) : Memory.get (Memory.setMany m cs) j = Memory.get m j := by
  induction cs generalizing m with
  | nil => rfl
  | cons c r ih =>
    rw [Memory.setMany, ih (Memory.set_wf _ _ h) (fun d hd => hj d (List.mem_cons_of_mem _ hd)), Memory.get_set _ _ _ h,
      if_neg (Ne.symm (hj c (List.mem_cons_self ..)))]

theorem keysFrom_mem {k n j : Nat} : j ∈ keysFrom k n ↔ k ≤ j ∧ j < k + n := by
  induction n generalizing k with
  | zero => simp [keysFrom]
  | succ n ih => rw [keysFrom, List.mem_cons, ih]; omega

theorem keysFrom_length (k n : Nat) : (keysFrom k n).length = n := by
  induction n generalizing k with
  | zero => rfl
  | succ n ih => rw [keysFrom, List.length_cons, ih]

theorem bytesOfNat_length (n v : Nat) : (bytesOfNat n v).length = n := by
  induction n generalizing v with
  | zero => rfl
  | succ n ih => rw [bytesOfNat, List.length_cons, ih]

/-- What a number written to `n` bytes leaves: its bytes there, the lowest first (R5), and every other byte as before. -/
theorem Memory.get_writeNat {m : List Host.Cell} (k n v j : Nat) (h : Memory.wf m = true) :
    Memory.get (Memory.writeNat m k n v) j
      = if k ≤ j ∧ j < k + n then BitVec.ofNat 8 (v / 256 ^ (j - k)) else Memory.get m j := by
  rw [Memory.writeNat]
  induction n generalizing m k v with
  | zero => rw [if_neg (by omega)]; rfl
  | succ n ih =>
    rw [keysFrom, bytesOfNat, List.zip_cons_cons, Memory.setMany, ih _ _ (Memory.set_wf _ _ h), Memory.get_set _ _ _ h]
    by_cases hj : j = k
    · subst hj
      rw [if_neg (by omega), if_pos rfl, if_pos (by omega), Nat.sub_self, Nat.pow_zero, Nat.div_one]
    · by_cases h1 : k + 1 ≤ j ∧ j < k + 1 + n
      · have he : j - k = (j - (k + 1)) + 1 := by omega
        rw [if_pos h1, if_pos (by omega), he, Nat.pow_succ, Nat.mul_comm, Nat.div_div_eq_div_mul]
      · rw [if_neg h1, if_neg hj, if_neg (by omega)]

end Sys2Proof.Machine
end

