-- ==== Sys2Proof/Laws/State.lean ====
section
/-! SUPPORT. What each update of the state and of a thread leaves as it was, field by field, and the registers read after a
write. -/

namespace Sys2Proof.Machine

@[simp] theorem State.ws_others (s : State) (n : BitVec 6) (v : Word) : (s.ws n v).others = s.others := rfl
@[simp] theorem State.ws_mem (s : State) (n : BitVec 6) (v : Word) : (s.ws n v).mem = s.mem := rfl
@[simp] theorem State.ws_caches (s : State) (n : BitVec 6) (v : Word) : (s.ws n v).caches = s.caches := rfl
@[simp] theorem State.ws_queues (s : State) (n : BitVec 6) (v : Word) : (s.ws n v).queues = s.queues := rfl
@[simp] theorem State.ws_tables (s : State) (n : BitVec 6) (v : Word) : (s.ws n v).tables = s.tables := rfl
@[simp] theorem State.ws_counters (s : State) (n : BitVec 6) (v : Word) : (s.ws n v).counters = s.counters := rfl
@[simp] theorem State.ws_launches (s : State) (n : BitVec 6) (v : Word) : (s.ws n v).launches = s.launches := rfl
@[simp] theorem State.ws_layers (s : State) (n : BitVec 6) (v : Word) : (s.ws n v).layers = s.layers := rfl
@[simp] theorem State.ws_boundary (s : State) (n : BitVec 6) (v : Word) : (s.ws n v).boundary = s.boundary := rfl
@[simp] theorem State.ws_cycle (s : State) (n : BitVec 6) (v : Word) : (s.ws n v).cycle = s.cycle := rfl
@[simp] theorem State.ws_tape (s : State) (n : BitVec 6) (v : Word) : (s.ws n v).tape = s.tape := rfl
@[simp] theorem State.ws_pending (s : State) (n : BitVec 6) (v : Word) : (s.ws n v).pending = s.pending := rfl
@[simp] theorem State.ws_free (s : State) (n : BitVec 6) (v : Word) : (s.ws n v).free = s.free := rfl
@[simp] theorem State.wsImg_others (s : State) (n : BitVec 6) (r : SReg) : (s.wsImg n r).others = s.others := rfl
@[simp] theorem State.wsImg_mem (s : State) (n : BitVec 6) (r : SReg) : (s.wsImg n r).mem = s.mem := rfl
@[simp] theorem State.wsImg_caches (s : State) (n : BitVec 6) (r : SReg) : (s.wsImg n r).caches = s.caches := rfl
@[simp] theorem State.wsImg_queues (s : State) (n : BitVec 6) (r : SReg) : (s.wsImg n r).queues = s.queues := rfl
@[simp] theorem State.wsImg_tables (s : State) (n : BitVec 6) (r : SReg) : (s.wsImg n r).tables = s.tables := rfl
@[simp] theorem State.wsImg_counters (s : State) (n : BitVec 6) (r : SReg) : (s.wsImg n r).counters = s.counters := rfl
@[simp] theorem State.wsImg_launches (s : State) (n : BitVec 6) (r : SReg) : (s.wsImg n r).launches = s.launches := rfl
@[simp] theorem State.wsImg_layers (s : State) (n : BitVec 6) (r : SReg) : (s.wsImg n r).layers = s.layers := rfl
@[simp] theorem State.wsImg_boundary (s : State) (n : BitVec 6) (r : SReg) : (s.wsImg n r).boundary = s.boundary := rfl
@[simp] theorem State.wsImg_cycle (s : State) (n : BitVec 6) (r : SReg) : (s.wsImg n r).cycle = s.cycle := rfl
@[simp] theorem State.wsImg_tape (s : State) (n : BitVec 6) (r : SReg) : (s.wsImg n r).tape = s.tape := rfl
@[simp] theorem State.wsImg_pending (s : State) (n : BitVec 6) (r : SReg) : (s.wsImg n r).pending = s.pending := rfl
@[simp] theorem State.wsImg_free (s : State) (n : BitVec 6) (r : SReg) : (s.wsImg n r).free = s.free := rfl
@[simp] theorem State.wv_others (s : State) (n : BitVec 6) (r : VReg) : (s.wv n r).others = s.others := rfl
@[simp] theorem State.wv_mem (s : State) (n : BitVec 6) (r : VReg) : (s.wv n r).mem = s.mem := rfl
@[simp] theorem State.wv_caches (s : State) (n : BitVec 6) (r : VReg) : (s.wv n r).caches = s.caches := rfl
@[simp] theorem State.wv_queues (s : State) (n : BitVec 6) (r : VReg) : (s.wv n r).queues = s.queues := rfl
@[simp] theorem State.wv_tables (s : State) (n : BitVec 6) (r : VReg) : (s.wv n r).tables = s.tables := rfl
@[simp] theorem State.wv_counters (s : State) (n : BitVec 6) (r : VReg) : (s.wv n r).counters = s.counters := rfl
@[simp] theorem State.wv_launches (s : State) (n : BitVec 6) (r : VReg) : (s.wv n r).launches = s.launches := rfl
@[simp] theorem State.wv_layers (s : State) (n : BitVec 6) (r : VReg) : (s.wv n r).layers = s.layers := rfl
@[simp] theorem State.wv_boundary (s : State) (n : BitVec 6) (r : VReg) : (s.wv n r).boundary = s.boundary := rfl
@[simp] theorem State.wv_cycle (s : State) (n : BitVec 6) (r : VReg) : (s.wv n r).cycle = s.cycle := rfl
@[simp] theorem State.wv_tape (s : State) (n : BitVec 6) (r : VReg) : (s.wv n r).tape = s.tape := rfl
@[simp] theorem State.wv_pending (s : State) (n : BitVec 6) (r : VReg) : (s.wv n r).pending = s.pending := rfl
@[simp] theorem State.wv_free (s : State) (n : BitVec 6) (r : VReg) : (s.wv n r).free = s.free := rfl
@[simp] theorem State.send_th (s : State) (e : Instr) : (s.send e).th = s.th := rfl
@[simp] theorem State.send_others (s : State) (e : Instr) : (s.send e).others = s.others := rfl
@[simp] theorem State.send_mem (s : State) (e : Instr) : (s.send e).mem = s.mem := rfl
@[simp] theorem State.send_caches (s : State) (e : Instr) : (s.send e).caches = s.caches := rfl
@[simp] theorem State.send_queues (s : State) (e : Instr) : (s.send e).queues = s.queues := rfl
@[simp] theorem State.send_tables (s : State) (e : Instr) : (s.send e).tables = s.tables := rfl
@[simp] theorem State.send_counters (s : State) (e : Instr) : (s.send e).counters = s.counters := rfl
@[simp] theorem State.send_launches (s : State) (e : Instr) : (s.send e).launches = s.launches := rfl
@[simp] theorem State.send_layers (s : State) (e : Instr) : (s.send e).layers = s.layers := rfl
@[simp] theorem State.send_boundary (s : State) (e : Instr) : (s.send e).boundary = s.boundary := rfl
@[simp] theorem State.send_cycle (s : State) (e : Instr) : (s.send e).cycle = s.cycle := rfl
@[simp] theorem State.send_tape (s : State) (e : Instr) : (s.send e).tape = s.tape := rfl
@[simp] theorem State.send_free (s : State) (e : Instr) : (s.send e).free = s.free := rfl
@[simp] theorem State.sendOnce_th (s : State) (e : Instr) : (s.sendOnce e).th = s.th := by unfold State.sendOnce; split <;> rfl
@[simp] theorem State.sendOnce_others (s : State) (e : Instr) : (s.sendOnce e).others = s.others := by unfold State.sendOnce; split <;> rfl
@[simp] theorem State.sendOnce_caches (s : State) (e : Instr) : (s.sendOnce e).caches = s.caches := by unfold State.sendOnce; split <;> rfl
@[simp] theorem State.sendOnce_queues (s : State) (e : Instr) : (s.sendOnce e).queues = s.queues := by unfold State.sendOnce; split <;> rfl
@[simp] theorem State.sendOnce_tables (s : State) (e : Instr) : (s.sendOnce e).tables = s.tables := by unfold State.sendOnce; split <;> rfl
@[simp] theorem State.sendOnce_counters (s : State) (e : Instr) : (s.sendOnce e).counters = s.counters := by unfold State.sendOnce; split <;> rfl
@[simp] theorem State.sendOnce_launches (s : State) (e : Instr) : (s.sendOnce e).launches = s.launches := by unfold State.sendOnce; split <;> rfl
@[simp] theorem State.sendOnce_layers (s : State) (e : Instr) : (s.sendOnce e).layers = s.layers := by unfold State.sendOnce; split <;> rfl
@[simp] theorem State.sendOnce_boundary (s : State) (e : Instr) : (s.sendOnce e).boundary = s.boundary := by unfold State.sendOnce; split <;> rfl
@[simp] theorem State.sendOnce_cycle (s : State) (e : Instr) : (s.sendOnce e).cycle = s.cycle := by unfold State.sendOnce; split <;> rfl
@[simp] theorem State.sendOnce_tape (s : State) (e : Instr) : (s.sendOnce e).tape = s.tape := by unfold State.sendOnce; split <;> rfl
@[simp] theorem State.sendOnce_free (s : State) (e : Instr) : (s.sendOnce e).free = s.free := by unfold State.sendOnce; split <;> rfl
@[simp] theorem State.mail_th (s : State) (m : Mail) : (s.mail m).th = s.th := rfl
@[simp] theorem State.mail_others (s : State) (m : Mail) : (s.mail m).others = s.others := rfl
@[simp] theorem State.mail_mem (s : State) (m : Mail) : (s.mail m).mem = s.mem := rfl
@[simp] theorem State.mail_caches (s : State) (m : Mail) : (s.mail m).caches = s.caches := rfl
@[simp] theorem State.mail_tables (s : State) (m : Mail) : (s.mail m).tables = s.tables := rfl
@[simp] theorem State.mail_counters (s : State) (m : Mail) : (s.mail m).counters = s.counters := rfl
@[simp] theorem State.mail_launches (s : State) (m : Mail) : (s.mail m).launches = s.launches := rfl
@[simp] theorem State.mail_layers (s : State) (m : Mail) : (s.mail m).layers = s.layers := rfl
@[simp] theorem State.mail_boundary (s : State) (m : Mail) : (s.mail m).boundary = s.boundary := rfl
@[simp] theorem State.mail_cycle (s : State) (m : Mail) : (s.mail m).cycle = s.cycle := rfl
@[simp] theorem State.mail_tape (s : State) (m : Mail) : (s.mail m).tape = s.tape := rfl
@[simp] theorem State.mail_pending (s : State) (m : Mail) : (s.mail m).pending = s.pending := rfl
@[simp] theorem State.mail_free (s : State) (m : Mail) : (s.mail m).free = s.free := rfl
@[simp] theorem State.putBCore_th (s : State) (b : BitVec 9) (c : BCore) : (s.putBCore b c).th = s.th := rfl
@[simp] theorem State.putBCore_others (s : State) (b : BitVec 9) (c : BCore) : (s.putBCore b c).others = s.others := rfl
@[simp] theorem State.putBCore_mem (s : State) (b : BitVec 9) (c : BCore) : (s.putBCore b c).mem = s.mem := rfl
@[simp] theorem State.putBCore_caches (s : State) (b : BitVec 9) (c : BCore) : (s.putBCore b c).caches = s.caches := rfl
@[simp] theorem State.putBCore_tables (s : State) (b : BitVec 9) (c : BCore) : (s.putBCore b c).tables = s.tables := rfl
@[simp] theorem State.putBCore_counters (s : State) (b : BitVec 9) (c : BCore) : (s.putBCore b c).counters = s.counters := rfl
@[simp] theorem State.putBCore_launches (s : State) (b : BitVec 9) (c : BCore) : (s.putBCore b c).launches = s.launches := rfl
@[simp] theorem State.putBCore_layers (s : State) (b : BitVec 9) (c : BCore) : (s.putBCore b c).layers = s.layers := rfl
@[simp] theorem State.putBCore_boundary (s : State) (b : BitVec 9) (c : BCore) : (s.putBCore b c).boundary = s.boundary := rfl
@[simp] theorem State.putBCore_cycle (s : State) (b : BitVec 9) (c : BCore) : (s.putBCore b c).cycle = s.cycle := rfl
@[simp] theorem State.putBCore_tape (s : State) (b : BitVec 9) (c : BCore) : (s.putBCore b c).tape = s.tape := rfl
@[simp] theorem State.putBCore_pending (s : State) (b : BitVec 9) (c : BCore) : (s.putBCore b c).pending = s.pending := rfl
@[simp] theorem State.putBCore_free (s : State) (b : BitVec 9) (c : BCore) : (s.putBCore b c).free = s.free := rfl
@[simp] theorem State.putLaunch_th (s : State) (r : Launch) : (s.putLaunch r).th = s.th := rfl
@[simp] theorem State.putLaunch_others (s : State) (r : Launch) : (s.putLaunch r).others = s.others := rfl
@[simp] theorem State.putLaunch_mem (s : State) (r : Launch) : (s.putLaunch r).mem = s.mem := rfl
@[simp] theorem State.putLaunch_caches (s : State) (r : Launch) : (s.putLaunch r).caches = s.caches := rfl
@[simp] theorem State.putLaunch_queues (s : State) (r : Launch) : (s.putLaunch r).queues = s.queues := rfl
@[simp] theorem State.putLaunch_tables (s : State) (r : Launch) : (s.putLaunch r).tables = s.tables := rfl
@[simp] theorem State.putLaunch_counters (s : State) (r : Launch) : (s.putLaunch r).counters = s.counters := rfl
@[simp] theorem State.putLaunch_layers (s : State) (r : Launch) : (s.putLaunch r).layers = s.layers := rfl
@[simp] theorem State.putLaunch_boundary (s : State) (r : Launch) : (s.putLaunch r).boundary = s.boundary := rfl
@[simp] theorem State.putLaunch_cycle (s : State) (r : Launch) : (s.putLaunch r).cycle = s.cycle := rfl
@[simp] theorem State.putLaunch_tape (s : State) (r : Launch) : (s.putLaunch r).tape = s.tape := rfl
@[simp] theorem State.putLaunch_pending (s : State) (r : Launch) : (s.putLaunch r).pending = s.pending := rfl
@[simp] theorem State.putLaunch_free (s : State) (r : Launch) : (s.putLaunch r).free = s.free := rfl
@[simp] theorem State.mapThreads_mem (s : State) (f : Thread → Thread) : (s.mapThreads f).mem = s.mem := rfl
@[simp] theorem State.mapThreads_caches (s : State) (f : Thread → Thread) : (s.mapThreads f).caches = s.caches := rfl
@[simp] theorem State.mapThreads_queues (s : State) (f : Thread → Thread) : (s.mapThreads f).queues = s.queues := rfl
@[simp] theorem State.mapThreads_tables (s : State) (f : Thread → Thread) : (s.mapThreads f).tables = s.tables := rfl
@[simp] theorem State.mapThreads_counters (s : State) (f : Thread → Thread) : (s.mapThreads f).counters = s.counters := rfl
@[simp] theorem State.mapThreads_launches (s : State) (f : Thread → Thread) : (s.mapThreads f).launches = s.launches := rfl
@[simp] theorem State.mapThreads_layers (s : State) (f : Thread → Thread) : (s.mapThreads f).layers = s.layers := rfl
@[simp] theorem State.mapThreads_boundary (s : State) (f : Thread → Thread) : (s.mapThreads f).boundary = s.boundary := rfl
@[simp] theorem State.mapThreads_cycle (s : State) (f : Thread → Thread) : (s.mapThreads f).cycle = s.cycle := rfl
@[simp] theorem State.mapThreads_tape (s : State) (f : Thread → Thread) : (s.mapThreads f).tape = s.tape := rfl
@[simp] theorem State.mapThreads_pending (s : State) (f : Thread → Thread) : (s.mapThreads f).pending = s.pending := rfl
@[simp] theorem State.mapThreads_free (s : State) (f : Thread → Thread) : (s.mapThreads f).free = s.free := rfl
@[simp] theorem State.dropThread_mem (s : State) (h : BitVec 17) : (s.dropThread h).mem = s.mem := rfl
@[simp] theorem State.dropThread_caches (s : State) (h : BitVec 17) : (s.dropThread h).caches = s.caches := rfl
@[simp] theorem State.dropThread_queues (s : State) (h : BitVec 17) : (s.dropThread h).queues = s.queues := rfl
@[simp] theorem State.dropThread_tables (s : State) (h : BitVec 17) : (s.dropThread h).tables = s.tables := rfl
@[simp] theorem State.dropThread_counters (s : State) (h : BitVec 17) : (s.dropThread h).counters = s.counters := rfl
@[simp] theorem State.dropThread_launches (s : State) (h : BitVec 17) : (s.dropThread h).launches = s.launches := rfl
@[simp] theorem State.dropThread_layers (s : State) (h : BitVec 17) : (s.dropThread h).layers = s.layers := rfl
@[simp] theorem State.dropThread_boundary (s : State) (h : BitVec 17) : (s.dropThread h).boundary = s.boundary := rfl
@[simp] theorem State.dropThread_cycle (s : State) (h : BitVec 17) : (s.dropThread h).cycle = s.cycle := rfl
@[simp] theorem State.dropThread_tape (s : State) (h : BitVec 17) : (s.dropThread h).tape = s.tape := rfl
@[simp] theorem State.dropThread_pending (s : State) (h : BitVec 17) : (s.dropThread h).pending = s.pending := rfl
@[simp] theorem State.dropThread_free (s : State) (h : BitVec 17) : (s.dropThread h).free = s.free := rfl
@[simp] theorem Thread.setV_live (t : Thread) (n : BitVec 6) (r : VReg) : (t.setV n r).live = t.live := rfl
@[simp] theorem Thread.setV_hwid (t : Thread) (n : BitVec 6) (r : VReg) : (t.setV n r).hwid = t.hwid := rfl
@[simp] theorem Thread.setV_s (t : Thread) (n : BitVec 6) (r : VReg) : (t.setV n r).s = t.s := rfl
@[simp] theorem Thread.setV_tileTC (t : Thread) (n : BitVec 6) (r : VReg) : (t.setV n r).tileTC = t.tileTC := rfl
@[simp] theorem Thread.setV_tileData (t : Thread) (n : BitVec 6) (r : VReg) : (t.setV n r).tileData = t.tileData := rfl
@[simp] theorem Thread.setV_tileScale (t : Thread) (n : BitVec 6) (r : VReg) : (t.setV n r).tileScale = t.tileScale := rfl
@[simp] theorem Thread.setV_pc (t : Thread) (n : BitVec 6) (r : VReg) : (t.setV n r).pc = t.pc := rfl
@[simp] theorem Thread.setV_fcsr (t : Thread) (n : BitVec 6) (r : VReg) : (t.setV n r).fcsr = t.fcsr := rfl
@[simp] theorem Thread.setV_lb (t : Thread) (n : BitVec 6) (r : VReg) : (t.setV n r).lb = t.lb := rfl
@[simp] theorem Thread.setV_le (t : Thread) (n : BitVec 6) (r : VReg) : (t.setV n r).le = t.le := rfl
@[simp] theorem Thread.setV_ln (t : Thread) (n : BitVec 6) (r : VReg) : (t.setV n r).ln = t.ln := rfl
@[simp] theorem Thread.setV_ldepth (t : Thread) (n : BitVec 6) (r : VReg) : (t.setV n r).ldepth = t.ldepth := rfl
@[simp] theorem Thread.setV_tvec (t : Thread) (n : BitVec 6) (r : VReg) : (t.setV n r).tvec = t.tvec := rfl
@[simp] theorem Thread.setV_tpc (t : Thread) (n : BitVec 6) (r : VReg) : (t.setV n r).tpc = t.tpc := rfl
@[simp] theorem Thread.setV_tcause (t : Thread) (n : BitVec 6) (r : VReg) : (t.setV n r).tcause = t.tcause := rfl
@[simp] theorem Thread.setV_tval (t : Thread) (n : BitVec 6) (r : VReg) : (t.setV n r).tval = t.tval := rfl
@[simp] theorem Thread.setV_tseq (t : Thread) (n : BitVec 6) (r : VReg) : (t.setV n r).tseq = t.tseq := rfl
@[simp] theorem Thread.setV_repleft (t : Thread) (n : BitVec 6) (r : VReg) : (t.setV n r).repleft = t.repleft := rfl
@[simp] theorem Thread.setV_valid (t : Thread) (n : BitVec 6) (r : VReg) : (t.setV n r).valid = t.valid := rfl
@[simp] theorem Thread.setV_tsave (t : Thread) (n : BitVec 6) (r : VReg) : (t.setV n r).tsave = t.tsave := rfl
@[simp] theorem Thread.setV_taskid (t : Thread) (n : BitVec 6) (r : VReg) : (t.setV n r).taskid = t.taskid := rfl
@[simp] theorem Thread.setV_gangid (t : Thread) (n : BitVec 6) (r : VReg) : (t.setV n r).gangid = t.gangid := rfl
@[simp] theorem Thread.setV_launchid (t : Thread) (n : BitVec 6) (r : VReg) : (t.setV n r).launchid = t.launchid := rfl
@[simp] theorem Thread.setV_geomdim (t : Thread) (n : BitVec 6) (r : VReg) : (t.setV n r).geomdim = t.geomdim := rfl
@[simp] theorem Thread.setV_geompos (t : Thread) (n : BitVec 6) (r : VReg) : (t.setV n r).geompos = t.geompos := rfl
@[simp] theorem Thread.setV_argp (t : Thread) (n : BitVec 6) (r : VReg) : (t.setV n r).argp = t.argp := rfl
@[simp] theorem Thread.setV_instret (t : Thread) (n : BitVec 6) (r : VReg) : (t.setV n r).instret = t.instret := rfl
@[simp] theorem Thread.setV_poolb1 (t : Thread) (n : BitVec 6) (r : VReg) : (t.setV n r).poolb1 = t.poolb1 := rfl
@[simp] theorem Thread.setV_poolb2 (t : Thread) (n : BitVec 6) (r : VReg) : (t.setV n r).poolb2 = t.poolb2 := rfl
@[simp] theorem Thread.setV_poolb3 (t : Thread) (n : BitVec 6) (r : VReg) : (t.setV n r).poolb3 = t.poolb3 := rfl
@[simp] theorem Thread.setV_shipto (t : Thread) (n : BitVec 6) (r : VReg) : (t.setV n r).shipto = t.shipto := rfl
@[simp] theorem Thread.setV_lrec (t : Thread) (n : BitVec 6) (r : VReg) : (t.setV n r).lrec = t.lrec := rfl
@[simp] theorem Thread.setV_priv (t : Thread) (n : BitVec 6) (r : VReg) : (t.setV n r).priv = t.priv := rfl
@[simp] theorem Thread.setV_part (t : Thread) (n : BitVec 6) (r : VReg) : (t.setV n r).part = t.part := rfl
@[simp] theorem Thread.setV_prio (t : Thread) (n : BitVec 6) (r : VReg) : (t.setV n r).prio = t.prio := rfl
@[simp] theorem Thread.setV_grant (t : Thread) (n : BitVec 6) (r : VReg) : (t.setV n r).grant = t.grant := rfl
@[simp] theorem Thread.setV_leases (t : Thread) (n : BitVec 6) (r : VReg) : (t.setV n r).leases = t.leases := rfl
@[simp] theorem Thread.setV_shipSeq (t : Thread) (n : BitVec 6) (r : VReg) : (t.setV n r).shipSeq = t.shipSeq := rfl
@[simp] theorem Thread.setV_opGen (t : Thread) (n : BitVec 6) (r : VReg) : (t.setV n r).opGen = t.opGen := rfl
@[simp] theorem Thread.setV_ops (t : Thread) (n : BitVec 6) (r : VReg) : (t.setV n r).ops = t.ops := rfl
@[simp] theorem Thread.setV_bindings (t : Thread) (n : BitVec 6) (r : VReg) : (t.setV n r).bindings = t.bindings := rfl
@[simp] theorem Thread.setV_pfx (t : Thread) (n : BitVec 6) (r : VReg) : (t.setV n r).pfx = t.pfx := rfl
@[simp] theorem Thread.setV_undo (t : Thread) (n : BitVec 6) (r : VReg) : (t.setV n r).undo = t.undo := rfl
@[simp] theorem Thread.setV_parked (t : Thread) (n : BitVec 6) (r : VReg) : (t.setV n r).parked = t.parked := rfl
@[simp] theorem Thread.setV_held (t : Thread) (n : BitVec 6) (r : VReg) : (t.setV n r).held = t.held := rfl
@[simp] theorem Thread.setV_buf (t : Thread) (n : BitVec 6) (r : VReg) : (t.setV n r).buf = t.buf := rfl
@[simp] theorem Thread.setV_lag (t : Thread) (n : BitVec 6) (r : VReg) : (t.setV n r).lag = t.lag := rfl
@[simp] theorem Thread.setV_heldRes (t : Thread) (n : BitVec 6) (r : VReg) : (t.setV n r).heldRes = t.heldRes := rfl
@[simp] theorem Thread.setV_heldFault (t : Thread) (n : BitVec 6) (r : VReg) : (t.setV n r).heldFault = t.heldFault := rfl
@[simp] theorem Thread.setV_fork (t : Thread) (n : BitVec 6) (r : VReg) : (t.setV n r).fork = t.fork := rfl
@[simp] theorem Thread.setV_innerFork (t : Thread) (n : BitVec 6) (r : VReg) : (t.setV n r).innerFork = t.innerFork := rfl
@[simp] theorem Thread.setV_wait (t : Thread) (n : BitVec 6) (r : VReg) : (t.setV n r).wait = t.wait := rfl
@[simp] theorem Thread.setV_hsched (t : Thread) (n : BitVec 6) (r : VReg) : (t.setV n r).hsched = t.hsched := rfl
@[simp] theorem Thread.setV_resumeFlags (t : Thread) (n : BitVec 6) (r : VReg) : (t.setV n r).resumeFlags = t.resumeFlags := rfl
@[simp] theorem Thread.orFlags_live (t : Thread) (f : BitVec 5) : (t.orFlags f).live = t.live := rfl
@[simp] theorem Thread.orFlags_hwid (t : Thread) (f : BitVec 5) : (t.orFlags f).hwid = t.hwid := rfl
@[simp] theorem Thread.orFlags_s (t : Thread) (f : BitVec 5) : (t.orFlags f).s = t.s := rfl
@[simp] theorem Thread.orFlags_v (t : Thread) (f : BitVec 5) : (t.orFlags f).v = t.v := rfl
@[simp] theorem Thread.orFlags_tileTC (t : Thread) (f : BitVec 5) : (t.orFlags f).tileTC = t.tileTC := rfl
@[simp] theorem Thread.orFlags_tileData (t : Thread) (f : BitVec 5) : (t.orFlags f).tileData = t.tileData := rfl
@[simp] theorem Thread.orFlags_tileScale (t : Thread) (f : BitVec 5) : (t.orFlags f).tileScale = t.tileScale := rfl
@[simp] theorem Thread.orFlags_pc (t : Thread) (f : BitVec 5) : (t.orFlags f).pc = t.pc := rfl
@[simp] theorem Thread.orFlags_lb (t : Thread) (f : BitVec 5) : (t.orFlags f).lb = t.lb := rfl
@[simp] theorem Thread.orFlags_le (t : Thread) (f : BitVec 5) : (t.orFlags f).le = t.le := rfl
@[simp] theorem Thread.orFlags_ln (t : Thread) (f : BitVec 5) : (t.orFlags f).ln = t.ln := rfl
@[simp] theorem Thread.orFlags_ldepth (t : Thread) (f : BitVec 5) : (t.orFlags f).ldepth = t.ldepth := rfl
@[simp] theorem Thread.orFlags_tvec (t : Thread) (f : BitVec 5) : (t.orFlags f).tvec = t.tvec := rfl
@[simp] theorem Thread.orFlags_tpc (t : Thread) (f : BitVec 5) : (t.orFlags f).tpc = t.tpc := rfl
@[simp] theorem Thread.orFlags_tcause (t : Thread) (f : BitVec 5) : (t.orFlags f).tcause = t.tcause := rfl
@[simp] theorem Thread.orFlags_tval (t : Thread) (f : BitVec 5) : (t.orFlags f).tval = t.tval := rfl
@[simp] theorem Thread.orFlags_tseq (t : Thread) (f : BitVec 5) : (t.orFlags f).tseq = t.tseq := rfl
@[simp] theorem Thread.orFlags_repleft (t : Thread) (f : BitVec 5) : (t.orFlags f).repleft = t.repleft := rfl
@[simp] theorem Thread.orFlags_valid (t : Thread) (f : BitVec 5) : (t.orFlags f).valid = t.valid := rfl
@[simp] theorem Thread.orFlags_tsave (t : Thread) (f : BitVec 5) : (t.orFlags f).tsave = t.tsave := rfl
@[simp] theorem Thread.orFlags_taskid (t : Thread) (f : BitVec 5) : (t.orFlags f).taskid = t.taskid := rfl
@[simp] theorem Thread.orFlags_gangid (t : Thread) (f : BitVec 5) : (t.orFlags f).gangid = t.gangid := rfl
@[simp] theorem Thread.orFlags_launchid (t : Thread) (f : BitVec 5) : (t.orFlags f).launchid = t.launchid := rfl
@[simp] theorem Thread.orFlags_geomdim (t : Thread) (f : BitVec 5) : (t.orFlags f).geomdim = t.geomdim := rfl
@[simp] theorem Thread.orFlags_geompos (t : Thread) (f : BitVec 5) : (t.orFlags f).geompos = t.geompos := rfl
@[simp] theorem Thread.orFlags_argp (t : Thread) (f : BitVec 5) : (t.orFlags f).argp = t.argp := rfl
@[simp] theorem Thread.orFlags_instret (t : Thread) (f : BitVec 5) : (t.orFlags f).instret = t.instret := rfl
@[simp] theorem Thread.orFlags_poolb1 (t : Thread) (f : BitVec 5) : (t.orFlags f).poolb1 = t.poolb1 := rfl
@[simp] theorem Thread.orFlags_poolb2 (t : Thread) (f : BitVec 5) : (t.orFlags f).poolb2 = t.poolb2 := rfl
@[simp] theorem Thread.orFlags_poolb3 (t : Thread) (f : BitVec 5) : (t.orFlags f).poolb3 = t.poolb3 := rfl
@[simp] theorem Thread.orFlags_shipto (t : Thread) (f : BitVec 5) : (t.orFlags f).shipto = t.shipto := rfl
@[simp] theorem Thread.orFlags_lrec (t : Thread) (f : BitVec 5) : (t.orFlags f).lrec = t.lrec := rfl
@[simp] theorem Thread.orFlags_priv (t : Thread) (f : BitVec 5) : (t.orFlags f).priv = t.priv := rfl
@[simp] theorem Thread.orFlags_part (t : Thread) (f : BitVec 5) : (t.orFlags f).part = t.part := rfl
@[simp] theorem Thread.orFlags_prio (t : Thread) (f : BitVec 5) : (t.orFlags f).prio = t.prio := rfl
@[simp] theorem Thread.orFlags_grant (t : Thread) (f : BitVec 5) : (t.orFlags f).grant = t.grant := rfl
@[simp] theorem Thread.orFlags_leases (t : Thread) (f : BitVec 5) : (t.orFlags f).leases = t.leases := rfl
@[simp] theorem Thread.orFlags_shipSeq (t : Thread) (f : BitVec 5) : (t.orFlags f).shipSeq = t.shipSeq := rfl
@[simp] theorem Thread.orFlags_opGen (t : Thread) (f : BitVec 5) : (t.orFlags f).opGen = t.opGen := rfl
@[simp] theorem Thread.orFlags_ops (t : Thread) (f : BitVec 5) : (t.orFlags f).ops = t.ops := rfl
@[simp] theorem Thread.orFlags_refused (t : Thread) (f : BitVec 5) : (t.orFlags f).refused = t.refused := rfl
@[simp] theorem Thread.orFlags_bindings (t : Thread) (f : BitVec 5) : (t.orFlags f).bindings = t.bindings := rfl
@[simp] theorem Thread.orFlags_pfx (t : Thread) (f : BitVec 5) : (t.orFlags f).pfx = t.pfx := rfl
@[simp] theorem Thread.orFlags_undo (t : Thread) (f : BitVec 5) : (t.orFlags f).undo = t.undo := rfl
@[simp] theorem Thread.orFlags_parked (t : Thread) (f : BitVec 5) : (t.orFlags f).parked = t.parked := rfl
@[simp] theorem Thread.orFlags_held (t : Thread) (f : BitVec 5) : (t.orFlags f).held = t.held := rfl
@[simp] theorem Thread.orFlags_unseen (t : Thread) (f : BitVec 5) : (t.orFlags f).unseen = t.unseen := rfl
@[simp] theorem Thread.orFlags_buf (t : Thread) (f : BitVec 5) : (t.orFlags f).buf = t.buf := rfl
@[simp] theorem Thread.orFlags_lag (t : Thread) (f : BitVec 5) : (t.orFlags f).lag = t.lag := rfl
@[simp] theorem Thread.orFlags_heldRes (t : Thread) (f : BitVec 5) : (t.orFlags f).heldRes = t.heldRes := rfl
@[simp] theorem Thread.orFlags_heldFault (t : Thread) (f : BitVec 5) : (t.orFlags f).heldFault = t.heldFault := rfl
@[simp] theorem Thread.orFlags_fork (t : Thread) (f : BitVec 5) : (t.orFlags f).fork = t.fork := rfl
@[simp] theorem Thread.orFlags_innerFork (t : Thread) (f : BitVec 5) : (t.orFlags f).innerFork = t.innerFork := rfl
@[simp] theorem Thread.orFlags_wait (t : Thread) (f : BitVec 5) : (t.orFlags f).wait = t.wait := rfl
@[simp] theorem Thread.orFlags_hsched (t : Thread) (f : BitVec 5) : (t.orFlags f).hsched = t.hsched := rfl
@[simp] theorem Thread.orFlags_resumeFlags (t : Thread) (f : BitVec 5) : (t.orFlags f).resumeFlags = t.resumeFlags := rfl
@[simp] theorem Thread.count_live (t : Thread) : (t.count).live = t.live := rfl
@[simp] theorem Thread.count_hwid (t : Thread) : (t.count).hwid = t.hwid := rfl
@[simp] theorem Thread.count_s (t : Thread) : (t.count).s = t.s := rfl
@[simp] theorem Thread.count_v (t : Thread) : (t.count).v = t.v := rfl
@[simp] theorem Thread.count_tileTC (t : Thread) : (t.count).tileTC = t.tileTC := rfl
@[simp] theorem Thread.count_tileData (t : Thread) : (t.count).tileData = t.tileData := rfl
@[simp] theorem Thread.count_tileScale (t : Thread) : (t.count).tileScale = t.tileScale := rfl
@[simp] theorem Thread.count_pc (t : Thread) : (t.count).pc = t.pc := rfl
@[simp] theorem Thread.count_fcsr (t : Thread) : (t.count).fcsr = t.fcsr := rfl
@[simp] theorem Thread.count_lb (t : Thread) : (t.count).lb = t.lb := rfl
@[simp] theorem Thread.count_le (t : Thread) : (t.count).le = t.le := rfl
@[simp] theorem Thread.count_ln (t : Thread) : (t.count).ln = t.ln := rfl
@[simp] theorem Thread.count_ldepth (t : Thread) : (t.count).ldepth = t.ldepth := rfl
@[simp] theorem Thread.count_tvec (t : Thread) : (t.count).tvec = t.tvec := rfl
@[simp] theorem Thread.count_tpc (t : Thread) : (t.count).tpc = t.tpc := rfl
@[simp] theorem Thread.count_tcause (t : Thread) : (t.count).tcause = t.tcause := rfl
@[simp] theorem Thread.count_tval (t : Thread) : (t.count).tval = t.tval := rfl
@[simp] theorem Thread.count_tseq (t : Thread) : (t.count).tseq = t.tseq := rfl
@[simp] theorem Thread.count_repleft (t : Thread) : (t.count).repleft = t.repleft := rfl
@[simp] theorem Thread.count_valid (t : Thread) : (t.count).valid = t.valid := rfl
@[simp] theorem Thread.count_tsave (t : Thread) : (t.count).tsave = t.tsave := rfl
@[simp] theorem Thread.count_taskid (t : Thread) : (t.count).taskid = t.taskid := rfl
@[simp] theorem Thread.count_gangid (t : Thread) : (t.count).gangid = t.gangid := rfl
@[simp] theorem Thread.count_launchid (t : Thread) : (t.count).launchid = t.launchid := rfl
@[simp] theorem Thread.count_geomdim (t : Thread) : (t.count).geomdim = t.geomdim := rfl
@[simp] theorem Thread.count_geompos (t : Thread) : (t.count).geompos = t.geompos := rfl
@[simp] theorem Thread.count_argp (t : Thread) : (t.count).argp = t.argp := rfl
@[simp] theorem Thread.count_poolb1 (t : Thread) : (t.count).poolb1 = t.poolb1 := rfl
@[simp] theorem Thread.count_poolb2 (t : Thread) : (t.count).poolb2 = t.poolb2 := rfl
@[simp] theorem Thread.count_poolb3 (t : Thread) : (t.count).poolb3 = t.poolb3 := rfl
@[simp] theorem Thread.count_shipto (t : Thread) : (t.count).shipto = t.shipto := rfl
@[simp] theorem Thread.count_lrec (t : Thread) : (t.count).lrec = t.lrec := rfl
@[simp] theorem Thread.count_priv (t : Thread) : (t.count).priv = t.priv := rfl
@[simp] theorem Thread.count_part (t : Thread) : (t.count).part = t.part := rfl
@[simp] theorem Thread.count_prio (t : Thread) : (t.count).prio = t.prio := rfl
@[simp] theorem Thread.count_grant (t : Thread) : (t.count).grant = t.grant := rfl
@[simp] theorem Thread.count_leases (t : Thread) : (t.count).leases = t.leases := rfl
@[simp] theorem Thread.count_shipSeq (t : Thread) : (t.count).shipSeq = t.shipSeq := rfl
@[simp] theorem Thread.count_opGen (t : Thread) : (t.count).opGen = t.opGen := rfl
@[simp] theorem Thread.count_ops (t : Thread) : (t.count).ops = t.ops := rfl
@[simp] theorem Thread.count_refused (t : Thread) : (t.count).refused = t.refused := rfl
@[simp] theorem Thread.count_bindings (t : Thread) : (t.count).bindings = t.bindings := rfl
@[simp] theorem Thread.count_pfx (t : Thread) : (t.count).pfx = t.pfx := rfl
@[simp] theorem Thread.count_undo (t : Thread) : (t.count).undo = t.undo := rfl
@[simp] theorem Thread.count_parked (t : Thread) : (t.count).parked = t.parked := rfl
@[simp] theorem Thread.count_held (t : Thread) : (t.count).held = t.held := rfl
@[simp] theorem Thread.count_unseen (t : Thread) : (t.count).unseen = t.unseen := rfl
@[simp] theorem Thread.count_buf (t : Thread) : (t.count).buf = t.buf := rfl
@[simp] theorem Thread.count_lag (t : Thread) : (t.count).lag = t.lag := rfl
@[simp] theorem Thread.count_heldRes (t : Thread) : (t.count).heldRes = t.heldRes := rfl
@[simp] theorem Thread.count_heldFault (t : Thread) : (t.count).heldFault = t.heldFault := rfl
@[simp] theorem Thread.count_fork (t : Thread) : (t.count).fork = t.fork := rfl
@[simp] theorem Thread.count_innerFork (t : Thread) : (t.count).innerFork = t.innerFork := rfl
@[simp] theorem Thread.count_wait (t : Thread) : (t.count).wait = t.wait := rfl
@[simp] theorem Thread.count_hsched (t : Thread) : (t.count).hsched = t.hsched := rfl
@[simp] theorem Thread.count_resumeFlags (t : Thread) : (t.count).resumeFlags = t.resumeFlags := rfl
@[simp] theorem Thread.setS_live (t : Thread) (n : BitVec 6) (r : SReg) : (t.setS n r).live = t.live := by unfold Thread.setS; split <;> rfl
@[simp] theorem Thread.setS_hwid (t : Thread) (n : BitVec 6) (r : SReg) : (t.setS n r).hwid = t.hwid := by unfold Thread.setS; split <;> rfl
@[simp] theorem Thread.setS_v (t : Thread) (n : BitVec 6) (r : SReg) : (t.setS n r).v = t.v := by unfold Thread.setS; split <;> rfl
@[simp] theorem Thread.setS_tileTC (t : Thread) (n : BitVec 6) (r : SReg) : (t.setS n r).tileTC = t.tileTC := by unfold Thread.setS; split <;> rfl
@[simp] theorem Thread.setS_tileData (t : Thread) (n : BitVec 6) (r : SReg) : (t.setS n r).tileData = t.tileData := by unfold Thread.setS; split <;> rfl
@[simp] theorem Thread.setS_tileScale (t : Thread) (n : BitVec 6) (r : SReg) : (t.setS n r).tileScale = t.tileScale := by unfold Thread.setS; split <;> rfl
@[simp] theorem Thread.setS_pc (t : Thread) (n : BitVec 6) (r : SReg) : (t.setS n r).pc = t.pc := by unfold Thread.setS; split <;> rfl
@[simp] theorem Thread.setS_fcsr (t : Thread) (n : BitVec 6) (r : SReg) : (t.setS n r).fcsr = t.fcsr := by unfold Thread.setS; split <;> rfl
@[simp] theorem Thread.setS_lb (t : Thread) (n : BitVec 6) (r : SReg) : (t.setS n r).lb = t.lb := by unfold Thread.setS; split <;> rfl
@[simp] theorem Thread.setS_le (t : Thread) (n : BitVec 6) (r : SReg) : (t.setS n r).le = t.le := by unfold Thread.setS; split <;> rfl
@[simp] theorem Thread.setS_ln (t : Thread) (n : BitVec 6) (r : SReg) : (t.setS n r).ln = t.ln := by unfold Thread.setS; split <;> rfl
@[simp] theorem Thread.setS_ldepth (t : Thread) (n : BitVec 6) (r : SReg) : (t.setS n r).ldepth = t.ldepth := by unfold Thread.setS; split <;> rfl
@[simp] theorem Thread.setS_tvec (t : Thread) (n : BitVec 6) (r : SReg) : (t.setS n r).tvec = t.tvec := by unfold Thread.setS; split <;> rfl
@[simp] theorem Thread.setS_tpc (t : Thread) (n : BitVec 6) (r : SReg) : (t.setS n r).tpc = t.tpc := by unfold Thread.setS; split <;> rfl
@[simp] theorem Thread.setS_tcause (t : Thread) (n : BitVec 6) (r : SReg) : (t.setS n r).tcause = t.tcause := by unfold Thread.setS; split <;> rfl
@[simp] theorem Thread.setS_tval (t : Thread) (n : BitVec 6) (r : SReg) : (t.setS n r).tval = t.tval := by unfold Thread.setS; split <;> rfl
@[simp] theorem Thread.setS_tseq (t : Thread) (n : BitVec 6) (r : SReg) : (t.setS n r).tseq = t.tseq := by unfold Thread.setS; split <;> rfl
@[simp] theorem Thread.setS_repleft (t : Thread) (n : BitVec 6) (r : SReg) : (t.setS n r).repleft = t.repleft := by unfold Thread.setS; split <;> rfl
@[simp] theorem Thread.setS_valid (t : Thread) (n : BitVec 6) (r : SReg) : (t.setS n r).valid = t.valid := by unfold Thread.setS; split <;> rfl
@[simp] theorem Thread.setS_tsave (t : Thread) (n : BitVec 6) (r : SReg) : (t.setS n r).tsave = t.tsave := by unfold Thread.setS; split <;> rfl
@[simp] theorem Thread.setS_taskid (t : Thread) (n : BitVec 6) (r : SReg) : (t.setS n r).taskid = t.taskid := by unfold Thread.setS; split <;> rfl
@[simp] theorem Thread.setS_gangid (t : Thread) (n : BitVec 6) (r : SReg) : (t.setS n r).gangid = t.gangid := by unfold Thread.setS; split <;> rfl
@[simp] theorem Thread.setS_launchid (t : Thread) (n : BitVec 6) (r : SReg) : (t.setS n r).launchid = t.launchid := by unfold Thread.setS; split <;> rfl
@[simp] theorem Thread.setS_geomdim (t : Thread) (n : BitVec 6) (r : SReg) : (t.setS n r).geomdim = t.geomdim := by unfold Thread.setS; split <;> rfl
@[simp] theorem Thread.setS_geompos (t : Thread) (n : BitVec 6) (r : SReg) : (t.setS n r).geompos = t.geompos := by unfold Thread.setS; split <;> rfl
@[simp] theorem Thread.setS_argp (t : Thread) (n : BitVec 6) (r : SReg) : (t.setS n r).argp = t.argp := by unfold Thread.setS; split <;> rfl
@[simp] theorem Thread.setS_instret (t : Thread) (n : BitVec 6) (r : SReg) : (t.setS n r).instret = t.instret := by unfold Thread.setS; split <;> rfl
@[simp] theorem Thread.setS_poolb1 (t : Thread) (n : BitVec 6) (r : SReg) : (t.setS n r).poolb1 = t.poolb1 := by unfold Thread.setS; split <;> rfl
@[simp] theorem Thread.setS_poolb2 (t : Thread) (n : BitVec 6) (r : SReg) : (t.setS n r).poolb2 = t.poolb2 := by unfold Thread.setS; split <;> rfl
@[simp] theorem Thread.setS_poolb3 (t : Thread) (n : BitVec 6) (r : SReg) : (t.setS n r).poolb3 = t.poolb3 := by unfold Thread.setS; split <;> rfl
@[simp] theorem Thread.setS_shipto (t : Thread) (n : BitVec 6) (r : SReg) : (t.setS n r).shipto = t.shipto := by unfold Thread.setS; split <;> rfl
@[simp] theorem Thread.setS_lrec (t : Thread) (n : BitVec 6) (r : SReg) : (t.setS n r).lrec = t.lrec := by unfold Thread.setS; split <;> rfl
@[simp] theorem Thread.setS_priv (t : Thread) (n : BitVec 6) (r : SReg) : (t.setS n r).priv = t.priv := by unfold Thread.setS; split <;> rfl
@[simp] theorem Thread.setS_part (t : Thread) (n : BitVec 6) (r : SReg) : (t.setS n r).part = t.part := by unfold Thread.setS; split <;> rfl
@[simp] theorem Thread.setS_prio (t : Thread) (n : BitVec 6) (r : SReg) : (t.setS n r).prio = t.prio := by unfold Thread.setS; split <;> rfl
@[simp] theorem Thread.setS_grant (t : Thread) (n : BitVec 6) (r : SReg) : (t.setS n r).grant = t.grant := by unfold Thread.setS; split <;> rfl
@[simp] theorem Thread.setS_leases (t : Thread) (n : BitVec 6) (r : SReg) : (t.setS n r).leases = t.leases := by unfold Thread.setS; split <;> rfl
@[simp] theorem Thread.setS_shipSeq (t : Thread) (n : BitVec 6) (r : SReg) : (t.setS n r).shipSeq = t.shipSeq := by unfold Thread.setS; split <;> rfl
@[simp] theorem Thread.setS_opGen (t : Thread) (n : BitVec 6) (r : SReg) : (t.setS n r).opGen = t.opGen := by unfold Thread.setS; split <;> rfl
@[simp] theorem Thread.setS_ops (t : Thread) (n : BitVec 6) (r : SReg) : (t.setS n r).ops = t.ops := by unfold Thread.setS; split <;> rfl
@[simp] theorem Thread.setS_bindings (t : Thread) (n : BitVec 6) (r : SReg) : (t.setS n r).bindings = t.bindings := by unfold Thread.setS; split <;> rfl
@[simp] theorem Thread.setS_pfx (t : Thread) (n : BitVec 6) (r : SReg) : (t.setS n r).pfx = t.pfx := by unfold Thread.setS; split <;> rfl
@[simp] theorem Thread.setS_undo (t : Thread) (n : BitVec 6) (r : SReg) : (t.setS n r).undo = t.undo := by unfold Thread.setS; split <;> rfl
@[simp] theorem Thread.setS_parked (t : Thread) (n : BitVec 6) (r : SReg) : (t.setS n r).parked = t.parked := by unfold Thread.setS; split <;> rfl
@[simp] theorem Thread.setS_held (t : Thread) (n : BitVec 6) (r : SReg) : (t.setS n r).held = t.held := by unfold Thread.setS; split <;> rfl
@[simp] theorem Thread.setS_buf (t : Thread) (n : BitVec 6) (r : SReg) : (t.setS n r).buf = t.buf := by unfold Thread.setS; split <;> rfl
@[simp] theorem Thread.setS_lag (t : Thread) (n : BitVec 6) (r : SReg) : (t.setS n r).lag = t.lag := by unfold Thread.setS; split <;> rfl
@[simp] theorem Thread.setS_heldRes (t : Thread) (n : BitVec 6) (r : SReg) : (t.setS n r).heldRes = t.heldRes := by unfold Thread.setS; split <;> rfl
@[simp] theorem Thread.setS_heldFault (t : Thread) (n : BitVec 6) (r : SReg) : (t.setS n r).heldFault = t.heldFault := by unfold Thread.setS; split <;> rfl
@[simp] theorem Thread.setS_fork (t : Thread) (n : BitVec 6) (r : SReg) : (t.setS n r).fork = t.fork := by unfold Thread.setS; split <;> rfl
@[simp] theorem Thread.setS_innerFork (t : Thread) (n : BitVec 6) (r : SReg) : (t.setS n r).innerFork = t.innerFork := by unfold Thread.setS; split <;> rfl
@[simp] theorem Thread.setS_wait (t : Thread) (n : BitVec 6) (r : SReg) : (t.setS n r).wait = t.wait := by unfold Thread.setS; split <;> rfl
@[simp] theorem Thread.setS_hsched (t : Thread) (n : BitVec 6) (r : SReg) : (t.setS n r).hsched = t.hsched := by unfold Thread.setS; split <;> rfl
@[simp] theorem Thread.setS_resumeFlags (t : Thread) (n : BitVec 6) (r : SReg) : (t.setS n r).resumeFlags = t.resumeFlags := by unfold Thread.setS; split <;> rfl

-- Registers (R105 to R107).

/-- Reading s0 gives 0 with tail 00 (R106). -/
@[simp] theorem Thread.getS_zero (t : Thread) : t.getS 0 = ⟨0, 0⟩ := rfl

/-- A write to s0 is discarded (R106). -/
@[simp] theorem Thread.setS_zero (t : Thread) (r : SReg) : t.setS 0 r = t := rfl

/-- A scalar register after a write: the image written, unless the register is s0 or another. -/
theorem Thread.getS_setS (t : Thread) (n m : BitVec 6) (r : SReg) :
    (t.setS n r).getS m = if m = n ∧ m ≠ 0 then r else t.getS m := by
  unfold Thread.setS Thread.getS
  by_cases h0 : n = 0
  · subst h0
    by_cases hm : m = 0 <;> simp [hm]
  · rw [if_neg h0]
    by_cases hm : m = 0
    · simp [hm]
    · by_cases h : m = n
      · subst h; rw [if_neg hm, if_pos ⟨rfl, hm⟩]; exact Vector.getElem_set_self ..
      · have : n.toNat ≠ m.toNat := fun e => h (BitVec.eq_of_toNat_eq e.symm)
        simp [h, this]

/-- A vector register after a write; a number beyond the file names no register. -/
theorem Thread.getV_setV (t : Thread) (n m : BitVec 6) (r : VReg) (hn : n.toNat < 48) :
    (t.setV n r).getV m = if m = n then r else t.getV m := by
  unfold Thread.setV Thread.getV
  by_cases h : m = n
  · subst h; simp [hn]
  · have : n.toNat ≠ m.toNat := fun e => h (BitVec.eq_of_toNat_eq e.symm)
    simp [h, this]

/-- A write of a scalar register leaves the vector registers. -/
@[simp] theorem Thread.getV_setS (t : Thread) (n m : BitVec 6) (r : SReg) : (t.setS n r).getV m = t.getV m := by
  unfold Thread.getV; rw [Thread.setS_v]

/-- A write of a vector register leaves the scalar registers. -/
@[simp] theorem Thread.getS_setV (t : Thread) (n m : BitVec 6) (r : VReg) : (t.setV n r).getS m = t.getS m := rfl

@[simp] theorem State.ws_th (s : State) (n : BitVec 6) (v : Word) : (s.ws n v).th = s.th.setS n ⟨v, 0⟩ := rfl

@[simp] theorem State.wsImg_th (s : State) (n : BitVec 6) (r : SReg) : (s.wsImg n r).th = s.th.setS n r := rfl

@[simp] theorem State.wv_th (s : State) (n : BitVec 6) (r : VReg) : (s.wv n r).th = s.th.setV n r := rfl

@[simp] theorem State.send_pending (s : State) (e : Instr) : (s.send e).pending = s.pending ++ [e] := rfl

@[simp] theorem State.rs_zero (s : State) : s.rs 0 = 0 := rfl

end Sys2Proof.Machine
end

