-- ==== Sys2Proof/Laws/CanonicalCore.lean ====
section
/-! SUPPORT. Memory keeps its canonical form (part Core): the state updates, the shared operations, the scalar and control
instructions, the tiers, the floating-point and vector instructions.
A lemma `F_mem` says that `F` leaves memory as it is; a lemma `F_wf` says that `F` keeps `Memory.wf` (for a meaning: of the
next state, `OutWf`). -/

set_option linter.unusedSimpArgs false
set_option linter.unusedVariables false
set_option linter.unreachableTactic false
set_option linter.unusedTactic false

namespace Sys2Proof.Machine

theorem foldl_mem {α : Type} (f : State → α → State) (l : List α) (s : State) (h : ∀ s a, (f s a).mem = s.mem) :
    (l.foldl f s).mem = s.mem := by
  induction l generalizing s with
  | nil => rfl
  | cons a l ih => rw [List.foldl_cons, ih, h]

theorem foldl_wf {α : Type} (f : State → α → State) (l : List α) (s : State)
    (h : ∀ s a, Memory.wf s.mem = true → Memory.wf (f s a).mem = true) (hs : Memory.wf s.mem = true) :
    Memory.wf (l.foldl f s).mem = true := by
  induction l generalizing s with
  | nil => exact hs
  | cons a l ih => exact ih _ (h _ _ hs)

/-- Where an outcome is a next state, that state's memory has the canonical form. -/
def OutWf (o : Out) : Prop := ∀ t, o = .next t → Memory.wf t.mem = true

@[simp] theorem OutWf_next (s : State) : OutWf (.next s) ↔ Memory.wf s.mem = true :=
  ⟨fun h => h s rfl, fun h t e => by cases e; exact h⟩

@[simp] theorem OutWf_fault (f : Fault) : OutWf (.fault f) ↔ True := ⟨fun _ => trivial, fun _ t e => by cases e⟩

-- Machine/Ops.lean.

@[simp] theorem State.putThread_mem (s : State) (x1 : Thread) : (State.putThread s x1).mem = s.mem := by
  unfold State.putThread; simp [foldl_mem, apply_ite State.mem]

@[simp] theorem State.mapThreads_wf (s : State) (x1 : Thread → Thread) (h : Memory.wf s.mem = true) : Memory.wf
    (State.mapThreads s x1).mem = true := by
  unfold State.mapThreads; simp [h]

@[simp] theorem State.bindThread_mem (s : State) (x1 : Thread) : (State.bindThread s x1).mem = s.mem := by
  unfold State.bindThread; simp [foldl_mem, apply_ite State.mem]

@[simp] theorem State.dropThread_wf (s : State) (x1 : BitVec 17) (h : Memory.wf s.mem = true) : Memory.wf (State.dropThread
    s x1).mem = true := by
  unfold State.dropThread; simp [h]

@[simp] theorem State.ws_wf (s : State) (x1 : BitVec 6) (x2 : Word) (h : Memory.wf s.mem = true) : Memory.wf (State.ws s x1
    x2).mem = true := by
  unfold State.ws; simp [h]

@[simp] theorem State.wsImg_wf (s : State) (x1 : BitVec 6) (x2 : SReg) (h : Memory.wf s.mem = true) : Memory.wf (State.wsImg
    s x1 x2).mem = true := by
  unfold State.wsImg; simp [h]

@[simp] theorem State.wv_wf (s : State) (x1 : BitVec 6) (x2 : VReg) (h : Memory.wf s.mem = true) : Memory.wf (State.wv s x1
    x2).mem = true := by
  unfold State.wv; simp [h]

@[simp] theorem State.putBCore_wf (s : State) (x1 : BitVec 9) (x2 : BCore) (h : Memory.wf s.mem = true) : Memory.wf
    (State.putBCore s x1 x2).mem = true := by
  unfold State.putBCore; simp [h]

@[simp] theorem State.putLaunch_wf (s : State) (x1 : Launch) (h : Memory.wf s.mem = true) : Memory.wf (State.putLaunch s
    x1).mem = true := by
  unfold State.putLaunch; simp [h]

@[simp] theorem State.send_wf (s : State) (x1 : Instr) (h : Memory.wf s.mem = true) : Memory.wf (State.send s x1).mem = true
    := by
  unfold State.send; simp [h]

@[simp] theorem State.sendOnce_mem (s : State) (x1 : Instr) : (State.sendOnce s x1).mem = s.mem := by
  unfold State.sendOnce; simp [foldl_mem, apply_ite State.mem]

@[simp] theorem State.mail_wf (s : State) (x1 : Mail) (h : Memory.wf s.mem = true) : Memory.wf (State.mail s x1).mem = true
    := by
  unfold State.mail; simp [h]

@[simp] theorem State.machineCheck_mem (s : State) (x1 : BitVec 16) (x2 : McKind) (x3 : BitVec 52) (x4 : Option
    (BitVec 16 × BitVec 17)) : (State.machineCheck s x1 x2 x3 x4).mem = s.mem := by
  unfold State.machineCheck; simp [foldl_mem, apply_ite State.mem]

@[simp] theorem State.retire_wf (s : State) (h : Memory.wf s.mem = true) : OutWf (State.retire s) := by
  unfold State.retire; simp [h]

@[simp] theorem State.dropCopiesOf_mem (s : State) (x1 : List Thread) : (State.dropCopiesOf s x1).mem = s.mem := by
  unfold State.dropCopiesOf; simp [foldl_mem, apply_ite State.mem]

@[simp] theorem State.wakeFwait_mem (s : State) (x1 : BitVec 17) (x2 : OpId) (x3 : Dst) (x4 : BitVec 3) (x5 : Word) :
    (State.wakeFwait s x1 x2 x3 x4 x5).mem = s.mem := by
  unfold State.wakeFwait; simp [foldl_mem, apply_ite State.mem]

@[simp] theorem State.renameOp_mem (s : State) (x1 : BitVec 17) (x2 x3 : OpId) : (State.renameOp s x1 x2 x3).mem =
    s.mem := by
  rfl

@[simp] theorem State.orphanName_mem (s : State) (x1 : BitVec 17) (x2 : OpId) : (State.orphanName s x1 x2).mem = s.mem
    := by
  rfl

@[simp] theorem State.orphan_mem (s : State) (x1 : Thread) (x2 : Op) : (State.orphan s x1 x2).mem = s.mem := by
  rfl

@[simp] theorem State.releaseNames_mem (s : State) (x1 : BitVec 17) : (State.releaseNames s x1).mem = s.mem := by
  unfold State.releaseNames; simp [foldl_mem, apply_ite State.mem]

@[simp] theorem State.discardOps_mem (s : State) (x1 : Thread) : (State.discardOps s x1).mem = s.mem := by
  unfold State.discardOps; simp [foldl_mem, apply_ite State.mem]

@[simp] theorem State.endTask_mem (s : State) (x1 : Thread) (x2 : Wait) : (State.endTask s x1 x2).mem = s.mem := by
  unfold State.endTask; simp [foldl_mem, apply_ite State.mem]

@[simp] theorem State.endFork_mem (s : State) (x1 : Thread) : (State.endFork s x1).mem = s.mem := by
  unfold State.endFork; dsimp only; repeat' split
  all_goals first | rfl | simp [foldl_mem, apply_ite State.mem]

@[simp] theorem State.endFault_mem (s : State) (x1 : Thread) (x2 : Cause) : (State.endFault s x1 x2).mem = s.mem := by
  unfold State.endFault; dsimp only; repeat' split
  all_goals first | rfl | simp [foldl_mem, apply_ite State.mem]

@[simp] theorem State.deliver_mem (s : State) (x1 : Thread) (x2 : Cause) : (State.deliver s x1 x2).mem = s.mem := by
  unfold State.deliver; simp [foldl_mem, apply_ite State.mem]

@[simp] theorem State.raiseWith_mem (s : State) (x1 : BitVec 7) (x2 : Word) (x3 : BitVec 32) : (State.raiseWith s x1 x2
    x3).mem = s.mem := by
  unfold State.raiseWith; simp [foldl_mem, apply_ite State.mem]

@[simp] theorem State.dropOrphan_mem (s : State) (x1 : OpId) : (State.dropOrphan s x1).mem = s.mem := by
  rfl

@[simp] theorem State.fillAs_mem (s : State) (x1 : BitVec 17) (x2 : OpId) (x3 : Slot) (x4 : Word) : (State.fillAs s x1
    x2 x3 x4).mem = s.mem := by
  unfold State.fillAs; dsimp only; repeat' split
  all_goals first | rfl | simp [foldl_mem, apply_ite State.mem]

@[simp] theorem State.fillOp_mem (s : State) (x1 : BitVec 17) (x2 : OpId) (x3 : Slot) : (State.fillOp s x1 x2 x3).mem =
    s.mem := by
  unfold State.fillOp; simp [foldl_mem, apply_ite State.mem]

@[simp] theorem State.dropOp_mem (s : State) (x1 : BitVec 17) (x2 : OpId) : (State.dropOp s x1 x2).mem = s.mem := by
  unfold State.dropOp; repeat' split
  all_goals first | rfl | simp [foldl_mem, apply_ite State.mem]

@[simp] theorem State.fillWord_mem (s : State) (x1 : BitVec 17) (x2 : OpId) (x3 : Word) : (State.fillWord s x1 x2
    x3).mem = s.mem := by
  unfold State.fillWord; simp [foldl_mem, apply_ite State.mem]

@[simp] theorem State.putOp_mem (s : State) (x1 : BitVec 17) (x2 : Op) : (State.putOp s x1 x2).mem = s.mem := by
  unfold State.putOp; dsimp only; repeat' split
  all_goals first | rfl | simp [foldl_mem, apply_ite State.mem]

@[simp] theorem State.startOp_mem (s : State) (x1 : Dst) (x2 : BitVec 3) (x3 : BitVec 32) (x4 : OpKind) : (State.startOp s
    x1 x2 x3 x4).mem = s.mem := by
  rfl

-- Machine/Home.lean.

@[simp] theorem State.rouse_mem (s : State) (x1 : BitVec 6) : (State.rouse s x1).mem = s.mem := by
  unfold State.rouse; simp [foldl_mem, apply_ite State.mem]

@[simp] theorem State.perfCount_mem (s : State) (x1 : BitVec 6) (x2 x3 : ℕ) (x4 : BitVec 16) (x5 : Option ℕ) (x6 : ℕ) :
    (State.perfCount s x1 x2 x3 x4 x5 x6).mem = s.mem := by
  rfl

@[simp] theorem State.perfSlice_mem (s : State) (l : BitVec 52) (d : BitVec 6) (c : BitVec 16) : (s.perfSlice l d c).mem =
    s.mem := by
  unfold State.perfSlice; dsimp only; split <;> rfl

@[simp] theorem State.homeCount_mem (s : State) (l : BitVec 52) (c : BitVec 16) : (s.homeCount l c).mem = s.mem := by
  unfold State.homeCount; simp

@[simp] theorem State.queueUp_mem (s : State) (x1 : HomeReq) (x2 : ℕ) (x3 : BitVec 6) : (State.queueUp s x1 x2 x3).mem =
    s.mem := by
  unfold State.queueUp; dsimp only; repeat' split
  all_goals first | rfl | simp [foldl_mem, apply_ite State.mem]

@[simp] theorem State.linesQueue_mem (s : State) (x1 : Option Waiter) (x2 : List (ℕ × BitVec 6)) (x3 : ℕ → Instr) :
    (State.linesQueue s x1 x2 x3).mem = s.mem := by
  unfold State.linesQueue; simp [foldl_mem, apply_ite State.mem]

@[simp] theorem State.homeGoesOn_mem (s : State) (x1 : BitVec 52) : (State.homeGoesOn s x1).mem = s.mem := by
  unfold State.homeGoesOn; repeat' split
  all_goals first | rfl | simp [foldl_mem, apply_ite State.mem]

@[simp] theorem State.takeTurn_mem (s : State) (x1 : Option Waiter) (x2 : List ℕ) : (State.takeTurn s x1 x2).mem =
    s.mem := by
  unfold State.takeTurn; dsimp only; split
  · rfl
  · rw [foldl_mem _ _ _ (fun s l => State.homeGoesOn_mem s _)]

@[simp] theorem State.leaveQueues_mem (s : State) (x1 : Waiter → Bool) : (State.leaveQueues s x1).mem = s.mem := by
  unfold State.leaveQueues; dsimp only; split
  · rfl
  · rw [foldl_mem _ _ _ (fun s l => State.homeGoesOn_mem s _), foldl_mem _ _ _ (fun s r => by simp)]

-- Machine/Translate.lean.

@[simp] theorem State.rouseWalk_mem (s : State) (x1 : BitVec 16) (x2 : ℕ) : (State.rouseWalk s x1 x2).mem = s.mem := by
  unfold State.rouseWalk; repeat' split
  all_goals first | rfl | simp [foldl_mem, apply_ite State.mem]

@[simp] theorem State.raise_mem (s : State) (x1 : BitVec 7) (x2 : Word) : (State.raise s x1 x2).mem = s.mem := by
  unfold State.raise; simp [foldl_mem, apply_ite State.mem]

@[simp] theorem State.trap_wf (s : State) (x1 : BitVec 7) (x2 : Word) (h : Memory.wf s.mem = true) : OutWf (State.trap s x1
    x2) := by
  unfold State.trap; simp [h]

@[simp] theorem State.illegal_wf (s : State) (h : Memory.wf s.mem = true) : OutWf (State.illegal s) := by
  unfold State.illegal; simp [h]

@[simp] theorem State.perm_wf (s : State) (x1 : BitVec 8) (h : Memory.wf s.mem = true) : OutWf (State.perm s x1) := by
  unfold State.perm; simp [h]

/-- What a checked outcome keeps. -/
theorem State.finish_wf (s : State) (c : Chk State) (h : Memory.wf s.mem = true)
    (hc : ∀ t, c = .ok t → Memory.wf t.mem = true) : OutWf (s.finish c) := by
  cases c with
  | ok t => exact (OutWf_next t).2 (hc t rfl)
  | error e => exact State.trap_wf _ _ _ h

-- Machine/Scalar.lean.

@[simp] theorem State.int2_wf (s : State) (x1 x2 x3 : BitVec 6) (x4 : Word → Word → Word) (h : Memory.wf s.mem = true) :
    OutWf (State.int2 s x1 x2 x3 x4) := by
  unfold State.int2; simp [h]

@[simp] theorem State.int1_wf (s : State) (x1 x2 : BitVec 6) (x3 : Word → Word) (h : Memory.wf s.mem = true) : OutWf
    (State.int1 s x1 x2 x3) := by
  unfold State.int1; simp [h]

@[simp] theorem State.intI_wf (s : State) (x1 x2 : BitVec 6) (x3 : BitVec 14) (x4 : Word → Word → Word) (h : Memory.wf s.mem
    = true) : OutWf (State.intI s x1 x2 x3 x4) := by
  unfold State.intI; simp [h]

@[simp] theorem execAdd_wf (x0 x1 x2 : BitVec 6) (s : State) (h : Memory.wf s.mem = true) : OutWf (execAdd x0 x1 x2 s) := by
  unfold execAdd; simp [h]

@[simp] theorem execSub_wf (x0 x1 x2 : BitVec 6) (s : State) (h : Memory.wf s.mem = true) : OutWf (execSub x0 x1 x2 s) := by
  unfold execSub; simp [h]

@[simp] theorem execAnd_wf (x0 x1 x2 : BitVec 6) (s : State) (h : Memory.wf s.mem = true) : OutWf (execAnd x0 x1 x2 s) := by
  unfold execAnd; simp [h]

@[simp] theorem execOr_wf (x0 x1 x2 : BitVec 6) (s : State) (h : Memory.wf s.mem = true) : OutWf (execOr x0 x1 x2 s) := by
  unfold execOr; simp [h]

@[simp] theorem execXor_wf (x0 x1 x2 : BitVec 6) (s : State) (h : Memory.wf s.mem = true) : OutWf (execXor x0 x1 x2 s) := by
  unfold execXor; simp [h]

@[simp] theorem execAndn_wf (x0 x1 x2 : BitVec 6) (s : State) (h : Memory.wf s.mem = true) : OutWf (execAndn x0 x1 x2 s) :=
    by
  unfold execAndn; simp [h]

@[simp] theorem execOrn_wf (x0 x1 x2 : BitVec 6) (s : State) (h : Memory.wf s.mem = true) : OutWf (execOrn x0 x1 x2 s) := by
  unfold execOrn; simp [h]

@[simp] theorem execXnor_wf (x0 x1 x2 : BitVec 6) (s : State) (h : Memory.wf s.mem = true) : OutWf (execXnor x0 x1 x2 s) :=
    by
  unfold execXnor; simp [h]

@[simp] theorem execShl_wf (x0 x1 x2 : BitVec 6) (s : State) (h : Memory.wf s.mem = true) : OutWf (execShl x0 x1 x2 s) := by
  unfold execShl; simp [h]

@[simp] theorem execShr_wf (x0 x1 x2 : BitVec 6) (s : State) (h : Memory.wf s.mem = true) : OutWf (execShr x0 x1 x2 s) := by
  unfold execShr; simp [h]

@[simp] theorem execSra_wf (x0 x1 x2 : BitVec 6) (s : State) (h : Memory.wf s.mem = true) : OutWf (execSra x0 x1 x2 s) := by
  unfold execSra; simp [h]

@[simp] theorem execRol_wf (x0 x1 x2 : BitVec 6) (s : State) (h : Memory.wf s.mem = true) : OutWf (execRol x0 x1 x2 s) := by
  unfold execRol; simp [h]

@[simp] theorem execRor_wf (x0 x1 x2 : BitVec 6) (s : State) (h : Memory.wf s.mem = true) : OutWf (execRor x0 x1 x2 s) := by
  unfold execRor; simp [h]

@[simp] theorem execMin_wf (x0 x1 x2 : BitVec 6) (s : State) (h : Memory.wf s.mem = true) : OutWf (execMin x0 x1 x2 s) := by
  unfold execMin; simp [h]

@[simp] theorem execMax_wf (x0 x1 x2 : BitVec 6) (s : State) (h : Memory.wf s.mem = true) : OutWf (execMax x0 x1 x2 s) := by
  unfold execMax; simp [h]

@[simp] theorem execMinu_wf (x0 x1 x2 : BitVec 6) (s : State) (h : Memory.wf s.mem = true) : OutWf (execMinu x0 x1 x2 s) :=
    by
  unfold execMinu; simp [h]

@[simp] theorem execMaxu_wf (x0 x1 x2 : BitVec 6) (s : State) (h : Memory.wf s.mem = true) : OutWf (execMaxu x0 x1 x2 s) :=
    by
  unfold execMaxu; simp [h]

@[simp] theorem execSlt_wf (x0 x1 x2 : BitVec 6) (s : State) (h : Memory.wf s.mem = true) : OutWf (execSlt x0 x1 x2 s) := by
  unfold execSlt; simp [h]

@[simp] theorem execSltu_wf (x0 x1 x2 : BitVec 6) (s : State) (h : Memory.wf s.mem = true) : OutWf (execSltu x0 x1 x2 s) :=
    by
  unfold execSltu; simp [h]

@[simp] theorem execSeq_wf (x0 x1 x2 : BitVec 6) (s : State) (h : Memory.wf s.mem = true) : OutWf (execSeq x0 x1 x2 s) := by
  unfold execSeq; simp [h]

@[simp] theorem execSne_wf (x0 x1 x2 : BitVec 6) (s : State) (h : Memory.wf s.mem = true) : OutWf (execSne x0 x1 x2 s) := by
  unfold execSne; simp [h]

@[simp] theorem execMul_wf (x0 x1 x2 : BitVec 6) (s : State) (h : Memory.wf s.mem = true) : OutWf (execMul x0 x1 x2 s) := by
  unfold execMul; simp [h]

@[simp] theorem execMulh_wf (x0 x1 x2 : BitVec 6) (s : State) (h : Memory.wf s.mem = true) : OutWf (execMulh x0 x1 x2 s) :=
    by
  unfold execMulh; simp [h]

@[simp] theorem execMulhu_wf (x0 x1 x2 : BitVec 6) (s : State) (h : Memory.wf s.mem = true) : OutWf (execMulhu x0 x1 x2 s)
    := by
  unfold execMulhu; simp [h]

@[simp] theorem execDiv_wf (x0 x1 x2 : BitVec 6) (s : State) (h : Memory.wf s.mem = true) : OutWf (execDiv x0 x1 x2 s) := by
  unfold execDiv; simp [h]

@[simp] theorem execDivu_wf (x0 x1 x2 : BitVec 6) (s : State) (h : Memory.wf s.mem = true) : OutWf (execDivu x0 x1 x2 s) :=
    by
  unfold execDivu; simp [h]

@[simp] theorem execRem_wf (x0 x1 x2 : BitVec 6) (s : State) (h : Memory.wf s.mem = true) : OutWf (execRem x0 x1 x2 s) := by
  unfold execRem; simp [h]

@[simp] theorem execRemu_wf (x0 x1 x2 : BitVec 6) (s : State) (h : Memory.wf s.mem = true) : OutWf (execRemu x0 x1 x2 s) :=
    by
  unfold execRemu; simp [h]

@[simp] theorem execAddw_wf (x0 x1 x2 : BitVec 6) (s : State) (h : Memory.wf s.mem = true) : OutWf (execAddw x0 x1 x2 s) :=
    by
  unfold execAddw; simp [h]

@[simp] theorem execSubw_wf (x0 x1 x2 : BitVec 6) (s : State) (h : Memory.wf s.mem = true) : OutWf (execSubw x0 x1 x2 s) :=
    by
  unfold execSubw; simp [h]

@[simp] theorem execMulw_wf (x0 x1 x2 : BitVec 6) (s : State) (h : Memory.wf s.mem = true) : OutWf (execMulw x0 x1 x2 s) :=
    by
  unfold execMulw; simp [h]

@[simp] theorem execShlw_wf (x0 x1 x2 : BitVec 6) (s : State) (h : Memory.wf s.mem = true) : OutWf (execShlw x0 x1 x2 s) :=
    by
  unfold execShlw; simp [h]

@[simp] theorem execShrw_wf (x0 x1 x2 : BitVec 6) (s : State) (h : Memory.wf s.mem = true) : OutWf (execShrw x0 x1 x2 s) :=
    by
  unfold execShrw; simp [h]

@[simp] theorem execSraw_wf (x0 x1 x2 : BitVec 6) (s : State) (h : Memory.wf s.mem = true) : OutWf (execSraw x0 x1 x2 s) :=
    by
  unfold execSraw; simp [h]

@[simp] theorem execClz_wf (x0 x1 : BitVec 6) (s : State) (h : Memory.wf s.mem = true) : OutWf (execClz x0 x1 s) := by
  unfold execClz; simp [h]

@[simp] theorem execCtz_wf (x0 x1 : BitVec 6) (s : State) (h : Memory.wf s.mem = true) : OutWf (execCtz x0 x1 s) := by
  unfold execCtz; simp [h]

@[simp] theorem execPopc_wf (x0 x1 : BitVec 6) (s : State) (h : Memory.wf s.mem = true) : OutWf (execPopc x0 x1 s) := by
  unfold execPopc; simp [h]

@[simp] theorem execBrev_wf (x0 x1 : BitVec 6) (s : State) (h : Memory.wf s.mem = true) : OutWf (execBrev x0 x1 s) := by
  unfold execBrev; simp [h]

@[simp] theorem execBswap_wf (x0 x1 : BitVec 6) (s : State) (h : Memory.wf s.mem = true) : OutWf (execBswap x0 x1 s) := by
  unfold execBswap; simp [h]

@[simp] theorem execSext_wf (x0 x1 x2 : BitVec 6) (s : State) (h : Memory.wf s.mem = true) : OutWf (execSext x0 x1 x2 s) :=
    by
  unfold execSext; simp [h]

@[simp] theorem execZext_wf (x0 x1 x2 : BitVec 6) (s : State) (h : Memory.wf s.mem = true) : OutWf (execZext x0 x1 x2 s) :=
    by
  unfold execZext; simp [h]

@[simp] theorem execMov_wf (x0 x1 : BitVec 6) (s : State) (h : Memory.wf s.mem = true) : OutWf (execMov x0 x1 s) := by
  unfold execMov; simp [h]

@[simp] theorem execAddi_wf (x0 x1 : BitVec 6) (x2 : BitVec 14) (s : State) (h : Memory.wf s.mem = true) : OutWf (execAddi
    x0 x1 x2 s) := by
  unfold execAddi; simp [h]

@[simp] theorem execAndi_wf (x0 x1 : BitVec 6) (x2 : BitVec 14) (s : State) (h : Memory.wf s.mem = true) : OutWf (execAndi
    x0 x1 x2 s) := by
  unfold execAndi; simp [h]

@[simp] theorem execOri_wf (x0 x1 : BitVec 6) (x2 : BitVec 14) (s : State) (h : Memory.wf s.mem = true) : OutWf (execOri x0
    x1 x2 s) := by
  unfold execOri; simp [h]

@[simp] theorem execXori_wf (x0 x1 : BitVec 6) (x2 : BitVec 14) (s : State) (h : Memory.wf s.mem = true) : OutWf (execXori
    x0 x1 x2 s) := by
  unfold execXori; simp [h]

@[simp] theorem execSlti_wf (x0 x1 : BitVec 6) (x2 : BitVec 14) (s : State) (h : Memory.wf s.mem = true) : OutWf (execSlti
    x0 x1 x2 s) := by
  unfold execSlti; simp [h]

@[simp] theorem execSltiu_wf (x0 x1 : BitVec 6) (x2 : BitVec 14) (s : State) (h : Memory.wf s.mem = true) : OutWf (execSltiu
    x0 x1 x2 s) := by
  unfold execSltiu; simp [h]

@[simp] theorem execShli_wf (x0 x1 x2 : BitVec 6) (s : State) (h : Memory.wf s.mem = true) : OutWf (execShli x0 x1 x2 s) :=
    by
  unfold execShli; simp [h]

@[simp] theorem execShri_wf (x0 x1 x2 : BitVec 6) (s : State) (h : Memory.wf s.mem = true) : OutWf (execShri x0 x1 x2 s) :=
    by
  unfold execShri; simp [h]

@[simp] theorem execSrai_wf (x0 x1 x2 : BitVec 6) (s : State) (h : Memory.wf s.mem = true) : OutWf (execSrai x0 x1 x2 s) :=
    by
  unfold execSrai; simp [h]

@[simp] theorem execRori_wf (x0 x1 x2 : BitVec 6) (s : State) (h : Memory.wf s.mem = true) : OutWf (execRori x0 x1 x2 s) :=
    by
  unfold execRori; simp [h]

@[simp] theorem execLhi_wf (x0 : BitVec 6) (x1 : BitVec 20) (s : State) (h : Memory.wf s.mem = true) : OutWf (execLhi x0 x1
    s) := by
  unfold execLhi; simp [h]

@[simp] theorem execPchi_wf (x0 : BitVec 6) (x1 : BitVec 20) (s : State) (h : Memory.wf s.mem = true) : OutWf (execPchi x0
    x1 s) := by
  unfold execPchi; simp [h]

-- Machine/Control.lean.

@[simp] theorem State.jumpTo_wf (s : State) (x1 : ℤ) (x2 : Thread → Thread) (h : Memory.wf s.mem = true) : OutWf
    (State.jumpTo s x1 x2) := by
  unfold State.jumpTo; repeat' (first | with_reducible assumption | (simp [*]; done) | split | dsimp only)

@[simp] theorem State.branch_wf (s : State) (x1 : Bool) (x2 : BitVec 11) (h : Memory.wf s.mem = true) : OutWf (State.branch
    s x1 x2) := by
  unfold State.branch; repeat' (first | with_reducible assumption | (simp [*]; done) | split | dsimp only)

@[simp] theorem execBeq_wf (x0 x1 : BitVec 6) (x2 : BitVec 11) (s : State) (h : Memory.wf s.mem = true) : OutWf (execBeq x0
    x1 x2 s) := by
  unfold execBeq; simp [h]

@[simp] theorem execBne_wf (x0 x1 : BitVec 6) (x2 : BitVec 11) (s : State) (h : Memory.wf s.mem = true) : OutWf (execBne x0
    x1 x2 s) := by
  unfold execBne; simp [h]

@[simp] theorem execBlt_wf (x0 x1 : BitVec 6) (x2 : BitVec 11) (s : State) (h : Memory.wf s.mem = true) : OutWf (execBlt x0
    x1 x2 s) := by
  unfold execBlt; simp [h]

@[simp] theorem execBge_wf (x0 x1 : BitVec 6) (x2 : BitVec 11) (s : State) (h : Memory.wf s.mem = true) : OutWf (execBge x0
    x1 x2 s) := by
  unfold execBge; simp [h]

@[simp] theorem execBltu_wf (x0 x1 : BitVec 6) (x2 : BitVec 11) (s : State) (h : Memory.wf s.mem = true) : OutWf (execBltu
    x0 x1 x2 s) := by
  unfold execBltu; simp [h]

@[simp] theorem execBgeu_wf (x0 x1 : BitVec 6) (x2 : BitVec 11) (s : State) (h : Memory.wf s.mem = true) : OutWf (execBgeu
    x0 x1 x2 s) := by
  unfold execBgeu; simp [h]

@[simp] theorem execJal_wf (x0 : BitVec 6) (x1 : BitVec 20) (s : State) (h : Memory.wf s.mem = true) : OutWf (execJal x0 x1
    s) := by
  unfold execJal; simp [h]

@[simp] theorem execJalr_wf (x0 x1 : BitVec 6) (x2 : BitVec 14) (s : State) (h : Memory.wf s.mem = true) : OutWf (execJalr
    x0 x1 x2 s) := by
  unfold execJalr; repeat' (first | with_reducible assumption | (simp [*]; done) | split | dsimp only)

@[simp] theorem execLoop_wf (x0 x1 : BitVec 6) (x2 : BitVec 14) (s : State) (h : Memory.wf s.mem = true) : OutWf (execLoop
    x0 x1 x2 s) := by
  unfold execLoop; repeat' (first | with_reducible assumption | (simp [*]; done) | split | dsimp only)

@[simp] theorem execLbrk_wf (s : State) (h : Memory.wf s.mem = true) : OutWf (execLbrk s) := by
  unfold execLbrk; repeat' (first | with_reducible assumption | (simp [*]; done) | split | dsimp only)

@[simp] theorem execMovc_wf (x0 : BitVec 6) (x1 : BitVec 14) (s : State) (h : Memory.wf s.mem = true) : OutWf (execMovc x0
    x1 s) := by
  unfold execMovc; repeat' (first | with_reducible assumption | (simp [*]; done) | split | dsimp only)

@[simp] theorem execMovtc_wf (x0 : BitVec 6) (x1 : BitVec 14) (s : State) (h : Memory.wf s.mem = true) : OutWf (execMovtc x0
    x1 s) := by
  unfold execMovtc; repeat' (first | with_reducible assumption | (simp [*]; done) | split | dsimp only)

@[simp] theorem execYield_wf (x0 : BitVec 6) (s : State) (h : Memory.wf s.mem = true) : OutWf (execYield x0 s) := by
  unfold execYield; repeat' (first | with_reducible assumption | (simp [*]; done) | split | dsimp only)

@[simp] theorem execVrel_wf (x0 : BitVec 1) (x1 x2 : BitVec 6) (s : State) (h : Memory.wf s.mem = true) : OutWf (execVrel x0
    x1 x2 s) := by
  unfold execVrel; simp [h]

@[simp] theorem execFencei_wf (s : State) (h : Memory.wf s.mem = true) : OutWf (execFencei s) := by
  unfold execFencei; repeat' (first | with_reducible assumption | (simp [*]; done) | split | dsimp only)

@[simp] theorem execTrap_wf (x0 : BitVec 6) (s : State) (h : Memory.wf s.mem = true) : OutWf (execTrap x0 s) := by
  unfold execTrap; simp [h]

@[simp] theorem execBrk_wf (x0 : BitVec 6) (s : State) (h : Memory.wf s.mem = true) : OutWf (execBrk x0 s) := by
  unfold execBrk; simp [h]

@[simp] theorem execEret_wf (s : State) (h : Memory.wf s.mem = true) : OutWf (execEret s) := by
  unfold execEret; simp [h]

@[simp] theorem State.prefixWord_wf (s : State) (x1 : Pfx → Pfx) (h : Memory.wf s.mem = true) : OutWf (State.prefixWord s
    x1) := by
  unfold State.prefixWord; simp [h]

@[simp] theorem execNopHint_wf (x0 : BitVec 22) (s : State) (h : Memory.wf s.mem = true) : OutWf (execNopHint x0 s) := by
  unfold execNopHint; simp [h]

@[simp] theorem execHimm_wf (x0 : BitVec 22) (s : State) (h : Memory.wf s.mem = true) : OutWf (execHimm x0 s) := by
  unfold execHimm; simp [h]

@[simp] theorem execHmod_wf (x0 : BitVec 2) (x1 : BitVec 1) (x2 : BitVec 3) (x3 x4 : BitVec 1) (x5 : BitVec 2) (x6 x7 x8 :
    BitVec 1) (s : State) (h : Memory.wf s.mem = true) : OutWf (execHmod x0 x1 x2 x3 x4 x5 x6 x7 x8 s) := by
  unfold execHmod; simp [h]

@[simp] theorem execRep_wf (x0 : BitVec 6) (x1 x2 x3 : BitVec 3) (s : State) (h : Memory.wf s.mem = true) : OutWf (execRep
    x0 x1 x2 x3 s) := by
  unfold execRep; simp [h]

@[simp] theorem State.realignSettle_mem (s : State) (t : Thread) : (s.realignSettle t).mem = s.mem := by
  unfold State.realignSettle
  refine foldl_mem _ _ _ (fun s a => ?_)
  split
  · split <;> rfl
  · rfl

@[simp] theorem execRealign_wf (x0 : BitVec 16) (s : State) (h : Memory.wf s.mem = true) : OutWf (execRealign x0 s) := by
  unfold execRealign; repeat' (first | with_reducible assumption | (simp [*]; done) | split | dsimp only)

@[simp] theorem execRealignTimeout_wf (x0 : BitVec 17) (s : State) (h : Memory.wf s.mem = true) : OutWf (execRealignTimeout
    x0 s) := by
  unfold execRealignTimeout; repeat' (first | with_reducible assumption | (simp [*]; done) | split | dsimp only)

@[simp] theorem execHsched_wf (x0 : BitVec 2) (s : State) (h : Memory.wf s.mem = true) : OutWf (execHsched x0 s) := by
  unfold execHsched; simp [h]

-- Machine/Tiers.lean.

@[simp] theorem State.putDir_mem (s : State) (x1 : DirEntry) : (State.putDir s x1).mem = s.mem := by
  rfl

@[simp] theorem State.setLine_mem (s : State) (x1 : BitVec 52) (x2 : ℕ) : (State.setLine s x1 x2).mem = s.mem := by
  unfold State.setLine; simp [foldl_mem, apply_ite State.mem]

@[simp] theorem State.setDv_mem (s : State) (x1 : BitVec 52) (x2 : BitVec 6) (x3 : Bool) : (State.setDv s x1 x2 x3).mem =
    s.mem := by
  rfl

@[simp] theorem State.setOwner_mem (s : State) (x1 : BitVec 52) (x2 : BitVec 6) : (State.setOwner s x1 x2).mem = s.mem := by
  rfl

@[simp] theorem State.setBusy_mem (s : State) (x1 : BitVec 52) (x2 : Bool) : (State.setBusy s x1 x2).mem = s.mem := by
  rfl

@[simp] theorem State.eachHolder_mem (s : State) (x1 : BitVec 6) (x2 : BitVec 52) (x3 : ClassFilter → Option ClassFilter) :
    (State.eachHolder s x1 x2 x3).mem = s.mem := by
  rfl

@[simp] theorem State.putDieF_mem (s : State) (x1 : DieFilter) : (State.putDieF s x1).mem = s.mem := by
  rfl

@[simp] theorem State.noteSlice_mem (s : State) (x1 : BitVec 6) (x2 : BitVec 52) : (State.noteSlice s x1 x2).mem = s.mem :=
    by
  rfl

@[simp] theorem State.trimDie_mem (s : State) (x1 : BitVec 6) (x2 : BitVec 52) : (State.trimDie s x1 x2).1.mem = s.mem := by
  unfold State.trimDie; dsimp only; repeat' split
  all_goals first | rfl | simp [foldl_mem, apply_ite State.mem]

@[simp] theorem State.record_mem (s : State) (x1 : ClassFilter) : (State.record s x1).mem = s.mem := by
  rfl

@[simp] theorem State.unrecord_mem (s : State) (x1 : BitVec 6) (x2 : BitVec 5) (x3 : BitVec 52) : (State.unrecord s x1 x2
    x3).mem = s.mem := by
  rfl

@[simp] theorem State.returnLine_mem (s : State) (x1 : BitVec 6) (x2 : BitVec 5) (x3 : BitVec 52) : (State.returnLine s x1
    x2 x3).mem = s.mem := by
  unfold State.returnLine; simp [foldl_mem, apply_ite State.mem]

@[simp] theorem State.copyBytes_wf (s : State) (x1 x2 x3 : ℕ) (h : Memory.wf s.mem = true) : Memory.wf (State.copyBytes s x1
    x2 x3).mem = true := by
  unfold State.copyBytes
  simp [h, foldl_wf, foldl_mem, Memory.set_wf, Memory.setMany_wf, Memory.writeNat_wf, Memory.write64_wf, Memory.filter_wf, Memory.wf_nil]

@[simp] theorem State.zeroBytes_wf (s : State) (x1 x2 : ℕ) (h : Memory.wf s.mem = true) : Memory.wf (State.zeroBytes s x1
    x2).mem = true := by
  unfold State.zeroBytes
  simp [h, foldl_wf, foldl_mem, Memory.set_wf, Memory.setMany_wf, Memory.writeNat_wf, Memory.write64_wf, Memory.filter_wf, Memory.wf_nil]

@[simp] theorem State.stashWriteBack_wf (s : State) (x1 : StashLine) (h : Memory.wf s.mem = true) : Memory.wf
    (State.stashWriteBack s x1).mem = true := by
  unfold State.stashWriteBack; repeat' (first | with_reducible assumption | (simp [*]; done) | split | dsimp only)

@[simp] theorem State.dropStashLine_mem (s : State) (x1 : StashLine) : (State.dropStashLine s x1).mem = s.mem := by
  rfl

@[simp] theorem State.stashProbed_wf (s : State) (x1 : StashLine) (h : Memory.wf s.mem = true) : Memory.wf
    (State.stashProbed s x1).mem = true := by
  unfold State.stashProbed; simp [h]

@[simp] theorem State.probeStash_wf (s : State) (x1 : ℕ) (h : Memory.wf s.mem = true) : Memory.wf (State.probeStash s
    x1).mem = true := by
  unfold State.probeStash
  repeat' (first | with_reducible assumption | (simp [*, foldl_wf, foldl_mem]; done) |
    (with_reducible refine foldl_wf _ _ _ (fun s a h => ?_) ?_) | split | dsimp only)

@[simp] theorem State.probeStashOn_wf (s : State) (x1 : BitVec 6) (x2 : ℕ) (h : Memory.wf s.mem = true) : Memory.wf
    (State.probeStashOn s x1 x2).mem = true := by
  unfold State.probeStashOn
  repeat' (first | with_reducible assumption | (simp [*, foldl_wf, foldl_mem]; done) |
    (with_reducible refine foldl_wf _ _ _ (fun s a h => ?_) ?_) | split | dsimp only)

@[simp] theorem State.stashLeave_wf (s : State) (x1 : StashLine) (h : Memory.wf s.mem = true) : Memory.wf (State.stashLeave
    s x1).mem = true := by
  unfold State.stashLeave; repeat' (first | with_reducible assumption | (simp [*]; done) | split | dsimp only)

@[simp] theorem State.dieInv_wf (s : State) (x1 : BitVec 6) (x2 : BitVec 52) (x3 : BitVec 5 → Bool) (h : Memory.wf s.mem =
    true) : Memory.wf (State.dieInv s x1 x2 x3).1.mem = true := by
  unfold State.dieInv; repeat' (first | with_reducible assumption | (simp [*]; done) | split | dsimp only)

@[simp] theorem State.dieRecall_wf (s : State) (x1 : BitVec 6) (x2 : BitVec 52) (h : Memory.wf s.mem = true) : Memory.wf
    (State.dieRecall s x1 x2).1.mem = true := by
  unfold State.dieRecall; simp [h]

@[simp] theorem State.dieDown_wf (s : State) (x1 : BitVec 6) (x2 : BitVec 52) (h : Memory.wf s.mem = true) : Memory.wf
    (State.dieDown s x1 x2).1.mem = true := by
  unfold State.dieDown; simp [h]

@[simp] theorem State.transition_mem (s : State) (x1 : Ask) (x2 : BitVec 52) (x3 : BitVec 6) : (State.transition s x1 x2
    x3).mem = s.mem := by
  unfold State.transition; repeat' split
  all_goals first | rfl | simp [foldl_mem, apply_ite State.mem]

@[simp] theorem State.noteAnswer_mem (s : State) (x1 : BitVec 52) (x2 : BitVec 6) (x3 : Bool) : (State.noteAnswer s x1 x2
    x3).mem = s.mem := by
  unfold State.noteAnswer; simp [foldl_mem, apply_ite State.mem]

@[simp] theorem State.settleLine_wf (s : State) (x1 : Probe) (x2 : BitVec 52) (x3 : BitVec 6 → BitVec 5 → Bool) (h :
    Memory.wf s.mem = true) : Memory.wf (State.settleLine s x1 x2 x3).mem = true := by
  unfold State.settleLine
  repeat' (first | with_reducible assumption | (simp [*, foldl_wf, foldl_mem]; done) |
    (with_reducible refine foldl_wf _ _ _ (fun s a h => ?_) ?_) | split | dsimp only)

@[simp] theorem State.transact_wf (s : State) (x1 : Ask) (x2 : BitVec 52) (x3 : BitVec 6) (x4 : BitVec 5) (h : Memory.wf
    s.mem = true) : Memory.wf (State.transact s x1 x2 x3 x4).mem = true := by
  unfold State.transact; simp [h]

@[simp] theorem State.install_mem (s : State) (x1 : BitVec 6) (x2 : BitVec 5) (x3 : BitVec 52) (x4 : BitVec 512) :
    (State.install s x1 x2 x3 x4).mem = s.mem := by
  rfl

@[simp] theorem State.buffered_mem (s : State) (x1 : Agent) (x2 : BitVec 52) (x3 : Bool) : (State.buffered s x1 x2 x3).mem =
    s.mem := by
  rfl

@[simp] theorem State.touchLine_wf (s : State) (x1 : Agent) (x2 : ℕ) (x3 : BitVec 2) (x4 x5 : Bool) (h : Memory.wf s.mem =
    true) : Memory.wf (State.touchLine s x1 x2 x3 x4 x5).mem = true := by
  unfold State.touchLine; repeat' (first | with_reducible assumption | (simp [*]; done) | split | dsimp only)

@[simp] theorem State.fetchDieCopy_mem (s : State) (x1 : BitVec 6) (x2 : ℕ) : (State.fetchDieCopy s x1 x2).mem = s.mem := by
  unfold State.fetchDieCopy; dsimp only; repeat' split
  all_goals first | rfl | simp [foldl_mem, apply_ite State.mem]

@[simp] theorem State.touchDie_mem (s : State) (x1 : Agent) (x2 : ℕ) (x3 : BitVec 2) (x4 : Bool) : (State.touchDie s x1 x2
    x3 x4).mem = s.mem := by
  unfold State.touchDie; dsimp only; repeat' split
  all_goals first | rfl | simp [foldl_mem, apply_ite State.mem]

@[simp] theorem State.stashTouch_wf (s : State) (d : BitVec 6) (p : BitVec 5) (o : ℕ) (w : Bool) (h : Memory.wf s.mem = true) :
    Memory.wf (s.stashTouch d p o w).mem = true := by
  unfold State.stashTouch
  dsimp only
  split
  · exact h
  · split
    · split
      · simpa using h
      · exact h
    · generalize hx : ((State.probeStash _ _).transact _ _ _ _) = u
      have hu : Memory.wf u.mem = true := hx ▸ State.transact_wf _ _ _ _ _ (State.probeStash_wf _ _ h)
      simp [hu]

@[simp] theorem State.atHome_wf (s : State) (x1 : Bool) (x2 : Ask) (x3 : BitVec 52) (x4 : BitVec 6) (x5 : BitVec 5) (h :
    Memory.wf s.mem = true) : Memory.wf (State.atHome s x1 x2 x3 x4 x5).mem = true := by
  unfold State.atHome; repeat' (first | with_reducible assumption | (simp [*]; done) | split | dsimp only)

@[simp] theorem State.rouseFor_mem (s : State) (x1 : Agent) (x2 : Place → ℕ → Instr) (x3 : List Place) (x4 : Bool) :
    (State.rouseFor s x1 x2 x3 x4).mem = s.mem := by
  unfold State.rouseFor
  exact foldl_mem _ _ _ (fun s p => foldl_mem _ _ _ (fun s x => by simp [apply_ite State.mem]))

@[simp] theorem State.rouseHomes_mem (s : State) (x1 : Agent) (x2 : List Place) (x3 : Bool) : (State.rouseHomes s x1 x2
    x3).mem = s.mem := by
  unfold State.rouseHomes; simp [foldl_mem, apply_ite State.mem]

-- Machine/Operands.lean.

@[simp] theorem State.replicate_mem (s : State) (x1 : BitVec 6) (x2 : ℕ) : (State.replicate s x1 x2).mem = s.mem := by
  unfold State.replicate; simp [foldl_mem, apply_ite State.mem]

@[simp] theorem State.prepareLines_wf (s : State) (x1 : Agent) (x2 : Place) (x3 : Bool) (x4 : List ℕ) (h : Memory.wf s.mem =
    true) : Memory.wf (State.prepareLines s x1 x2 x3 x4).mem = true := by
  unfold State.prepareLines
  repeat' (first | with_reducible assumption | (simp [*, foldl_wf, foldl_mem]; done) |
    (with_reducible refine foldl_wf _ _ _ (fun s a h => ?_) ?_) | split | dsimp only)

@[simp] theorem State.prepare_wf (s : State) (x1 : Agent) (x2 : Place) (x3 : Bool) (h : Memory.wf s.mem = true) : Memory.wf
    (State.prepare s x1 x2 x3).mem = true := by
  unfold State.prepare; simp [h]

@[simp] theorem State.prepareOnce_wf (s : State) (ag : Agent) (w : Bool) (seen : List ℕ) (ps : List Place)
    (h : Memory.wf s.mem = true) : Memory.wf (s.prepareOnce ag w seen ps).mem = true := by
  induction ps generalizing s seen with
  | nil => exact h
  | cons p r ih => exact ih _ _ (State.prepareLines_wf s ag p w _ h)

@[simp] theorem State.patchCopies_mem (s : State) (x1 : Agent) (x2 : ℕ) (x3 : Byte) : (State.patchCopies s x1 x2 x3).mem =
    s.mem := by
  rfl

@[simp] theorem State.poke_wf (s : State) (x1 : Agent) (x2 : Place) (x3 : ℕ) (x4 : Byte) (h : Memory.wf s.mem = true) :
    Memory.wf (State.poke s x1 x2 x3 x4).mem = true := by
  unfold State.poke
  repeat' (first | with_reducible assumption |
    (simp [*, foldl_wf, foldl_mem, Memory.set_wf, Memory.setMany_wf, Memory.writeNat_wf, Memory.write64_wf, Memory.filter_wf, Memory.wf_nil]; done) |
    (with_reducible refine foldl_wf _ _ _ (fun s a h => ?_) ?_) | split | dsimp only)

@[simp] theorem State.pokeAll_wf (s : State) (ag : Agent) (p : Place) (k : Nat) (bs : List Byte)
    (h : Memory.wf s.mem = true) : Memory.wf (s.pokeAll ag p k bs).mem = true := by
  induction bs generalizing s k with
  | nil => exact h
  | cons b r ih => exact ih _ _ (State.poke_wf s ag p k b h)

@[simp] theorem State.clearMarks_mem (s : State) (x1 : List Place) : (State.clearMarks s x1).mem = s.mem := by
  unfold State.clearMarks; simp [foldl_mem, apply_ite State.mem]

@[simp] theorem State.writePlace_wf (s : State) (x1 : Agent) (x2 : Place) (x3 : List Byte) (h : Memory.wf s.mem = true) :
    Memory.wf (State.writePlace s x1 x2 x3).mem = true := by
  unfold State.writePlace; simp [h]

@[simp] theorem State.readPlace_wf (s : State) (x1 : Thread) (x2 : Place) (h : Memory.wf s.mem = true) : Memory.wf
    (State.readPlace s x1 x2).1.mem = true := by
  unfold State.readPlace; simp [h]

@[simp] theorem State.readPlaces_wf (s : State) (t : Thread) (ps : List Place) (h : Memory.wf s.mem = true) :
    Memory.wf (s.readPlaces t ps).1.mem = true := by
  induction ps generalizing s with
  | nil => exact h
  | cons p r ih => exact ih _ (State.readPlace_wf s t p h)

@[simp] theorem State.readOnce_wf (s : State) (x1 : Thread) (x2 : List Place) (h : Memory.wf s.mem = true) : Memory.wf
    (State.readOnce s x1 x2).1.mem = true := by
  unfold State.readOnce; simp [h]

@[simp] theorem State.discardCopies_mem (s : State) (x1 : Thread) (x2 : ℕ → Bool) : (State.discardCopies s x1 x2).mem =
    s.mem := by
  rfl

@[simp] theorem State.acquireOn_mem (s : State) (x1 : Thread) (x2 : Option Word) : (State.acquireOn s x1 x2).mem = s.mem :=
    by
  unfold State.acquireOn; dsimp only; repeat' split
  all_goals first | rfl | simp [foldl_mem, apply_ite State.mem]

@[simp] theorem State.observe_mem (s : State) (x1 : Dst → Bool) : (State.observe s x1).mem = s.mem := by
  unfold State.observe; simp [foldl_mem, apply_ite State.mem]

@[simp] theorem State.acquireAt_mem (s : State) (x1 : Thread) (x2 : BitVec 3) (x3 : Word) : (State.acquireAt s x1 x2 x3).mem
    = s.mem := by
  unfold State.acquireAt; simp [foldl_mem, apply_ite State.mem]

-- Machine/Device.lean.

@[simp] theorem State.putPerf_mem (s : State) (x1 : Perf) : (State.putPerf s x1).mem = s.mem := by
  rfl

@[simp] theorem State.perfWrite_mem (s : State) (x1 : BitVec 6) (x2 : ℕ) (x3 : Word) : (State.perfWrite s x1 x2 x3).mem =
    s.mem := by
  unfold State.perfWrite; simp [foldl_mem, apply_ite State.mem]

@[simp] theorem State.perfCore_mem (s : State) (x1 : BitVec 17) (x2 : BitVec 16) (x3 : ℕ) : (State.perfCore s x1 x2 x3).mem
    = s.mem := by
  rfl

@[simp] theorem State.perfBCore_mem (s : State) (x1 : BitVec 9) (x2 : BitVec 16) : (State.perfBCore s x1 x2).mem = s.mem :=
    by
  rfl

@[simp] theorem State.putQueue_mem (s : State) (x1 : BitVec 8) (x2 x3 : Word) : (State.putQueue s x1 x2 x3).mem = s.mem :=
    by
  rfl

@[simp] theorem State.writeQueue_mem (s : State) (x1 : BitVec 8) (x2 : ℕ) (x3 : Word) : (State.writeQueue s x1 x2 x3).mem =
    s.mem := by
  unfold State.writeQueue; simp [foldl_mem, apply_ite State.mem]

@[simp] theorem State.writeAsid_mem (s : State) (x1 : BitVec 16) (x2 : ℕ) (x3 : Word) : (State.writeAsid s x1 x2 x3).mem =
    s.mem := by
  rfl

@[simp] theorem State.writePart_mem (s : State) (x1 : BitVec 6) (x2 : ℕ) (x3 : Word) : (State.writePart s x1 x2 x3).mem =
    s.mem := by
  rfl

@[simp] theorem State.writeBelltab_mem (s : State) (x1 : BitVec 3) (x2 : BitVec 8) (x3 : BitVec 16) (x4 : Bool) :
    (State.writeBelltab s x1 x2 x3 x4).mem = s.mem := by
  unfold State.writeBelltab; simp [foldl_mem, apply_ite State.mem]

@[simp] theorem State.applyBelltab_mem (s : State) (x1 : BitVec 3) : (State.applyBelltab s x1).mem = s.mem := by
  unfold State.applyBelltab; simp [foldl_mem, apply_ite State.mem]

@[simp] theorem State.writeConf_mem (s : State) (x1 : BitVec 8) (x2 : BitVec 16) : (State.writeConf s x1 x2).mem = s.mem :=
    by
  unfold State.writeConf; simp [foldl_mem, apply_ite State.mem]

@[simp] theorem State.writeMcqmig_mem (s : State) (x1 : BitVec 6) (x2 : BitVec 2) (x3 : BitVec 32) : (State.writeMcqmig s x1
    x2 x3).mem = s.mem := by
  rfl

@[simp] theorem State.writeFrameHome_mem (s : State) (x1 : BitVec 24) (x2 : BitVec 8) : (State.writeFrameHome s x1 x2).mem =
    s.mem := by
  rfl

@[simp] theorem State.putCtr_mem (s : State) (x1 : Counter) : (State.putCtr s x1).mem = s.mem := by
  rfl

@[simp] theorem State.writeCtr_mem (s : State) (x1 : BitVec 12) (x2 : ℕ) (x3 : Word) : (State.writeCtr s x1 x2 x3).mem =
    s.mem := by
  rfl

@[simp] theorem State.putReader_mem (s : State) (x1 : Reader) : (State.putReader s x1).mem = s.mem := by
  rfl

@[simp] theorem State.ring_mem (s : State) (x1 : BitVec 8) : (State.ring s x1).mem = s.mem := by
  rfl

@[simp] theorem write16_mem (f : State → Nat → BitVec 16 → State) (s : State) (o n v : Nat)
    (hf : ∀ s i x, (f s i x).mem = s.mem) : (write16 f s o n v).mem = s.mem :=
  foldl_mem _ _ _ (fun _ _ => hf _ _ _)

@[simp] theorem State.devWrite_mem (s : State) (x1 : Writer) (x2 x3 x4 : ℕ) : (State.devWrite s x1 x2 x3 x4).mem = s.mem :=
    by
  unfold State.devWrite; simp [foldl_mem, apply_ite State.mem]

@[simp] theorem State.freshNat_mem (s : State) (n : Nat) : (s.freshNat n).1.mem = s.mem := by
  induction n generalizing s with
  | zero => rfl
  | succ n ih => exact ih _

@[simp] theorem State.devRead_mem (s : State) (x1 : Writer) (x2 x3 : ℕ) : (State.devRead s x1 x2 x3).1.mem = s.mem := by
  unfold State.devRead; repeat' split
  all_goals first | rfl | simp [foldl_mem, apply_ite State.mem]

-- Machine/FpScalar.lean.

@[simp] theorem State.ship_mem (s : State) (x1 : Dst) (x2 : BitVec 32) (x3 : Bool) (x4 x5 : List Slot) :
    (State.ship s x1 x2 x3 x4 x5).mem = s.mem := by
  rfl

@[simp] theorem State.fpDone_wf (s : State) (x1 : Flags) (x2 : Thread → Thread) (h : Memory.wf s.mem = true) : OutWf
    (State.fpDone s x1 x2) := by
  unfold State.fpDone; repeat' (first | with_reducible assumption | (simp [*]; done) | split | dsimp only)

@[simp] theorem State.fps_wf (s : State) (x1 : ℕ) (x2 x3 x4 : BitVec 6) (x5 : BitVec 2) (h : Memory.wf s.mem = true) : OutWf
    (State.fps s x1 x2 x3 x4 x5) := by
  unfold State.fps; repeat' (first | with_reducible assumption | (simp [*]; done) | split | dsimp only)

@[simp] theorem execFadd_wf (x0 x1 x2 : BitVec 6) (x3 : BitVec 2) (s : State) (h : Memory.wf s.mem = true) : OutWf (execFadd
    x0 x1 x2 x3 s) := by
  unfold execFadd; simp [h]

@[simp] theorem execFsub_wf (x0 x1 x2 : BitVec 6) (x3 : BitVec 2) (s : State) (h : Memory.wf s.mem = true) : OutWf (execFsub
    x0 x1 x2 x3 s) := by
  unfold execFsub; simp [h]

@[simp] theorem execFmul_wf (x0 x1 x2 : BitVec 6) (x3 : BitVec 2) (s : State) (h : Memory.wf s.mem = true) : OutWf (execFmul
    x0 x1 x2 x3 s) := by
  unfold execFmul; simp [h]

@[simp] theorem execFdiv_wf (x0 x1 x2 : BitVec 6) (x3 : BitVec 2) (s : State) (h : Memory.wf s.mem = true) : OutWf (execFdiv
    x0 x1 x2 x3 s) := by
  unfold execFdiv; simp [h]

@[simp] theorem execFsqrt_wf (x0 x1 : BitVec 6) (x2 : BitVec 2) (s : State) (h : Memory.wf s.mem = true) : OutWf (execFsqrt
    x0 x1 x2 s) := by
  unfold execFsqrt; simp [h]

@[simp] theorem execFmin_wf (x0 x1 x2 : BitVec 6) (x3 : BitVec 2) (s : State) (h : Memory.wf s.mem = true) : OutWf (execFmin
    x0 x1 x2 x3 s) := by
  unfold execFmin; simp [h]

@[simp] theorem execFmax_wf (x0 x1 x2 : BitVec 6) (x3 : BitVec 2) (s : State) (h : Memory.wf s.mem = true) : OutWf (execFmax
    x0 x1 x2 x3 s) := by
  unfold execFmax; simp [h]

@[simp] theorem execFscpy_wf (x0 x1 x2 : BitVec 6) (x3 : BitVec 2) (s : State) (h : Memory.wf s.mem = true) : OutWf
    (execFscpy x0 x1 x2 x3 s) := by
  unfold execFscpy; simp [h]

@[simp] theorem execFscpyn_wf (x0 x1 x2 : BitVec 6) (x3 : BitVec 2) (s : State) (h : Memory.wf s.mem = true) : OutWf
    (execFscpyn x0 x1 x2 x3 s) := by
  unfold execFscpyn; simp [h]

@[simp] theorem execFsxor_wf (x0 x1 x2 : BitVec 6) (x3 : BitVec 2) (s : State) (h : Memory.wf s.mem = true) : OutWf
    (execFsxor x0 x1 x2 x3 s) := by
  unfold execFsxor; simp [h]

@[simp] theorem execFma_wf (x0 x1 x2 : BitVec 6) (x3 : BitVec 2) (s : State) (h : Memory.wf s.mem = true) : OutWf (execFma
    x0 x1 x2 x3 s) := by
  unfold execFma; simp [h]

@[simp] theorem execFms_wf (x0 x1 x2 : BitVec 6) (x3 : BitVec 2) (s : State) (h : Memory.wf s.mem = true) : OutWf (execFms
    x0 x1 x2 x3 s) := by
  unfold execFms; simp [h]

@[simp] theorem execFnma_wf (x0 x1 x2 : BitVec 6) (x3 : BitVec 2) (s : State) (h : Memory.wf s.mem = true) : OutWf (execFnma
    x0 x1 x2 x3 s) := by
  unfold execFnma; simp [h]

@[simp] theorem execFnms_wf (x0 x1 x2 : BitVec 6) (x3 : BitVec 2) (s : State) (h : Memory.wf s.mem = true) : OutWf (execFnms
    x0 x1 x2 x3 s) := by
  unfold execFnms; simp [h]

@[simp] theorem execFeq_wf (x0 x1 x2 : BitVec 6) (x3 : BitVec 2) (s : State) (h : Memory.wf s.mem = true) : OutWf (execFeq
    x0 x1 x2 x3 s) := by
  unfold execFeq; simp [h]

@[simp] theorem execFlt_wf (x0 x1 x2 : BitVec 6) (x3 : BitVec 2) (s : State) (h : Memory.wf s.mem = true) : OutWf (execFlt
    x0 x1 x2 x3 s) := by
  unfold execFlt; simp [h]

@[simp] theorem execFle_wf (x0 x1 x2 : BitVec 6) (x3 : BitVec 2) (s : State) (h : Memory.wf s.mem = true) : OutWf (execFle
    x0 x1 x2 x3 s) := by
  unfold execFle; simp [h]

@[simp] theorem execFunord_wf (x0 x1 x2 : BitVec 6) (x3 : BitVec 2) (s : State) (h : Memory.wf s.mem = true) : OutWf
    (execFunord x0 x1 x2 x3 s) := by
  unfold execFunord; simp [h]

@[simp] theorem execFeqx_wf (x0 x1 x2 : BitVec 6) (x3 : BitVec 2) (s : State) (h : Memory.wf s.mem = true) : OutWf (execFeqx
    x0 x1 x2 x3 s) := by
  unfold execFeqx; simp [h]

@[simp] theorem execFltx_wf (x0 x1 x2 : BitVec 6) (x3 : BitVec 2) (s : State) (h : Memory.wf s.mem = true) : OutWf (execFltx
    x0 x1 x2 x3 s) := by
  unfold execFltx; simp [h]

@[simp] theorem execFlex_wf (x0 x1 x2 : BitVec 6) (x3 : BitVec 2) (s : State) (h : Memory.wf s.mem = true) : OutWf (execFlex
    x0 x1 x2 x3 s) := by
  unfold execFlex; simp [h]

@[simp] theorem execFclass_wf (x0 x1 : BitVec 6) (x2 : BitVec 2) (s : State) (h : Memory.wf s.mem = true) : OutWf
    (execFclass x0 x1 x2 s) := by
  unfold execFclass; simp [h]

@[simp] theorem execFrnd_wf (x0 x1 : BitVec 6) (x2 : BitVec 2) (s : State) (h : Memory.wf s.mem = true) : OutWf (execFrnd x0
    x1 x2 s) := by
  unfold execFrnd; simp [h]

@[simp] theorem execFmvx_wf (x0 x1 : BitVec 6) (x2 : BitVec 2) (s : State) (h : Memory.wf s.mem = true) : OutWf (execFmvx x0
    x1 x2 s) := by
  unfold execFmvx; simp [h]

@[simp] theorem execFmvf_wf (x0 x1 : BitVec 6) (x2 : BitVec 2) (s : State) (h : Memory.wf s.mem = true) : OutWf (execFmvf x0
    x1 x2 s) := by
  unfold execFmvf; simp [h]

@[simp] theorem execFexp2_wf (x0 x1 : BitVec 6) (x2 : BitVec 2) (s : State) (h : Memory.wf s.mem = true) : OutWf (execFexp2
    x0 x1 x2 s) := by
  unfold execFexp2; simp [h]

@[simp] theorem execFlog2_wf (x0 x1 : BitVec 6) (x2 : BitVec 2) (s : State) (h : Memory.wf s.mem = true) : OutWf (execFlog2
    x0 x1 x2 s) := by
  unfold execFlog2; simp [h]

@[simp] theorem execFsinpi_wf (x0 x1 : BitVec 6) (x2 : BitVec 2) (s : State) (h : Memory.wf s.mem = true) : OutWf
    (execFsinpi x0 x1 x2 s) := by
  unfold execFsinpi; simp [h]

@[simp] theorem execFcospi_wf (x0 x1 : BitVec 6) (x2 : BitVec 2) (s : State) (h : Memory.wf s.mem = true) : OutWf
    (execFcospi x0 x1 x2 s) := by
  unfold execFcospi; simp [h]

@[simp] theorem execFrsqrt_wf (x0 x1 : BitVec 6) (x2 : BitVec 2) (s : State) (h : Memory.wf s.mem = true) : OutWf
    (execFrsqrt x0 x1 x2 s) := by
  unfold execFrsqrt; simp [h]

@[simp] theorem execFtanh_wf (x0 x1 : BitVec 6) (x2 : BitVec 2) (s : State) (h : Memory.wf s.mem = true) : OutWf (execFtanh
    x0 x1 x2 s) := by
  unfold execFtanh; simp [h]

@[simp] theorem execFtailr_wf (x0 x1 : BitVec 6) (s : State) (h : Memory.wf s.mem = true) : OutWf (execFtailr x0 x1 s) := by
  unfold execFtailr; simp [h]

@[simp] theorem execFtailw_wf (x0 x1 : BitVec 6) (s : State) (h : Memory.wf s.mem = true) : OutWf (execFtailw x0 x1 s) := by
  unfold execFtailw; simp [h]

@[simp] theorem execFcvt_wf (x0 x1 : BitVec 6) (x2 x3 : BitVec 4) (x4 : BitVec 3) (s : State) (h : Memory.wf s.mem = true) :
    OutWf (execFcvt x0 x1 x2 x3 x4 s) := by
  unfold execFcvt; repeat' (first | with_reducible assumption | (simp [*]; done) | split | dsimp only)

-- Machine/Vector.lean.

@[simp] theorem State.vput_wf (s : State) (x1 : ℕ) (x2 : BitVec 6) (x3 : List Lane) (h : Memory.wf s.mem = true) : OutWf
    (State.vput s x1 x2 x3) := by
  unfold State.vput; simp [h]

@[simp] theorem State.vec2_wf (s : State) (x1 x2 x3 : BitVec 6) (x4 : BitVec 2) (x5 : BitVec 1) (x6 : ℕ → ℕ → ℕ → ℕ) (h :
    Memory.wf s.mem = true) : OutWf (State.vec2 s x1 x2 x3 x4 x5 x6) := by
  unfold State.vec2; simp [h]

@[simp] theorem execVadd_wf (x0 x1 x2 : BitVec 6) (x3 : BitVec 2) (x4 x5 x6 : BitVec 1) (s : State) (h : Memory.wf s.mem =
    true) : OutWf (execVadd x0 x1 x2 x3 x4 x5 x6 s) := by
  unfold execVadd; simp [h]

@[simp] theorem execVsub_wf (x0 x1 x2 : BitVec 6) (x3 : BitVec 2) (x4 x5 x6 : BitVec 1) (s : State) (h : Memory.wf s.mem =
    true) : OutWf (execVsub x0 x1 x2 x3 x4 x5 x6 s) := by
  unfold execVsub; simp [h]

@[simp] theorem execVmul_wf (x0 x1 x2 : BitVec 6) (x3 : BitVec 2) (x4 x5 x6 : BitVec 1) (s : State) (h : Memory.wf s.mem =
    true) : OutWf (execVmul x0 x1 x2 x3 x4 x5 x6 s) := by
  unfold execVmul; simp [h]

@[simp] theorem execVmulh_wf (x0 x1 x2 : BitVec 6) (x3 : BitVec 2) (x4 x5 x6 : BitVec 1) (s : State) (h : Memory.wf s.mem =
    true) : OutWf (execVmulh x0 x1 x2 x3 x4 x5 x6 s) := by
  unfold execVmulh; simp [h]

@[simp] theorem execVmin_wf (x0 x1 x2 : BitVec 6) (x3 : BitVec 2) (x4 x5 x6 : BitVec 1) (s : State) (h : Memory.wf s.mem =
    true) : OutWf (execVmin x0 x1 x2 x3 x4 x5 x6 s) := by
  unfold execVmin; simp [h]

@[simp] theorem execVmax_wf (x0 x1 x2 : BitVec 6) (x3 : BitVec 2) (x4 x5 x6 : BitVec 1) (s : State) (h : Memory.wf s.mem =
    true) : OutWf (execVmax x0 x1 x2 x3 x4 x5 x6 s) := by
  unfold execVmax; simp [h]

@[simp] theorem execVminu_wf (x0 x1 x2 : BitVec 6) (x3 : BitVec 2) (x4 x5 x6 : BitVec 1) (s : State) (h : Memory.wf s.mem =
    true) : OutWf (execVminu x0 x1 x2 x3 x4 x5 x6 s) := by
  unfold execVminu; simp [h]

@[simp] theorem execVmaxu_wf (x0 x1 x2 : BitVec 6) (x3 : BitVec 2) (x4 x5 x6 : BitVec 1) (s : State) (h : Memory.wf s.mem =
    true) : OutWf (execVmaxu x0 x1 x2 x3 x4 x5 x6 s) := by
  unfold execVmaxu; simp [h]

@[simp] theorem execVand_wf (x0 x1 x2 : BitVec 6) (x3 : BitVec 2) (x4 x5 x6 : BitVec 1) (s : State) (h : Memory.wf s.mem =
    true) : OutWf (execVand x0 x1 x2 x3 x4 x5 x6 s) := by
  unfold execVand; simp [h]

@[simp] theorem execVor_wf (x0 x1 x2 : BitVec 6) (x3 : BitVec 2) (x4 x5 x6 : BitVec 1) (s : State) (h : Memory.wf s.mem =
    true) : OutWf (execVor x0 x1 x2 x3 x4 x5 x6 s) := by
  unfold execVor; simp [h]

@[simp] theorem execVxor_wf (x0 x1 x2 : BitVec 6) (x3 : BitVec 2) (x4 x5 x6 : BitVec 1) (s : State) (h : Memory.wf s.mem =
    true) : OutWf (execVxor x0 x1 x2 x3 x4 x5 x6 s) := by
  unfold execVxor; simp [h]

@[simp] theorem execVandn_wf (x0 x1 x2 : BitVec 6) (x3 : BitVec 2) (x4 x5 x6 : BitVec 1) (s : State) (h : Memory.wf s.mem =
    true) : OutWf (execVandn x0 x1 x2 x3 x4 x5 x6 s) := by
  unfold execVandn; simp [h]

@[simp] theorem execVshl_wf (x0 x1 x2 : BitVec 6) (x3 : BitVec 2) (x4 x5 x6 : BitVec 1) (s : State) (h : Memory.wf s.mem =
    true) : OutWf (execVshl x0 x1 x2 x3 x4 x5 x6 s) := by
  unfold execVshl; simp [h]

@[simp] theorem execVshr_wf (x0 x1 x2 : BitVec 6) (x3 : BitVec 2) (x4 x5 x6 : BitVec 1) (s : State) (h : Memory.wf s.mem =
    true) : OutWf (execVshr x0 x1 x2 x3 x4 x5 x6 s) := by
  unfold execVshr; simp [h]

@[simp] theorem execVsra_wf (x0 x1 x2 : BitVec 6) (x3 : BitVec 2) (x4 x5 x6 : BitVec 1) (s : State) (h : Memory.wf s.mem =
    true) : OutWf (execVsra x0 x1 x2 x3 x4 x5 x6 s) := by
  unfold execVsra; simp [h]

@[simp] theorem execVceq_wf (x0 x1 x2 : BitVec 6) (x3 : BitVec 2) (x4 x5 x6 : BitVec 1) (s : State) (h : Memory.wf s.mem =
    true) : OutWf (execVceq x0 x1 x2 x3 x4 x5 x6 s) := by
  unfold execVceq; simp [h]

@[simp] theorem execVcne_wf (x0 x1 x2 : BitVec 6) (x3 : BitVec 2) (x4 x5 x6 : BitVec 1) (s : State) (h : Memory.wf s.mem =
    true) : OutWf (execVcne x0 x1 x2 x3 x4 x5 x6 s) := by
  unfold execVcne; simp [h]

@[simp] theorem execVclt_wf (x0 x1 x2 : BitVec 6) (x3 : BitVec 2) (x4 x5 x6 : BitVec 1) (s : State) (h : Memory.wf s.mem =
    true) : OutWf (execVclt x0 x1 x2 x3 x4 x5 x6 s) := by
  unfold execVclt; simp [h]

@[simp] theorem execVcle_wf (x0 x1 x2 : BitVec 6) (x3 : BitVec 2) (x4 x5 x6 : BitVec 1) (s : State) (h : Memory.wf s.mem =
    true) : OutWf (execVcle x0 x1 x2 x3 x4 x5 x6 s) := by
  unfold execVcle; simp [h]

@[simp] theorem execVcltu_wf (x0 x1 x2 : BitVec 6) (x3 : BitVec 2) (x4 x5 x6 : BitVec 1) (s : State) (h : Memory.wf s.mem =
    true) : OutWf (execVcltu x0 x1 x2 x3 x4 x5 x6 s) := by
  unfold execVcltu; simp [h]

@[simp] theorem execVcleu_wf (x0 x1 x2 : BitVec 6) (x3 : BitVec 2) (x4 x5 x6 : BitVec 1) (s : State) (h : Memory.wf s.mem =
    true) : OutWf (execVcleu x0 x1 x2 x3 x4 x5 x6 s) := by
  unfold execVcleu; simp [h]

@[simp] theorem execVsel_wf (x0 x1 x2 : BitVec 6) (x3 : BitVec 2) (x4 x5 : BitVec 1) (s : State) (h : Memory.wf s.mem =
    true) : OutWf (execVsel x0 x1 x2 x3 x4 x5 s) := by
  unfold execVsel; simp [h]

@[simp] theorem execVsplat_wf (x0 x1 : BitVec 6) (x2 : BitVec 2) (x3 : BitVec 1) (s : State) (h : Memory.wf s.mem = true) :
    OutWf (execVsplat x0 x1 x2 x3 s) := by
  unfold execVsplat; simp [h]

@[simp] theorem State.setValid_mem (s : State) (x1 : ℕ) : (State.setValid s x1).mem = s.mem := by
  rfl

@[simp] theorem execVext_wf (x0 x1 x2 : BitVec 6) (x3 : BitVec 1) (s : State) (h : Memory.wf s.mem = true) : OutWf (execVext
    x0 x1 x2 x3 s) := by
  unfold execVext; repeat' (first | with_reducible assumption | (simp [*]; done) | split | dsimp only)

@[simp] theorem execVins_wf (x0 x1 x2 : BitVec 6) (x3 : BitVec 2) (s : State) (h : Memory.wf s.mem = true) : OutWf (execVins
    x0 x1 x2 x3 s) := by
  unfold execVins; repeat' (first | with_reducible assumption | (simp [*]; done) | split | dsimp only)

@[simp] theorem State.permute_wf (s : State) (x1 x2 : BitVec 6) (x3 : BitVec 2) (x4 : BitVec 1) (x5 : ℕ → Option (ℕ × ℕ)) (h
    : Memory.wf s.mem = true) : OutWf (State.permute s x1 x2 x3 x4 x5) := by
  unfold State.permute; simp [h]

@[simp] theorem execVperm_wf (x0 x1 x2 : BitVec 6) (x3 : BitVec 2) (x4 x5 x6 : BitVec 1) (s : State) (h : Memory.wf s.mem =
    true) : OutWf (execVperm x0 x1 x2 x3 x4 x5 x6 s) := by
  unfold execVperm; simp [h]

@[simp] theorem execVrot_wf (x0 x1 x2 : BitVec 6) (x3 : BitVec 2) (x4 x5 x6 : BitVec 1) (s : State) (h : Memory.wf s.mem =
    true) : OutWf (execVrot x0 x1 x2 x3 x4 x5 x6 s) := by
  unfold execVrot; simp [h]

@[simp] theorem execVshuf_wf (x0 x1 x2 : BitVec 6) (x3 : BitVec 2) (x4 x5 x6 : BitVec 1) (s : State) (h : Memory.wf s.mem =
    true) : OutWf (execVshuf x0 x1 x2 x3 x4 x5 x6 s) := by
  unfold execVshuf; simp [h]

@[simp] theorem execVred_wf (x0 x1 x2 : BitVec 6) (x3 : BitVec 2) (x4 : BitVec 1) (s : State) (h : Memory.wf s.mem = true) :
    OutWf (execVred x0 x1 x2 x3 x4 s) := by
  unfold execVred; simp [h]

@[simp] theorem execVscan_wf (x0 x1 x2 : BitVec 6) (x3 : BitVec 2) (x4 x5 : BitVec 1) (s : State) (h : Memory.wf s.mem =
    true) : OutWf (execVscan x0 x1 x2 x3 x4 x5 s) := by
  unfold execVscan; simp [h]

@[simp] theorem execVcomp_wf (x0 x1 : BitVec 6) (x2 : BitVec 2) (x3 x4 : BitVec 1) (s : State) (h : Memory.wf s.mem = true)
    : OutWf (execVcomp x0 x1 x2 x3 x4 s) := by
  unfold execVcomp; simp [h]

@[simp] theorem execVexpd_wf (x0 x1 : BitVec 6) (x2 : BitVec 2) (x3 x4 : BitVec 1) (s : State) (h : Memory.wf s.mem = true)
    : OutWf (execVexpd x0 x1 x2 x3 x4 s) := by
  unfold execVexpd; simp [h]

-- Machine/VectorFp.lean.

@[simp] theorem State.vf_wf (s : State) (x1 x2 x3 : ℕ) (x4 x5 x6 : BitVec 6) (x7 : BitVec 2) (x8 : BitVec 1) (x9 : BitVec 2)
    (h : Memory.wf s.mem = true) : OutWf (State.vf s x1 x2 x3 x4 x5 x6 x7 x8 x9) := by
  unfold State.vf; repeat' (first | with_reducible assumption | (simp [*]; done) | split | dsimp only)

@[simp] theorem execVfadd_wf (x0 x1 x2 : BitVec 6) (x3 : BitVec 2) (x4 : BitVec 1) (x5 : BitVec 2) (s : State) (h :
    Memory.wf s.mem = true) : OutWf (execVfadd x0 x1 x2 x3 x4 x5 s) := by
  unfold execVfadd; simp [h]

@[simp] theorem execVfsub_wf (x0 x1 x2 : BitVec 6) (x3 : BitVec 2) (x4 : BitVec 1) (x5 : BitVec 2) (s : State) (h :
    Memory.wf s.mem = true) : OutWf (execVfsub x0 x1 x2 x3 x4 x5 s) := by
  unfold execVfsub; simp [h]

@[simp] theorem execVfmul_wf (x0 x1 x2 : BitVec 6) (x3 : BitVec 2) (x4 : BitVec 1) (x5 : BitVec 2) (s : State) (h :
    Memory.wf s.mem = true) : OutWf (execVfmul x0 x1 x2 x3 x4 x5 s) := by
  unfold execVfmul; simp [h]

@[simp] theorem execVfdiv_wf (x0 x1 x2 : BitVec 6) (x3 : BitVec 2) (x4 : BitVec 1) (x5 : BitVec 2) (s : State) (h :
    Memory.wf s.mem = true) : OutWf (execVfdiv x0 x1 x2 x3 x4 x5 s) := by
  unfold execVfdiv; simp [h]

@[simp] theorem execVfmin_wf (x0 x1 x2 : BitVec 6) (x3 : BitVec 2) (x4 : BitVec 1) (x5 : BitVec 2) (s : State) (h :
    Memory.wf s.mem = true) : OutWf (execVfmin x0 x1 x2 x3 x4 x5 s) := by
  unfold execVfmin; simp [h]

@[simp] theorem execVfmax_wf (x0 x1 x2 : BitVec 6) (x3 : BitVec 2) (x4 : BitVec 1) (x5 : BitVec 2) (s : State) (h :
    Memory.wf s.mem = true) : OutWf (execVfmax x0 x1 x2 x3 x4 x5 s) := by
  unfold execVfmax; simp [h]

@[simp] theorem execVfscpy_wf (x0 x1 x2 : BitVec 6) (x3 : BitVec 2) (x4 : BitVec 1) (x5 : BitVec 2) (s : State) (h :
    Memory.wf s.mem = true) : OutWf (execVfscpy x0 x1 x2 x3 x4 x5 s) := by
  unfold execVfscpy; simp [h]

@[simp] theorem execVfscpyn_wf (x0 x1 x2 : BitVec 6) (x3 : BitVec 2) (x4 : BitVec 1) (x5 : BitVec 2) (s : State) (h :
    Memory.wf s.mem = true) : OutWf (execVfscpyn x0 x1 x2 x3 x4 x5 s) := by
  unfold execVfscpyn; simp [h]

@[simp] theorem execVfma_wf (x0 x1 x2 : BitVec 6) (x3 : BitVec 2) (x4 : BitVec 1) (x5 : BitVec 2) (s : State) (h : Memory.wf
    s.mem = true) : OutWf (execVfma x0 x1 x2 x3 x4 x5 s) := by
  unfold execVfma; simp [h]

@[simp] theorem execVfms_wf (x0 x1 x2 : BitVec 6) (x3 : BitVec 2) (x4 : BitVec 1) (x5 : BitVec 2) (s : State) (h : Memory.wf
    s.mem = true) : OutWf (execVfms x0 x1 x2 x3 x4 x5 s) := by
  unfold execVfms; simp [h]

@[simp] theorem execVfnma_wf (x0 x1 x2 : BitVec 6) (x3 : BitVec 2) (x4 : BitVec 1) (x5 : BitVec 2) (s : State) (h :
    Memory.wf s.mem = true) : OutWf (execVfnma x0 x1 x2 x3 x4 x5 s) := by
  unfold execVfnma; simp [h]

@[simp] theorem execVfnms_wf (x0 x1 x2 : BitVec 6) (x3 : BitVec 2) (x4 : BitVec 1) (x5 : BitVec 2) (s : State) (h :
    Memory.wf s.mem = true) : OutWf (execVfnms x0 x1 x2 x3 x4 x5 s) := by
  unfold execVfnms; simp [h]

@[simp] theorem execVfsqrt_wf (x0 x1 : BitVec 6) (x2 : BitVec 2) (x3 : BitVec 1) (x4 : BitVec 2) (s : State) (h : Memory.wf
    s.mem = true) : OutWf (execVfsqrt x0 x1 x2 x3 x4 s) := by
  unfold execVfsqrt; simp [h]

@[simp] theorem execVfrnd_wf (x0 x1 : BitVec 6) (x2 : BitVec 2) (x3 : BitVec 1) (x4 : BitVec 2) (s : State) (h : Memory.wf
    s.mem = true) : OutWf (execVfrnd x0 x1 x2 x3 x4 s) := by
  unfold execVfrnd; simp [h]

@[simp] theorem execVfclass_wf (x0 x1 : BitVec 6) (x2 : BitVec 2) (x3 : BitVec 1) (x4 : BitVec 2) (s : State) (h : Memory.wf
    s.mem = true) : OutWf (execVfclass x0 x1 x2 x3 x4 s) := by
  unfold execVfclass; simp [h]

@[simp] theorem execVfeq_wf (x0 x1 x2 : BitVec 6) (x3 : BitVec 2) (x4 : BitVec 1) (x5 : BitVec 2) (s : State) (h : Memory.wf
    s.mem = true) : OutWf (execVfeq x0 x1 x2 x3 x4 x5 s) := by
  unfold execVfeq; simp [h]

@[simp] theorem execVflt_wf (x0 x1 x2 : BitVec 6) (x3 : BitVec 2) (x4 : BitVec 1) (x5 : BitVec 2) (s : State) (h : Memory.wf
    s.mem = true) : OutWf (execVflt x0 x1 x2 x3 x4 x5 s) := by
  unfold execVflt; simp [h]

@[simp] theorem execVfle_wf (x0 x1 x2 : BitVec 6) (x3 : BitVec 2) (x4 : BitVec 1) (x5 : BitVec 2) (s : State) (h : Memory.wf
    s.mem = true) : OutWf (execVfle x0 x1 x2 x3 x4 x5 s) := by
  unfold execVfle; simp [h]

@[simp] theorem execVfunord_wf (x0 x1 x2 : BitVec 6) (x3 : BitVec 2) (x4 : BitVec 1) (x5 : BitVec 2) (s : State) (h :
    Memory.wf s.mem = true) : OutWf (execVfunord x0 x1 x2 x3 x4 x5 s) := by
  unfold execVfunord; simp [h]

@[simp] theorem execVfeqx_wf (x0 x1 x2 : BitVec 6) (x3 : BitVec 2) (x4 : BitVec 1) (x5 : BitVec 2) (s : State) (h :
    Memory.wf s.mem = true) : OutWf (execVfeqx x0 x1 x2 x3 x4 x5 s) := by
  unfold execVfeqx; simp [h]

@[simp] theorem execVfltx_wf (x0 x1 x2 : BitVec 6) (x3 : BitVec 2) (x4 : BitVec 1) (x5 : BitVec 2) (s : State) (h :
    Memory.wf s.mem = true) : OutWf (execVfltx x0 x1 x2 x3 x4 x5 s) := by
  unfold execVfltx; simp [h]

@[simp] theorem execVflex_wf (x0 x1 x2 : BitVec 6) (x3 : BitVec 2) (x4 : BitVec 1) (x5 : BitVec 2) (s : State) (h :
    Memory.wf s.mem = true) : OutWf (execVflex x0 x1 x2 x3 x4 x5 s) := by
  unfold execVflex; simp [h]

@[simp] theorem execVfne_wf (x0 x1 x2 : BitVec 6) (x3 : BitVec 2) (x4 : BitVec 1) (x5 : BitVec 2) (s : State) (h : Memory.wf
    s.mem = true) : OutWf (execVfne x0 x1 x2 x3 x4 x5 s) := by
  unfold execVfne; simp [h]

@[simp] theorem execVfexp2_wf (x0 x1 : BitVec 6) (x2 : BitVec 2) (x3 : BitVec 1) (x4 : BitVec 2) (s : State) (h : Memory.wf
    s.mem = true) : OutWf (execVfexp2 x0 x1 x2 x3 x4 s) := by
  unfold execVfexp2; simp [h]

@[simp] theorem execVflog2_wf (x0 x1 : BitVec 6) (x2 : BitVec 2) (x3 : BitVec 1) (x4 : BitVec 2) (s : State) (h : Memory.wf
    s.mem = true) : OutWf (execVflog2 x0 x1 x2 x3 x4 s) := by
  unfold execVflog2; simp [h]

@[simp] theorem execVfsinpi_wf (x0 x1 : BitVec 6) (x2 : BitVec 2) (x3 : BitVec 1) (x4 : BitVec 2) (s : State) (h : Memory.wf
    s.mem = true) : OutWf (execVfsinpi x0 x1 x2 x3 x4 s) := by
  unfold execVfsinpi; simp [h]

@[simp] theorem execVfcospi_wf (x0 x1 : BitVec 6) (x2 : BitVec 2) (x3 : BitVec 1) (x4 : BitVec 2) (s : State) (h : Memory.wf
    s.mem = true) : OutWf (execVfcospi x0 x1 x2 x3 x4 s) := by
  unfold execVfcospi; simp [h]

@[simp] theorem execVfrsqrt_wf (x0 x1 : BitVec 6) (x2 : BitVec 2) (x3 : BitVec 1) (x4 : BitVec 2) (s : State) (h : Memory.wf
    s.mem = true) : OutWf (execVfrsqrt x0 x1 x2 x3 x4 s) := by
  unfold execVfrsqrt; simp [h]

@[simp] theorem execVftanh_wf (x0 x1 : BitVec 6) (x2 : BitVec 2) (x3 : BitVec 1) (x4 : BitVec 2) (s : State) (h : Memory.wf
    s.mem = true) : OutWf (execVftanh x0 x1 x2 x3 x4 s) := by
  unfold execVftanh; simp [h]

@[simp] theorem execVftailr_wf (x0 x1 : BitVec 6) (x2 : BitVec 2) (x3 : BitVec 1) (x4 : BitVec 2) (s : State) (h : Memory.wf
    s.mem = true) : OutWf (execVftailr x0 x1 x2 x3 x4 s) := by
  unfold execVftailr; simp [h]

@[simp] theorem execVftailw_wf (x0 x1 : BitVec 6) (x2 : BitVec 2) (x3 : BitVec 1) (x4 : BitVec 2) (s : State) (h : Memory.wf
    s.mem = true) : OutWf (execVftailw x0 x1 x2 x3 x4 s) := by
  unfold execVftailw; simp [h]

@[simp] theorem execVfcvt_wf (x0 x1 : BitVec 6) (x2 : BitVec 2) (x3 : BitVec 1) (x4 x5 : BitVec 4) (x6 : BitVec 3) (s :
    State) (h : Memory.wf s.mem = true) : OutWf (execVfcvt x0 x1 x2 x3 x4 x5 x6 s) := by
  unfold execVfcvt; repeat' (first | with_reducible assumption | (simp [*]; done) | split | dsimp only)

end Sys2Proof.Machine
end

