-- ==== Sys2Proof/Laws/CanonicalAccess.lean ====
section
/-! SUPPORT. Memory keeps its canonical form (part Access): the loads and stores, the atomics, the synchronisation instructions, the tile instructions and the matrix engine.
A lemma `F_mem` says that `F` leaves memory as it is; a lemma `F_wf` says that `F` keeps `Memory.wf` (for a meaning: of the
next state, `OutWf`). -/

set_option linter.unusedSimpArgs false
set_option linter.unusedVariables false
set_option linter.unreachableTactic false
set_option linter.unusedTactic false

namespace Sys2Proof.Machine

-- Machine/LoadStore.lean.

@[simp] theorem State.consumed_mem (s : State) (x1 : BitVec 7) (x2 : ℕ) (x3 : BitVec 16) (x4 : BitVec 17) : (State.consumed
    s x1 x2 x3 x4).mem = s.mem := by
  unfold State.consumed; simp [foldl_mem, apply_ite State.mem]

@[simp] theorem State.failed_wf (s : State) (x1 : BitVec 7 × Word) (h : Memory.wf s.mem = true) : OutWf (State.failed s x1)
    := by
  unfold State.failed; repeat' (first | with_reducible assumption | (simp [*]; done) | split | dsimp only)

theorem State.devRead_wf (s : State) (w : Writer) (o n : Nat) (h : Memory.wf s.mem = true) :
    Memory.wf (s.devRead w o n).1.mem = true := by
  rw [State.devRead_mem]; exact h

theorem fst_pair_wf (b : Bool) (x : State) (c : List Byte) (y : State × List Byte) (hx : Memory.wf x.mem = true)
    (hy : Memory.wf y.1.mem = true) : Memory.wf (if b = true then (x, c) else y).1.mem = true := by
  cases b
  · exact hy
  · exact hx

theorem fst_ite_wf (b : Bool) (x y : State × List Byte) (hx : Memory.wf x.1.mem = true) (hy : Memory.wf y.1.mem = true) :
    Memory.wf (if b = true then x else y).1.mem = true := by
  cases b
  · exact hy
  · exact hx

theorem State.readAll_nil (s : State) (one : Bool) :
    s.readAll [] one = if one then s.readOnce s.th [] else s.readPlaces s.th [] := by
  unfold State.readAll; rfl

theorem State.readAll_many (s : State) (p q : Place) (r : List Place) (one : Bool) : s.readAll (p :: q :: r) one =
    if one then s.readOnce s.th (p :: q :: r) else s.readPlaces s.th (p :: q :: r) := by
  unfold State.readAll; rfl

theorem State.readAll_one (s : State) (p : Place) (one : Bool) : s.readAll [p] one = if p.isDevice then
      ((s.devRead (.thread s.th.priv) p.devOff p.n).1, bytesOfNat p.n (s.devRead (.thread s.th.priv) p.devOff p.n).2)
    else s.readPlaces s.th [p] := by
  unfold State.readAll; rfl

@[simp] theorem State.readAll_wf (s : State) (ps : List Place) (one : Bool) (h : Memory.wf s.mem = true) :
    Memory.wf (s.readAll ps one).1.mem = true := by
  match ps with
  | [] => rw [State.readAll_nil]; exact fst_ite_wf _ _ _ (State.readOnce_wf s _ _ h) (State.readPlaces_wf s _ _ h)
  | [p] => rw [State.readAll_one]; exact fst_pair_wf _ _ _ _ (State.devRead_wf s _ _ _ h) (State.readPlaces_wf s _ _ h)
  | p :: q :: r => rw [State.readAll_many]; exact fst_ite_wf _ _ _ (State.readOnce_wf s _ _ h) (State.readPlaces_wf s _ _ h)

theorem State.readChecked_wf (s : State) (ps : List Place) (k : State → List Byte → State) (one : Bool)
    (h : Memory.wf s.mem = true) (hk : ∀ t b, Memory.wf t.mem = true → Memory.wf (k t b).mem = true) :
    OutWf (s.readChecked ps k one) := by
  unfold State.readChecked
  split
  · exact State.failed_wf _ _ h
  · split
    · simpa using h
    · exact State.retire_wf _ (hk _ _ (State.readAll_wf s ps one h))

theorem State.load_wf (s : State) (x : Word) (n align : Nat) (acc : Acc) (rq : BitVec 2) (k : State → List Byte → State)
    (h : Memory.wf s.mem = true) (hk : ∀ t b, Memory.wf t.mem = true → Memory.wf (k t b).mem = true) :
    OutWf (s.load x n align acc rq k) := by
  unfold State.load
  split
  · exact State.failed_wf _ _ h
  · exact State.readChecked_wf _ _ _ _ h hk

@[simp] theorem State.writeHeld_wf (s : State) (t : Thread) (w : Place × List Byte) (h : Memory.wf s.mem = true) :
    Memory.wf (s.writeHeld t w).mem = true := by
  unfold State.writeHeld
  split
  · rw [State.devWrite_mem]; exact h
  · exact State.pokeAll_wf _ _ _ _ _ h

@[simp] theorem State.perform_wf (s : State) (t : Thread) (ws : List (Place × List Byte)) (one : Bool)
    (h : Memory.wf s.mem = true) : Memory.wf (s.perform t ws one).mem = true := by
  unfold State.perform
  rw [State.clearMarks_mem]
  split
  · exact foldl_wf _ _ _ (fun u w hu => State.writeHeld_wf _ _ _ hu) (State.prepareOnce_wf _ _ _ _ _ h)
  · refine foldl_wf _ _ _ (fun u w hu => ?_) h
    split
    · rw [State.devWrite_mem]; exact hu
    · exact State.writePlace_wf _ _ _ _ hu

@[simp] theorem State.storeNow_wf (s : State) (x1 : Thread) (x2 : HeldStore) (h : Memory.wf s.mem = true) : Memory.wf
    (State.storeNow s x1 x2).mem = true := by
  unfold State.storeNow; repeat' (first | with_reducible assumption | (simp [*]; done) | split | dsimp only)

@[simp] theorem State.storeOut_wf (s : State) (x1 : List (Place × List Byte)) (x2 : Bool) (h : Memory.wf s.mem = true) :
    Memory.wf (State.storeOut s x1 x2).mem = true := by
  unfold State.storeOut; repeat' (first | with_reducible assumption | (simp [*]; done) | split | dsimp only)

theorem State.writeChecked_wf (s : State) (ws : List (Place × List Byte)) (k : State → State) (one : Bool)
    (h : Memory.wf s.mem = true) (hk : ∀ t, Memory.wf t.mem = true → Memory.wf (k t).mem = true) :
    OutWf (s.writeChecked ws k one) := by
  unfold State.writeChecked
  split
  · exact State.failed_wf _ _ h
  · exact State.retire_wf _ (hk _ (State.storeOut_wf s ws one h))

@[simp] theorem State.drain_wf (s : State) (b : BitVec 17) (n : ℕ) (h : Memory.wf s.mem = true) :
    Memory.wf (s.drain b n).mem = true := by
  induction n generalizing s with
  | zero => exact h
  | succ n ih =>
    unfold State.drain
    split
    · exact h
    · split
      · exact h
      · split
        · simpa using h
        · exact ih _ (State.perform_wf _ _ _ _ (by simpa using h))

theorem State.store_wf (s : State) (x : Word) (n align : Nat) (acc : Acc) (rq : BitVec 2) (bs : List Byte)
    (k : State → State) (h : Memory.wf s.mem = true) (hk : ∀ t, Memory.wf t.mem = true → Memory.wf (k t).mem = true) :
    OutWf (s.store x n align acc rq bs k) := by
  unfold State.store
  split
  · exact State.failed_wf _ _ h
  · exact State.writeChecked_wf _ _ _ _ h hk

@[simp] theorem State.ordered_mem (s : State) (x1 : BitVec 2) (x2 : Word) : (State.ordered s x1 x2).mem = s.mem := by
  unfold State.ordered; simp [foldl_mem, apply_ite State.mem]

@[simp] theorem State.loadS_wf (s : State) (n : Nat) (sg : Bool) (d a : BitVec 6) (q o : BitVec 2) (i : BitVec 10)
    (h : Memory.wf s.mem = true) : OutWf (s.loadS n sg d a q o i) := by
  unfold State.loadS
  dsimp only
  split
  · exact (OutWf_next s).2 h
  · exact State.load_wf _ _ _ _ _ _ _ h (fun t b ht => by simpa using ht)

@[simp] theorem State.storeS_wf (s : State) (n : Nat) (b a : BitVec 6) (q o : BitVec 2) (i : BitVec 10)
    (h : Memory.wf s.mem = true) : OutWf (s.storeS n b a q o i) := by
  unfold State.storeS
  dsimp only
  split
  · exact (OutWf_next s).2 h
  · exact State.store_wf _ _ _ _ _ _ _ _ h (fun t ht => by simpa using ht)

@[simp] theorem execLdb_wf (x0 x1 : BitVec 6) (x2 x3 : BitVec 2) (x4 : BitVec 10) (s : State) (h : Memory.wf s.mem = true) :
    OutWf (execLdb x0 x1 x2 x3 x4 s) := by
  unfold execLdb; simp [h]

@[simp] theorem execLdh_wf (x0 x1 : BitVec 6) (x2 x3 : BitVec 2) (x4 : BitVec 10) (s : State) (h : Memory.wf s.mem = true) :
    OutWf (execLdh x0 x1 x2 x3 x4 s) := by
  unfold execLdh; simp [h]

@[simp] theorem execLdw_wf (x0 x1 : BitVec 6) (x2 x3 : BitVec 2) (x4 : BitVec 10) (s : State) (h : Memory.wf s.mem = true) :
    OutWf (execLdw x0 x1 x2 x3 x4 s) := by
  unfold execLdw; simp [h]

@[simp] theorem execLdd_wf (x0 x1 : BitVec 6) (x2 x3 : BitVec 2) (x4 : BitVec 10) (s : State) (h : Memory.wf s.mem = true) :
    OutWf (execLdd x0 x1 x2 x3 x4 s) := by
  unfold execLdd; simp [h]

@[simp] theorem execLdbu_wf (x0 x1 : BitVec 6) (x2 x3 : BitVec 2) (x4 : BitVec 10) (s : State) (h : Memory.wf s.mem = true)
    : OutWf (execLdbu x0 x1 x2 x3 x4 s) := by
  unfold execLdbu; simp [h]

@[simp] theorem execLdhu_wf (x0 x1 : BitVec 6) (x2 x3 : BitVec 2) (x4 : BitVec 10) (s : State) (h : Memory.wf s.mem = true)
    : OutWf (execLdhu x0 x1 x2 x3 x4 s) := by
  unfold execLdhu; simp [h]

@[simp] theorem execLdwu_wf (x0 x1 : BitVec 6) (x2 x3 : BitVec 2) (x4 : BitVec 10) (s : State) (h : Memory.wf s.mem = true)
    : OutWf (execLdwu x0 x1 x2 x3 x4 s) := by
  unfold execLdwu; simp [h]

@[simp] theorem execStb_wf (x0 x1 : BitVec 6) (x2 x3 : BitVec 2) (x4 : BitVec 10) (s : State) (h : Memory.wf s.mem = true) :
    OutWf (execStb x0 x1 x2 x3 x4 s) := by
  unfold execStb; simp [h]

@[simp] theorem execSth_wf (x0 x1 : BitVec 6) (x2 x3 : BitVec 2) (x4 : BitVec 10) (s : State) (h : Memory.wf s.mem = true) :
    OutWf (execSth x0 x1 x2 x3 x4 s) := by
  unfold execSth; simp [h]

@[simp] theorem execStw_wf (x0 x1 : BitVec 6) (x2 x3 : BitVec 2) (x4 : BitVec 10) (s : State) (h : Memory.wf s.mem = true) :
    OutWf (execStw x0 x1 x2 x3 x4 s) := by
  unfold execStw; simp [h]

@[simp] theorem execStd_wf (x0 x1 : BitVec 6) (x2 x3 : BitVec 2) (x4 : BitVec 10) (s : State) (h : Memory.wf s.mem = true) :
    OutWf (execStd x0 x1 x2 x3 x4 s) := by
  unfold execStd; simp [h]

@[simp] theorem execFld_wf (d a : BitVec 6) (f : BitVec 4) (q : BitVec 2) (i : BitVec 8) (s : State) (h : Memory.wf s.mem = true) :
    OutWf (execFld d a f q i s) := 
  State.load_wf _ _ _ _ _ _ _ h (fun t b ht => by simpa using ht)

@[simp] theorem execFst_wf (b a : BitVec 6) (f : BitVec 4) (m : BitVec 3) (i : BitVec 7) (s : State)
    (h : Memory.wf s.mem = true) : OutWf (execFst b a f m i s) := by
  unfold execFst
  dsimp only
  split
  · exact State.failed_wf _ _ h
  · split
    · exact State.trap_wf _ _ _ h
    · exact State.writeChecked_wf _ _ _ _ h (fun t ht => ht)

@[simp] theorem execLdt_wf (d a : BitVec 6) (i : BitVec 14) (s : State) (h : Memory.wf s.mem = true) :
    OutWf (execLdt d a i s) := 
  State.load_wf _ _ _ _ _ _ _ h (fun t b ht => by simpa using ht)

@[simp] theorem execStt_wf (d a : BitVec 6) (i : BitVec 14) (s : State) (h : Memory.wf s.mem = true) :
    OutWf (execStt d a i s) := State.store_wf _ _ _ _ _ _ _ _ h (fun _ ht => ht)

@[simp] theorem execVldt_wf (d a : BitVec 6) (q : BitVec 2) (s : State) (h : Memory.wf s.mem = true) :
    OutWf (execVldt d a q s) := 
  State.load_wf _ _ _ _ _ _ _ h (fun t b ht => by simpa using ht)

@[simp] theorem execVstt_wf (d a : BitVec 6) (q : BitVec 2) (s : State) (h : Memory.wf s.mem = true) :
    OutWf (execVstt d a q s) := State.store_wf _ _ _ _ _ _ _ _ h (fun _ ht => ht)

@[simp] theorem State.vload_wf (s : State) (d : BitVec 6) (mk : BitVec 2) (p : BitVec 1) (rq : BitVec 2) (x : Nat → Word)
    (one : Bool) (h : Memory.wf s.mem = true) : OutWf (s.vload d mk p rq x one) := by
  unfold State.vload
  dsimp only
  split
  · exact State.failed_wf _ _ h
  · exact State.readChecked_wf _ _ _ _ h (fun t b ht => by simpa using ht)

@[simp] theorem State.vstore_wf (s : State) (d : BitVec 6) (mk rq : BitVec 2) (x : Nat → Word) (one : Bool)
    (h : Memory.wf s.mem = true) : OutWf (s.vstore d mk rq x one) := by
  unfold State.vstore
  dsimp only
  split
  · exact State.failed_wf _ _ h
  · split
    · exact State.trap_wf _ _ _ h
    · exact State.writeChecked_wf _ _ _ _ h (fun t ht => ht)

@[simp] theorem execVld_wf (x0 x1 : BitVec 6) (x2 : BitVec 2) (x3 : BitVec 1) (x4 : BitVec 2) (x5 : BitVec 9) (s : State) (h
    : Memory.wf s.mem = true) : OutWf (execVld x0 x1 x2 x3 x4 x5 s) := by
  unfold execVld; simp [h]

@[simp] theorem execVst_wf (x0 x1 : BitVec 6) (x2 x3 : BitVec 2) (x4 : BitVec 9) (s : State) (h : Memory.wf s.mem = true) :
    OutWf (execVst x0 x1 x2 x3 x4 s) := by
  unfold execVst; simp [h]

@[simp] theorem execVlds_wf (x0 x1 x2 : BitVec 6) (x3 : BitVec 2) (x4 : BitVec 1) (x5 : BitVec 2) (s : State) (h : Memory.wf
    s.mem = true) : OutWf (execVlds x0 x1 x2 x3 x4 x5 s) := by
  unfold execVlds; simp [h]

@[simp] theorem execVgather_wf (x0 x1 x2 : BitVec 6) (x3 : BitVec 2) (x4 : BitVec 1) (x5 : BitVec 2) (s : State) (h :
    Memory.wf s.mem = true) : OutWf (execVgather x0 x1 x2 x3 x4 x5 s) := by
  unfold execVgather; simp [h]

@[simp] theorem execVsts_wf (x0 x1 x2 : BitVec 6) (x3 x4 : BitVec 2) (s : State) (h : Memory.wf s.mem = true) : OutWf
    (execVsts x0 x1 x2 x3 x4 s) := by
  unfold execVsts; simp [h]

@[simp] theorem execVscatter_wf (x0 x1 x2 : BitVec 6) (x3 x4 : BitVec 2) (s : State) (h : Memory.wf s.mem = true) : OutWf
    (execVscatter x0 x1 x2 x3 x4 s) := by
  unfold execVscatter; simp [h]

-- Machine/Atomic.lean.

@[simp] theorem State.atomically_wf (s : State) (ag : Agent) (ps : List Place) (f : List Byte → Option (List Byte))
    (h : Memory.wf s.mem = true) : Memory.wf (s.atomically ag ps f).1.mem = true := by
  have hp := foldl_wf (fun (s : State) (p : Place) => s.prepare ag p true) ps s (fun u p hu => State.prepare_wf _ _ _ _ hu) h
  unfold State.atomically
  dsimp only
  split
  · exact hp
  · exact (by rw [State.clearMarks_mem]; exact foldl_wf _ _ _ (fun u w hu => State.pokeAll_wf _ _ _ _ _ hu) hp)

@[simp] theorem State.rouseAmo_mem (s : State) (x1 : Agent) (x2 x3 x4 x5 : ℕ) (x6 : List Place) : (State.rouseAmo s x1 x2 x3
    x4 x5 x6).mem = s.mem := by
  unfold State.rouseAmo; simp

@[simp] theorem State.amo_wf (s : State) (x1 : ℕ) (x2 x3 x4 : BitVec 6) (x5 : BitVec 1) (x6 : BitVec 3) (h : Memory.wf s.mem
    = true) : OutWf (State.amo s x1 x2 x3 x4 x5 x6) := by
  unfold State.amo; repeat' (first | with_reducible assumption | (simp [*]; done) | split | dsimp only)

@[simp] theorem execAmoadd_wf (x0 x1 x2 : BitVec 6) (x3 : BitVec 1) (x4 : BitVec 3) (s : State) (h : Memory.wf s.mem = true)
    : OutWf (execAmoadd x0 x1 x2 x3 x4 s) := by
  unfold execAmoadd; simp [h]

@[simp] theorem execAmoand_wf (x0 x1 x2 : BitVec 6) (x3 : BitVec 1) (x4 : BitVec 3) (s : State) (h : Memory.wf s.mem = true)
    : OutWf (execAmoand x0 x1 x2 x3 x4 s) := by
  unfold execAmoand; simp [h]

@[simp] theorem execAmoor_wf (x0 x1 x2 : BitVec 6) (x3 : BitVec 1) (x4 : BitVec 3) (s : State) (h : Memory.wf s.mem = true)
    : OutWf (execAmoor x0 x1 x2 x3 x4 s) := by
  unfold execAmoor; simp [h]

@[simp] theorem execAmoxor_wf (x0 x1 x2 : BitVec 6) (x3 : BitVec 1) (x4 : BitVec 3) (s : State) (h : Memory.wf s.mem = true)
    : OutWf (execAmoxor x0 x1 x2 x3 x4 s) := by
  unfold execAmoxor; simp [h]

@[simp] theorem execAmomin_wf (x0 x1 x2 : BitVec 6) (x3 : BitVec 1) (x4 : BitVec 3) (s : State) (h : Memory.wf s.mem = true)
    : OutWf (execAmomin x0 x1 x2 x3 x4 s) := by
  unfold execAmomin; simp [h]

@[simp] theorem execAmomax_wf (x0 x1 x2 : BitVec 6) (x3 : BitVec 1) (x4 : BitVec 3) (s : State) (h : Memory.wf s.mem = true)
    : OutWf (execAmomax x0 x1 x2 x3 x4 s) := by
  unfold execAmomax; simp [h]

@[simp] theorem execAmominu_wf (x0 x1 x2 : BitVec 6) (x3 : BitVec 1) (x4 : BitVec 3) (s : State) (h : Memory.wf s.mem =
    true) : OutWf (execAmominu x0 x1 x2 x3 x4 s) := by
  unfold execAmominu; simp [h]

@[simp] theorem execAmomaxu_wf (x0 x1 x2 : BitVec 6) (x3 : BitVec 1) (x4 : BitVec 3) (s : State) (h : Memory.wf s.mem =
    true) : OutWf (execAmomaxu x0 x1 x2 x3 x4 s) := by
  unfold execAmomaxu; simp [h]

@[simp] theorem execAmoswap_wf (x0 x1 x2 : BitVec 6) (x3 : BitVec 1) (x4 : BitVec 3) (s : State) (h : Memory.wf s.mem =
    true) : OutWf (execAmoswap x0 x1 x2 x3 x4 s) := by
  unfold execAmoswap; simp [h]

@[simp] theorem execAmocas_wf (x0 x1 x2 : BitVec 6) (x3 : BitVec 1) (x4 : BitVec 3) (s : State) (h : Memory.wf s.mem = true)
    : OutWf (execAmocas x0 x1 x2 x3 x4 s) := by
  unfold execAmocas; simp [h]

@[simp] theorem State.wamo_wf (s : State) (x1 : Thread) (x2 : Agent) (x3 : ℕ) (x4 : Word) (x5 : BitVec 2) (x6 : BitVec 3)
    (x7 : BitVec 5) (x8 : List Place → Bool) (x9 : WArg) (h : Memory.wf s.mem = true) : Memory.wf (State.wamo s x1 x2 x3 x4
    x5 x6 x7 x8 x9).1.mem = true := by
  unfold State.wamo; repeat' (first | with_reducible assumption | (simp [*]; done) | split | dsimp only)

@[simp] theorem State.wide_wf (s : State) (wop : Nat) (d a b : BitVec 6) (sc : BitVec 3) (h : Memory.wf s.mem = true) :
    OutWf (s.wide wop d a b sc) := by
  unfold State.wide
  dsimp only
  split
  · exact State.retire_wf _ (by simpa using h)
  · generalize hx : State.wamo _ _ _ _ _ _ _ _ _ _ = w
    have hw : Memory.wf w.1.mem = true := hx ▸ State.wamo_wf _ _ _ _ _ _ _ _ _ _ h
    obtain ⟨u, _ | e | v⟩ := w
    · exact (OutWf_next _).2 hw
    · exact State.failed_wf _ _ hw
    · exact State.retire_wf _ (by simpa using hw)

@[simp] theorem execCas2_wf (x0 x1 x2 : BitVec 6) (x3 : BitVec 3) (s : State) (h : Memory.wf s.mem = true) : OutWf (execCas2
    x0 x1 x2 x3 s) := by
  unfold execCas2; simp [h]

@[simp] theorem execSwap2_wf (x0 x1 x2 : BitVec 6) (x3 : BitVec 3) (s : State) (h : Memory.wf s.mem = true) : OutWf
    (execSwap2 x0 x1 x2 x3 s) := by
  unfold execSwap2; simp [h]

@[simp] theorem execFaddaF_wf (x0 x1 x2 : BitVec 6) (x3 : BitVec 3) (s : State) (h : Memory.wf s.mem = true) : OutWf
    (execFaddaF x0 x1 x2 x3 s) := by
  unfold execFaddaF; simp [h]

@[simp] theorem execFaddaD_wf (x0 x1 x2 : BitVec 6) (x3 : BitVec 3) (s : State) (h : Memory.wf s.mem = true) : OutWf
    (execFaddaD x0 x1 x2 x3 s) := by
  unfold execFaddaD; simp [h]

@[simp] theorem execVamoadd_wf (x0 x1 x2 : BitVec 6) (x3 : BitVec 3) (s : State) (h : Memory.wf s.mem = true) : OutWf
    (execVamoadd x0 x1 x2 x3 s) := by
  unfold execVamoadd; simp [h]

-- Machine/Sync.lean.

theorem State.pageCheck_wf (s : State) (x : Word) (acc : Acc) (k : Nat → BitVec 52 → Out) (h : Memory.wf s.mem = true)
    (hk : ∀ a b, OutWf (k a b)) : OutWf (s.pageCheck x acc k) := by
  unfold State.pageCheck
  split
  · exact State.failed_wf _ _ h
  · exact hk _ _

@[simp] theorem State.append_wf (s : State) (d a : BitVec 6) (data : List Byte) (h : Memory.wf s.mem = true) :
    OutWf (s.append d a data) := State.pageCheck_wf _ _ _ _ h (fun _ _ => State.retire_wf _ (by simpa using h))

@[simp] theorem execAppendW_wf (x0 x1 x2 : BitVec 6) (s : State) (h : Memory.wf s.mem = true) : OutWf (execAppendW x0 x1 x2
    s) := by
  unfold execAppendW; simp [h]

@[simp] theorem execAppendD_wf (x0 x1 x2 : BitVec 6) (s : State) (h : Memory.wf s.mem = true) : OutWf (execAppendD x0 x1 x2
    s) := by
  unfold execAppendD; simp [h]

@[simp] theorem execAppendv_wf (x0 x1 x2 : BitVec 6) (s : State) (h : Memory.wf s.mem = true) : OutWf (execAppendv x0 x1 x2
    s) := by
  unfold execAppendv; simp [h]

@[simp] theorem execSealPage_wf (d a : BitVec 6) (s : State) (h : Memory.wf s.mem = true) :
    OutWf (execSealPage d a s) := State.pageCheck_wf _ _ _ _ h (fun _ _ => State.retire_wf _ (by simpa using h))

@[simp] theorem State.putPage_mem (s : State) (x1 : AppendPage) : (State.putPage s x1).mem = s.mem := by
  rfl

@[simp] theorem execTailq_wf (d a : BitVec 6) (s : State) (h : Memory.wf s.mem = true) :
    OutWf (execTailq d a s) := State.pageCheck_wf _ _ _ _ h (fun _ _ => by
  dsimp only
  split
  · exact (OutWf_next s).2 h
  · split
    · exact (OutWf_next _).2 (by simpa using h)
    · exact State.retire_wf _ (by simpa using h))

theorem mergeDirty_wf (m : List Host.Cell) (c : DieCopy) (h : Memory.wf m = true) : Memory.wf (mergeDirty m c) = true := by
  unfold mergeDirty
  generalize List.range 64 = l
  induction l generalizing m with
  | nil => exact h
  | cons k r ih =>
    rw [List.foldl_cons]
    refine ih _ ?_
    split
    · exact Memory.set_wf _ _ h
    · exact h

@[simp] theorem State.cleanCopy_mem (s : State) (x1 : BitVec 6) (x2 : BitVec 52) : (State.cleanCopy s x1 x2).mem = s.mem := rfl

@[simp] theorem State.writeBackDie_wf (s : State) (d : BitVec 6) (l : BitVec 52) (h : Memory.wf s.mem = true) :
    Memory.wf (s.writeBackDie d l).mem = true := by
  unfold State.writeBackDie
  split
  · exact h
  · dsimp only
    have hc : Memory.wf (s.cleanCopy d l).mem = true := h
    split
    · exact h
    · split
      · exact State.send_wf _ _ hc
      · split
        · rw [State.clearMarks_mem]
          exact mergeDirty_wf _ _ (State.transact_wf _ _ _ _ _ (State.probeStash_wf _ _ hc))
        · exact mergeDirty_wf _ _ (State.transact_wf _ _ _ _ _ (State.probeStash_wf _ _ hc))

@[simp] theorem State.dropDie_mem (s : State) (x1 : BitVec 6) (x2 : BitVec 52) : (State.dropDie s x1 x2).mem = s.mem := by
  unfold State.dropDie; simp [foldl_mem, apply_ite State.mem]

@[simp] theorem State.sendPutb_wf (s : State) (x1 : Thread) (x2 : DieCopy) (h : Memory.wf s.mem = true) : Memory.wf
    (State.sendPutb s x1 x2).mem = true := by
  unfold State.sendPutb; simp [h]

@[simp] theorem State.cleanOwned_mem (s : State) (x1 : Thread) (x2 x3 : ℕ) : (State.cleanOwned s x1 x2 x3).mem = s.mem := rfl

@[simp] theorem State.rangeOp_wf (s : State) (r x n : Nat) (h : Memory.wf s.mem = true) : Memory.wf (s.rangeOp r x n).mem = true := by
  unfold State.rangeOp
  dsimp only
  have hw : ∀ u : State, u = (if r = 1 then s else State.cleanOwned
      (((s.dieCopiesIn s.th x n).filter (·.dirty != 0)).foldl (fun (s' : State) c => s'.sendPutb s.th c) s) s.th x n) →
      Memory.wf u.mem = true := by
    rintro u rfl
    split
    · exact h
    · rw [State.cleanOwned_mem]; exact foldl_wf _ _ _ (fun _ _ hu => State.sendPutb_wf _ _ _ hu) h
  split
  · exact hw _ rfl
  · rw [State.discardCopies_mem, foldl_mem _ _ _ (fun _ _ => State.dropDie_mem _ _ _)]
    exact hw _ rfl

@[simp] theorem State.opDone_mem (s : State) (x1 : BitVec 6) (x2 : Word) : (State.opDone s x1 x2).mem = s.mem := by
  rfl

@[simp] theorem State.range_wf (s : State) (x1 : ℕ) (x2 x3 x4 : BitVec 6) (x5 : BitVec 3) (h : Memory.wf s.mem = true) :
    OutWf (State.range s x1 x2 x3 x4 x5) := by
  unfold State.range
  repeat' (first | with_reducible assumption | (simp [*, foldl_wf, foldl_mem]; done) |
    (with_reducible refine foldl_wf _ _ _ (fun s a h => ?_) ?_) | split | dsimp only)

@[simp] theorem execWbr_wf (x0 x1 x2 : BitVec 6) (x3 : BitVec 3) (s : State) (h : Memory.wf s.mem = true) : OutWf (execWbr
    x0 x1 x2 x3 s) := by
  unfold execWbr; simp [h]

@[simp] theorem execInvr_wf (x0 x1 x2 : BitVec 6) (x3 : BitVec 3) (s : State) (h : Memory.wf s.mem = true) : OutWf (execInvr
    x0 x1 x2 x3 s) := by
  unfold execInvr; simp [h]

@[simp] theorem execWbinvr_wf (x0 x1 x2 : BitVec 6) (x3 : BitVec 3) (s : State) (h : Memory.wf s.mem = true) : OutWf
    (execWbinvr x0 x1 x2 x3 s) := by
  unfold execWbinvr; simp [h]

@[simp] theorem State.merged_mem (s : State) (x1 : BitVec 6) (x2 : BitVec 52) : (State.merged s x1 x2).mem = s.mem := by
  unfold State.merged
  split
  · rfl
  · refine foldl_mem _ _ _ (fun s x => ?_)
    dsimp only
    split
    · exact State.fillWord_mem _ _ _ _
    · exact State.putOp_mem _ _ _

@[simp] theorem State.rangePoisoned_mem (s : State) (x1 : BitVec 6) (x2 : BitVec 52) : (State.rangePoisoned s x1 x2).mem =
    s.mem := by
  unfold State.rangePoisoned; repeat' split
  all_goals first | rfl | simp [foldl_mem, apply_ite State.mem]

@[simp] theorem State.prefetch_mem (s : State) (x1 : Leaf) (x2 : ℕ) (x3 : Bool) : (State.prefetch s x1 x2 x3).mem = s.mem :=
    by
  unfold State.prefetch; simp [foldl_mem, apply_ite State.mem]

@[simp] theorem execPref_wf (x0 x1 : BitVec 6) (s : State) (h : Memory.wf s.mem = true) : OutWf (execPref x0 x1 s) := by
  unfold execPref; repeat' (first | with_reducible assumption | (simp [*]; done) | split | dsimp only)

@[simp] theorem State.unmap_wf (s : State) (x1 : Thread) (x2 : ℕ) (h : Memory.wf s.mem = true) : Memory.wf (State.unmap s x1
    x2).mem = true := by
  unfold State.unmap
  repeat' (first | with_reducible assumption | (simp [*, foldl_wf, foldl_mem]; done) |
    (with_reducible refine foldl_wf _ _ _ (fun s a h => ?_) ?_) | split | dsimp only)

@[simp] theorem execStashmap_wf (x0 x1 x2 : BitVec 6) (s : State) (h : Memory.wf s.mem = true) : OutWf (execStashmap x0 x1
    x2 s) := by
  unfold execStashmap
  repeat' (first | with_reducible assumption | (simp [*, foldl_wf, foldl_mem]; done) |
    (with_reducible refine foldl_wf _ _ _ (fun s a h => ?_) ?_) | split | dsimp only)

@[simp] theorem State.stashClean_wf (s : State) (x1 : StashLine) (h : Memory.wf s.mem = true) : Memory.wf (State.stashClean
    s x1).mem = true := by
  unfold State.stashClean
  dsimp only
  rw [State.dropStashLine_mem]
  refine State.stashWriteBack_wf _ _ ?_
  split
  · simpa using h
  · exact h

@[simp] theorem execStashflush_wf (d a b : BitVec 6) (sc : BitVec 3) (s : State) (h : Memory.wf s.mem = true) :
    OutWf (execStashflush d a b sc s) := by
  unfold execStashflush
  dsimp only
  split
  · exact State.trap_wf _ _ _ h
  · split
    · simp [foldl_mem, h]
    · refine State.retire_wf _ ?_
      rw [State.opDone_mem]
      exact foldl_wf _ _ _ (fun _ _ hu => State.stashClean_wf _ _ hu) h

@[simp] theorem State.zeroLines_wf (s : State) (t : Thread) (ps : List Place) (h : Memory.wf s.mem = true) :
    Memory.wf (s.zeroLines t ps).mem = true := by
  induction ps generalizing s with
  | nil => exact h
  | cons p r ih =>
    unfold State.zeroLines
    dsimp only
    split
    · exact ih _ (State.writeBackDie_wf _ _ _ (State.perform_wf _ _ _ _ h))
    · exact ih _ (State.perform_wf _ _ _ _ h)

@[simp] theorem execLinez_wf (d a b : BitVec 6) (s : State) (h : Memory.wf s.mem = true) : OutWf (execLinez d a b s) := by
  unfold execLinez
  dsimp only
  split
  · exact State.trap_wf _ _ _ h
  · split
    · exact State.trap_wf _ _ _ h
    · split
      · exact State.retire_wf _ (by simpa using h)
      · split
        · exact State.failed_wf _ _ h
        · split
          · exact (OutWf_next _).2 h
          · split
            · exact (OutWf_next _).2 (by simpa using h)
            · exact State.retire_wf _ (by
                rw [State.opDone_mem]; exact State.zeroLines_wf _ _ _ (by simpa using h))

@[simp] theorem execFence_wf (x0 : BitVec 3) (s : State) (h : Memory.wf s.mem = true) : OutWf (execFence x0 s) := by
  unfold execFence; repeat' (first | with_reducible assumption | (simp [*]; done) | split | dsimp only)

@[simp] theorem execFencex_wf (x0 x1 x2 : BitVec 3) (s : State) (h : Memory.wf s.mem = true) : OutWf (execFencex x0 x1 x2 s)
    := by
  unfold execFencex; repeat' (first | with_reducible assumption | (simp [*]; done) | split | dsimp only)

@[simp] theorem execAcq_wf (d a : BitVec 6) (sc : BitVec 3) (s : State) (h : Memory.wf s.mem = true) :
    OutWf (execAcq d a sc s) := by
  unfold execAcq
  split
  · exact State.retire_wf _ (by simpa using h)
  · exact State.load_wf _ _ _ _ _ _ _ h (fun t b ht => by simpa using ht)

@[simp] theorem execRel_wf (a b : BitVec 6) (sc : BitVec 3) (s : State) (h : Memory.wf s.mem = true) : OutWf (execRel a b sc s) := by
  unfold execRel
  split
  · exact (OutWf_next s).2 h
  · exact State.store_wf _ _ _ _ _ _ _ _ h (fun t ht => ht)

@[simp] theorem execBindRegion_wf (x0 x1 : BitVec 6) (s : State) (h : Memory.wf s.mem = true) : OutWf (execBindRegion x0 x1
    s) := by
  unfold execBindRegion; repeat' (first | with_reducible assumption | (simp [*]; done) | split | dsimp only)

@[simp] theorem execUnbindRegion_wf (x0 x1 : BitVec 6) (x2 : BitVec 3) (s : State) (h : Memory.wf s.mem = true) : OutWf
    (execUnbindRegion x0 x1 x2 s) := by
  unfold execUnbindRegion; simp [h]

@[simp] theorem State.putBellQueue_mem (s : State) (x1 : BitVec 6) (x2 : BitVec 4) (x3 : List Beat) : (State.putBellQueue s
    x1 x2 x3).mem = s.mem := by
  rfl

@[simp] theorem State.sendBeat_mem (s : State) (x1 : BitVec 4) (x2 : BitVec 17) (x3 : Word) (x4 : OpId) :
    (State.sendBeat s x1 x2 x3 x4).mem = s.mem := by
  rfl

@[simp] theorem State.bellWrite_wf (s : State) (x1 : BitVec 4) (x2 : Acc) (x3 : Option (BitVec 6)) (x4 x5 : BitVec 6) (h :
    Memory.wf s.mem = true) : OutWf (State.bellWrite s x1 x2 x3 x4 x5) := by
  unfold State.bellWrite; repeat' (first | with_reducible assumption | (simp [*]; done) | split | dsimp only)

@[simp] theorem execBst_wf (x0 x1 : BitVec 6) (s : State) (h : Memory.wf s.mem = true) : OutWf (execBst x0 x1 s) := by
  unfold execBst; simp [h]

@[simp] theorem execBamoAdd_wf (x0 x1 x2 : BitVec 6) (s : State) (h : Memory.wf s.mem = true) : OutWf (execBamoAdd x0 x1 x2
    s) := by
  unfold execBamoAdd; simp [h]

@[simp] theorem execBamoMax_wf (x0 x1 x2 : BitVec 6) (s : State) (h : Memory.wf s.mem = true) : OutWf (execBamoMax x0 x1 x2
    s) := by
  unfold execBamoMax; simp [h]

@[simp] theorem execBamoOr_wf (x0 x1 x2 : BitVec 6) (s : State) (h : Memory.wf s.mem = true) : OutWf (execBamoOr x0 x1 x2 s)
    := by
  unfold execBamoOr; simp [h]

@[simp] theorem execBamoSwap_wf (x0 x1 x2 : BitVec 6) (s : State) (h : Memory.wf s.mem = true) : OutWf (execBamoSwap x0 x1
    x2 s) := by
  unfold execBamoSwap; simp [h]

-- Machine/Tile.lean.

@[simp] theorem State.engRead_wf (s : State) (ag : Agent) (args : List Word) (ps : List Place) (h : Memory.wf s.mem = true) :
    Memory.wf (s.engRead ag args ps).1.mem = true := State.prepareOnce_wf _ _ _ _ _ h

@[simp] theorem State.engWrite_wf (s : State) (ag : Agent) (ws : List (Place × List Byte)) (h : Memory.wf s.mem = true) :
    Memory.wf (s.engWrite ag ws).mem = true := by
  unfold State.engWrite
  rw [State.clearMarks_mem]
  exact foldl_wf _ _ _ (fun u w hu => State.writePlace_wf _ _ _ _ hu) h

@[simp] theorem State.readList_wf (s : State) (t : Thread) (ps : List (List Place)) (h : Memory.wf s.mem = true) :
    Memory.wf (s.readList t ps).1.mem = true := State.prepareOnce_wf _ _ _ _ _ h

@[simp] theorem State.matRead_wf (s : State) (x1 : Thread) (x2 : Acc) (x3 : ℕ) (x4 : List Word) (h : Memory.wf s.mem = true)
    : Memory.wf (State.matRead s x1 x2 x3 x4).1.mem = true := by
  unfold State.matRead; repeat' (first | with_reducible assumption | (simp [*]; done) | split | dsimp only)

@[simp] theorem State.tld_wf (s : State) (x1 : Thread) (x2 : Acc) (x3 : BitVec 6) (x4 : Tile) (x5 x6 : Word) (h : Memory.wf
    s.mem = true) : Memory.wf (State.tld s x1 x2 x3 x4 x5 x6).1.mem = true := by
  unfold State.tld; repeat' (first | with_reducible assumption | (simp [*]; done) | split | dsimp only)

@[simp] theorem State.tst_wf (s : State) (x1 : Thread) (x2 : Acc) (x3 : Tile) (x4 x5 : Word) (h : Memory.wf s.mem = true) :
    Memory.wf (State.tst s x1 x2 x3 x4 x5).1.mem = true := by
  unfold State.tst; repeat' (first | with_reducible assumption | (simp [*]; done) | split | dsimp only)

@[simp] theorem State.tldbp_wf (s : State) (x1 : Thread) (x2 : Acc) (x3 : BitVec 6) (x4 : Tile) (x5 : Word) (x6 : ℕ) (h :
    Memory.wf s.mem = true) : Memory.wf (State.tldbp s x1 x2 x3 x4 x5 x6).1.mem = true := by
  unfold State.tldbp; repeat' (first | with_reducible assumption | (simp [*]; done) | split | dsimp only)

@[simp] theorem State.tldmx_wf (s : State) (x1 : Thread) (x2 : Acc) (x3 : BitVec 6) (x4 : Tile) (x5 x6 : Word) (h :
    Memory.wf s.mem = true) : Memory.wf (State.tldmx s x1 x2 x3 x4 x5 x6).1.mem = true := by
  unfold State.tldmx; simp [h]

@[simp] theorem State.matRun_wf (s : State) (x1 : Thread) (x2 : ℕ) (x3 : BitVec 3) (x4 : BitVec 5) (x5 x6 : Acc) (x7 :
    BitVec 6 → Tile) (x8 : ℕ) (x9 x10 x11 : BitVec 6) (x12 : MatArg) (h : Memory.wf s.mem = true) : Memory.wf (State.matRun
    s x1 x2 x3 x4 x5 x6 x7 x8 x9 x10 x11 x12).1.mem = true := by
  unfold State.matRun; repeat' (first | with_reducible assumption | (simp [*]; done) | split | dsimp only)

@[simp] theorem State.mat_wf (s : State) (fn : Nat) (d a b : BitVec 6) (dst : Dst) (g : MatArg) (h : Memory.wf s.mem = true) :
    OutWf (s.mat fn d a b dst g) := by
  unfold State.mat
  dsimp only
  split
  · exact State.perm_wf _ _ h
  · split
    · exact State.retire_wf _ (by simpa using h)
    · generalize hx : State.matRun _ _ _ _ _ _ _ _ _ _ _ _ _ = w
      have hw : Memory.wf w.1.mem = true := hx ▸ State.matRun_wf _ _ _ _ _ _ _ _ _ _ _ _ _ h
      obtain ⟨u, _ | e | v⟩ := w
      · exact (OutWf_next _).2 hw
      · exact State.failed_wf _ _ hw
      · exact State.retire_wf _ hw

@[simp] theorem execTcfg_wf (x0 x1 : BitVec 6) (s : State) (h : Memory.wf s.mem = true) : OutWf (execTcfg x0 x1 s) := by
  unfold execTcfg; simp [h]

@[simp] theorem execTzero_wf (x0 : BitVec 6) (s : State) (h : Memory.wf s.mem = true) : OutWf (execTzero x0 s) := by
  unfold execTzero; simp [h]

@[simp] theorem execTld_wf (x0 x1 x2 : BitVec 6) (s : State) (h : Memory.wf s.mem = true) : OutWf (execTld x0 x1 x2 s) := by
  unfold execTld; simp [h]

@[simp] theorem execTst_wf (x0 x1 x2 : BitVec 6) (s : State) (h : Memory.wf s.mem = true) : OutWf (execTst x0 x1 x2 s) := by
  unfold execTst; simp [h]

@[simp] theorem execTldbp_wf (x0 x1 x2 : BitVec 6) (s : State) (h : Memory.wf s.mem = true) : OutWf (execTldbp x0 x1 x2 s)
    := by
  unfold execTldbp; simp [h]

@[simp] theorem execTldmx_wf (x0 x1 x2 : BitVec 6) (s : State) (h : Memory.wf s.mem = true) : OutWf (execTldmx x0 x1 x2 s)
    := by
  unfold execTldmx; simp [h]

@[simp] theorem execMma_wf (x0 x1 x2 : BitVec 6) (s : State) (h : Memory.wf s.mem = true) : OutWf (execMma x0 x1 x2 s) := by
  unfold execMma; simp [h]

@[simp] theorem execTcvt_wf (x0 x1 : BitVec 6) (x2 : BitVec 3) (s : State) (h : Memory.wf s.mem = true) : OutWf (execTcvt x0
    x1 x2 s) := by
  unfold execTcvt; simp [h]

@[simp] theorem execTmov_wf (x0 x1 : BitVec 6) (s : State) (h : Memory.wf s.mem = true) : OutWf (execTmov x0 x1 s) := by
  unfold execTmov; simp [h]

@[simp] theorem execTget_wf (x0 x1 x2 : BitVec 6) (s : State) (h : Memory.wf s.mem = true) : OutWf (execTget x0 x1 x2 s) :=
    by
  unfold execTget; simp [h]

@[simp] theorem execTset_wf (x0 x1 x2 : BitVec 6) (s : State) (h : Memory.wf s.mem = true) : OutWf (execTset x0 x1 x2 s) :=
    by
  unfold execTset; simp [h]

@[simp] theorem execGeom_wf (x0 x1 x2 : BitVec 6) (s : State) (h : Memory.wf s.mem = true) : OutWf (execGeom x0 x1 x2 s) :=
    by
  unfold execGeom; simp [h]

-- Machine/Engine.lean.

@[simp] theorem State.rouseEng_mem (s : State) (x1 : Agent) (x2 : Bool) (x3 x4 : List (ℕ × ℕ)) : (State.rouseEng s x1 x2 x3
    x4).mem = s.mem := by
  unfold State.rouseEng; repeat' split
  all_goals first | rfl | simp [foldl_mem, apply_ite State.mem]

@[simp] theorem State.writeSome_wf (s : State) (x1 : Agent) (x2 : List (Place × List Byte)) (h : Memory.wf s.mem = true) :
    Memory.wf (State.writeSome s x1 x2).mem = true := by
  unfold State.writeSome; simp [h]

@[simp] theorem State.freeBytes_mem (s : State) (ws : List (Place × List Byte)) : (s.freeBytes ws).1.mem = s.mem := by
  unfold State.freeBytes
  suffices ∀ (l : List (Place × List Byte)) (a : State × List (Place × List Byte)),
      (l.foldl (fun (a : State × List (Place × List Byte)) w =>
        ({ a.1 with free := a.1.free + w.2.length },
          a.2 ++ [(w.1, (List.range w.2.length).map (fun i => Config.freeByte (a.1.free + i)))])) a).1.mem = a.1.mem from this _ _
  intro l
  induction l with
  | nil => exact fun _ => rfl
  | cons w r ih => exact fun a => ih _

-- Machine/Mms.lean.

@[simp] theorem State.mmsCheck_wf (s : State) (x1 : Thread) (x2 : Word) (h : Memory.wf s.mem = true) : Memory.wf
    (State.mmsCheck s x1 x2).1.mem = true := by
  have hw (x : Nat) : Memory.wf (s.rouseWalk x1.asid x).mem = true := by rw [State.rouseWalk_mem]; exact h
  have he : Memory.wf (s.rouseEng x1.engine true [(x2.toNat, 64)] []).mem = true := by rw [State.rouseEng_mem]; exact h
  unfold State.mmsCheck
  generalize s.rouseWalk = w at hw ⊢
  generalize s.rouseEng x1.engine true [(x2.toNat, 64)] [] = e at he ⊢
  generalize State.walkGap s x1.dataTlbs x1.asid = g
  extract_lets
  repeat' split
  all_goals first | exact h | exact he | exact hw _ | exact State.engRead_wf s x1.engine [] _ h

@[simp] theorem State.mcqPush_mem (s : State) (x1 : BitVec 9) (x2 : McqEntry) : (State.mcqPush s x1 x2).mem = s.mem := by
  rfl

@[simp] theorem execMms_wf (d a : BitVec 6) (s : State) (h : Memory.wf s.mem = true) :
    OutWf (execMms d a s) := by
  unfold execMms
  dsimp only
  split
  · exact State.retire_wf _ (by simpa using h)
  · have hw := State.mmsCheck_wf s s.th (s.rs a) h
    split
    · rename_i hx; rw [hx] at hw; exact (OutWf_next _).2 hw
    · rename_i hx; rw [hx] at hw; exact State.failed_wf _ _ hw
    · rename_i hx; rw [hx] at hw; exact State.perm_wf _ _ hw
    · rename_i hx; rw [hx] at hw
      split
      · exact (OutWf_next _).2 hw
      · split
        · exact State.retire_wf _ (by simpa using hw)
        · exact (OutWf_next _).2 (by simpa using hw)

@[simp] theorem State.readExts_wf (s : State) (ag : Agent) (ps : List (Nat × Nat)) (h : Memory.wf s.mem = true) :
    Memory.wf (s.readExts ag ps).1.mem = true := by
  induction ps generalizing s with
  | nil => exact h
  | cons p r ih => exact ih _ (State.engRead_wf _ _ _ _ h)

@[simp] theorem State.fillFlags_mem (s : State) (x1 : BitVec 17) (x2 : Flags) : (State.fillFlags s x1 x2).mem = s.mem := by
  unfold State.fillFlags; repeat' split
  all_goals first | rfl | simp [foldl_mem, apply_ite State.mem]

@[simp] theorem State.mmsFill_mem (s : State) (x1 : McqEntry) (x2 : Flags) (x3 : ℕ) : (State.mmsFill s x1 x2 x3).mem = s.mem
    := by
  unfold State.mmsFill; dsimp only; repeat' split
  all_goals first | rfl | simp [foldl_mem, apply_ite State.mem]

theorem State.mmsRun_wf (s : State) (b : BitVec 9) (e : McqEntry) (h : Memory.wf s.mem = true) :
    Memory.wf (s.mmsRun b e).state.mem = true := by
  unfold State.mmsRun
  dsimp only
  have h5 : ∀ l1 l2 l3 l4 l5, Memory.wf (((((s.readExts e.agent l1).1.readExts e.agent l2).1.readExts e.agent l3).1.readExts
      e.agent l4).1.readExts e.agent l5).1.mem = true := fun _ _ _ _ _ =>
    State.readExts_wf _ _ _ (State.readExts_wf _ _ _ (State.readExts_wf _ _ _ (State.readExts_wf _ _ _ (State.readExts_wf _ _ _ h))))
  rw [apply_ite Prod.fst, apply_ite State.mem, State.freeBytes_mem, ite_self]
  exact h5 _ _ _ _ _

@[simp] theorem State.mmsEnd_wf (s : State) (b : BitVec 9) (e : McqEntry) (h : Memory.wf s.mem = true) :
    Memory.wf (s.mmsEnd b e).mem = true := by
  have hw := State.mmsRun_wf s b e h
  unfold State.mmsEnd
  generalize s.mmsRun b e = r at hw ⊢
  dsimp only
  split
  · exact State.writeSome_wf _ _ _ hw
  · split
    · simpa using hw
    · generalize hu : (if (r.refused || flagsTrap e.enables r.flags) = true then _ else _ : State) = u
      have h1 : Memory.wf u.mem = true := by
        subst hu
        split
        · exact State.writeSome_wf _ _ _ hw
        · exact State.engWrite_wf _ _ _ hw
      repeat' split
      all_goals simpa using h1

@[simp] theorem State.mcqNudge_mem (s : State) (x1 : BitVec 17) : (State.mcqNudge s x1).mem = s.mem := by
  unfold State.mcqNudge; simp [foldl_mem, apply_ite State.mem]

@[simp] theorem execMatrixCommandStart_wf (x0 : BitVec 9) (s : State) (h : Memory.wf s.mem = true) : OutWf
    (execMatrixCommandStart x0 s) := by
  unfold execMatrixCommandStart; repeat' (first | with_reducible assumption | (simp [*]; done) | split | dsimp only)

@[simp] theorem execMcqAgeing_wf (x0 : BitVec 9) (s : State) (h : Memory.wf s.mem = true) : OutWf (execMcqAgeing x0 s) := by
  unfold execMcqAgeing; simp [h]

@[simp] theorem execMcqOvertake_wf (x0 : BitVec 9) (s : State) (h : Memory.wf s.mem = true) : OutWf (execMcqOvertake x0 s)
    := by
  unfold execMcqOvertake; repeat' (first | with_reducible assumption | (simp [*]; done) | split | dsimp only)

@[simp] theorem execMcqMigrate_wf (x0 x1 : BitVec 9) (s : State) (h : Memory.wf s.mem = true) : OutWf (execMcqMigrate x0 x1
    s) := by
  unfold execMcqMigrate; repeat' (first | with_reducible assumption | (simp [*]; done) | split | dsimp only)

@[simp] theorem execMmsSplitHalf_wf (x0 : BitVec 9) (s : State) (h : Memory.wf s.mem = true) : OutWf (execMmsSplitHalf x0 s)
    := by
  unfold execMmsSplitHalf; repeat' (first | with_reducible assumption | (simp [*]; done) | split | dsimp only)

@[simp] theorem State.halfEnded_mem (s : State) (x1 : McqEntry) : (State.halfEnded s x1).mem = s.mem := by
  rfl

@[simp] theorem execMmsComplete_wf (x0 : BitVec 9) (s : State) (h : Memory.wf s.mem = true) : OutWf (execMmsComplete x0 s)
    := by
  unfold execMmsComplete; repeat' (first | with_reducible assumption | (simp [*]; done) | split | dsimp only)

end Sys2Proof.Machine
end

