-- ==== Sys2Proof/Laws/CanonicalAsync.lean ====
section
/-! SUPPORT. Memory keeps its canonical form (part Async): the results of other units, the asynchronous instructions, packets and channels.
A lemma `F_mem` says that `F` leaves memory as it is; a lemma `F_wf` says that `F` keeps `Memory.wf` (for a meaning: of the
next state, `OutWf`). -/

set_option linter.unusedSimpArgs false
set_option linter.unusedVariables false
set_option linter.unreachableTactic false
set_option linter.unusedTactic false

namespace Sys2Proof.Machine

-- Machine/Guest.lean.

@[simp] theorem State.setGuestTile_mem (s : State) (x1 : BitVec 17) (x2 : BitVec 6) (x3 : Tile) : (State.setGuestTile s x1
    x2 x3).mem = s.mem := by
  rfl

@[simp] theorem State.guestBad_mem (s : State) (x1 : Thread) (x2 : GuestPkt) (x3 : BitVec 7) (x4 : Word) :
    (State.guestBad s x1 x2 x3 x4).1.mem = s.mem := by
  unfold State.guestBad; split
  · exact State.rouseWalk_mem _ _ _
  · rfl

@[simp] theorem State.runGuest_wf (s : State) (b : BitVec 9) (t : Thread) (o : Op) (p : GuestPkt) (h : Memory.wf s.mem = true) :
    Memory.wf (s.runGuest b t o p).1.mem = true := by
  unfold State.runGuest
  dsimp only
  split
  · have hw := State.wamo_wf s t t.engine (wFn p.insn % 16) (slotS p.slots 0).val p.rq p.rm p.enables (fun _ => false)
      (wargOf p.slots) h
    split <;> (rename_i hx; rw [hx] at hw)
    · exact hw
    · exact hw
    · rw [State.guestBad_mem]; exact hw
  · split
    · split
      · have hw := State.mmsCheck_wf s t (slotS p.slots 0).val h
        split <;> (rename_i hx; rw [hx] at hw)
        all_goals repeat' split
        all_goals simpa using hw
      · generalize hx : State.matRun _ _ _ _ _ _ _ _ _ _ _ _ _ = w
        have hw : Memory.wf w.1.mem = true := hx ▸ State.matRun_wf _ _ _ _ _ _ _ _ _ _ _ _ _ h
        obtain ⟨u, _ | e | v⟩ := w
        · exact hw
        · dsimp only; rw [State.guestBad_mem]; exact hw
        · exact foldl_wf _ _ _ (fun u x hu => by simpa using hu) hw
    · exact h

@[simp] theorem State.tryGuests_wf (s : State) (b : BitVec 9) (l : List GuestEntry) (h : Memory.wf s.mem = true) :
    Memory.wf (s.tryGuests b l).1.mem = true := by
  induction l generalizing s with
  | nil => exact h
  | cons x l ih =>
    unfold State.tryGuests
    split
    · exact h
    · split
      · exact h
      · split
        · have hw := State.runGuest_wf s b ‹Thread› ‹Op› x.pkt h
          split
          · rename_i hx; rw [hx] at hw; exact hw
          · rename_i hx; rw [hx] at hw; exact ih _ hw
        · exact ih _ h

@[simp] theorem execGuestPacket_wf (x0 : BitVec 9) (x1 : GuestPkt) (s : State) (h : Memory.wf s.mem = true) : OutWf
    (execGuestPacket x0 x1 s) := by
  unfold execGuestPacket; repeat' (first | with_reducible assumption | (simp [*]; done) | split | dsimp only)

@[simp] theorem execGuestAgeing_wf (x0 : BitVec 9) (s : State) (h : Memory.wf s.mem = true) : OutWf (execGuestAgeing x0 s)
    := by
  unfold execGuestAgeing; simp [h]

@[simp] theorem execGuestIssue_wf (b : BitVec 9) (s : State) (h : Memory.wf s.mem = true) : OutWf (execGuestIssue b s) := by
  have hw := State.tryGuests_wf s b (guestOrder (s.bcore b).guests) h
  unfold execGuestIssue
  dsimp only
  split
  · rename_i hx; rw [hx] at hw
    refine (OutWf_next _).2 ?_
    split
    · exact hw
    · simpa using hw
  · rename_i hx; rw [hx] at hw
    refine (OutWf_next _).2 ?_
    split
    · simpa using hw
    · simpa using hw

@[simp] theorem State.dropPackets_mem (s : State) (x1 : BitVec 17) (x2 : BitVec 16 → Bool) : (State.dropPackets s x1 x2).mem
    = s.mem := by
  rfl

@[simp] theorem State.remoteTrap_mem (s : State) (x1 : Thread) (x2 : Op) (x3 : ResultPkt) : (State.remoteTrap s x1 x2
    x3).mem = s.mem := by
  unfold State.remoteTrap; simp [foldl_mem, apply_ite State.mem]

@[simp] theorem State.releaseStore_wf (s : State) (x1 : BitVec 17) (x2 : HeldStore) (x3 : List Undo) (h : Memory.wf s.mem =
    true) : Memory.wf (State.releaseStore s x1 x2 x3).mem = true := by
  unfold State.releaseStore; repeat' (first | with_reducible assumption | (simp [*]; done) | split | dsimp only)

@[simp] theorem State.releaseHeld_wf (s : State) (x1 : BitVec 17) (x2 : BitVec 16) (h : Memory.wf s.mem = true) : Memory.wf
    (State.releaseHeld s x1 x2).mem = true := by
  unfold State.releaseHeld
  repeat' (first | with_reducible assumption | (simp [*, foldl_wf, foldl_mem]; done) |
    (with_reducible refine foldl_wf _ _ _ (fun s a h => ?_) ?_) | split | dsimp only)

@[simp] theorem State.applyResult_mem (s : State) (x1 : Thread) (x2 : Op) (x3 : ResultPkt) : (State.applyResult s x1 x2
    x3).mem = s.mem := by
  unfold State.applyResult; dsimp only; repeat' split
  all_goals first | rfl | simp [foldl_mem, apply_ite State.mem]

@[simp] theorem State.endShadow_mem (s : State) (x1 : BitVec 17) : (State.endShadow s x1).mem = s.mem := by
  unfold State.endShadow; repeat' split
  all_goals first | rfl | simp [foldl_mem, apply_ite State.mem]

@[simp] theorem State.acceptResult_wf (s : State) (x1 : Thread) (x2 : Op) (x3 : ResultPkt) (h : Memory.wf s.mem = true) :
    Memory.wf (State.acceptResult s x1 x2 x3).mem = true := by
  unfold State.acceptResult; repeat' (first | with_reducible assumption | (simp [*]; done) | split | dsimp only)

@[simp] theorem State.takeHeld_wf (s : State) (b : BitVec 17) (n : Nat) (h : Memory.wf s.mem = true) :
    Memory.wf (s.takeHeld b n).mem = true := by
  induction n generalizing s with
  | zero => exact h
  | succ n ih =>
    unfold State.takeHeld
    split
    · exact h
    · split
      · exact h
      · split
        · exact h
        · exact ih _ (State.acceptResult_wf _ _ _ _ (by simpa using h))

@[simp] theorem State.takeResult_wf (s : State) (x1 : ResultPkt) (h : Memory.wf s.mem = true) : Memory.wf (State.takeResult
    s x1).mem = true := by
  unfold State.takeResult; repeat' (first | with_reducible assumption | (simp [*]; done) | split | dsimp only)

@[simp] theorem execResultPacket_wf (x0 : ResultPkt) (s : State) (h : Memory.wf s.mem = true) : OutWf (execResultPacket x0
    s) := by
  unfold execResultPacket; repeat' (first | with_reducible assumption | (simp [*]; done) | split | dsimp only)

-- Machine/Async.lean.

@[simp] theorem execFtest_wf (x0 x1 : BitVec 6) (x2 : BitVec 1) (s : State) (h : Memory.wf s.mem = true) : OutWf (execFtest
    x0 x1 x2 s) := by
  unfold execFtest; repeat' (first | with_reducible assumption | (simp [*]; done) | split | dsimp only)

@[simp] theorem execFhandle_wf (x0 x1 : BitVec 6) (x2 : BitVec 1) (s : State) (h : Memory.wf s.mem = true) : OutWf
    (execFhandle x0 x1 x2 s) := by
  unfold execFhandle; simp [h]

@[simp] theorem execFwait_wf (x0 x1 : BitVec 6) (s : State) (h : Memory.wf s.mem = true) : OutWf (execFwait x0 x1 s) := by
  unfold execFwait; repeat' (first | with_reducible assumption | (simp [*]; done) | split | dsimp only)

@[simp] theorem State.fillRefused_mem (s : State) (x1 : BitVec 17) (x2 : OpId) (x3 : Word) (x4 : BitVec 7) (x5 : Word)
    : (State.fillRefused s x1 x2 x3 x4 x5).mem = s.mem := by
  unfold State.fillRefused; dsimp only; repeat' split
  all_goals first | rfl | simp [foldl_mem, apply_ite State.mem]

@[simp] theorem State.putEvq_mem (s : State) (x1 : BitVec 6) (x2 : BitVec 5) (x3 : BitVec 3) (x4 : List EvRec) :
    (State.putEvq s x1 x2 x3 x4).mem = s.mem := by
  rfl

@[simp] theorem State.settleEv_wf (s : State) (x1 : BitVec 6) (x2 : BitVec 5) (x3 : BitVec 3) (h : Memory.wf s.mem = true) :
    Memory.wf (State.settleEv s x1 x2 x3).mem = true := by
  unfold State.settleEv
  repeat' (first | with_reducible assumption | (simp [*, foldl_wf, foldl_mem]; done) |
    (with_reducible refine foldl_wf _ _ _ (fun s a h => ?_) ?_) | split | dsimp only)

@[simp] theorem execEvwait_wf (x0 x1 x2 : BitVec 6) (s : State) (h : Memory.wf s.mem = true) : OutWf (execEvwait x0 x1 x2 s)
    := by
  unfold execEvwait; repeat' (first | with_reducible assumption | (simp [*]; done) | split | dsimp only)

@[simp] theorem execEvpop_wf (x0 x1 : BitVec 6) (s : State) (h : Memory.wf s.mem = true) : OutWf (execEvpop x0 x1 s) := by
  unfold execEvpop; repeat' (first | with_reducible assumption | (simp [*]; done) | split | dsimp only)

theorem State.postEv_wf {s t : State} {x : BitVec 17} {q : BitVec 3} {r : EvRec} (e : s.postEv x q r = some t)
    (h : Memory.wf s.mem = true) : Memory.wf t.mem = true := by
  unfold State.postEv at e
  dsimp only at e
  split at e
  · cases e
  · injection e with e; subst e; exact State.settleEv_wf _ _ _ _ (by simpa using h)

@[simp] theorem execEvpost_wf (a b : BitVec 6) (s : State) (h : Memory.wf s.mem = true) :
    OutWf (execEvpost a b s) := by
  unfold execEvpost
  dsimp only
  split
  · exact State.perm_wf _ _ h
  · split
    · exact (OutWf_next _).2 h
    · split
      · exact (OutWf_next _).2 h
      · rename_i hx; exact State.retire_wf _ (State.postEv_wf hx h)

@[simp] theorem State.asyncBad_wf (s : State) (x1 : AsyncBad) (h : Memory.wf s.mem = true) : OutWf (State.asyncBad s x1) :=
    by
  unfold State.asyncBad; repeat' (first | with_reducible assumption | (simp [*]; done) | split | dsimp only)

@[simp] theorem State.putCopyEntry_mem (s : State) (x1 : CopyEntry) : (State.putCopyEntry s x1).mem = s.mem := by
  rfl

@[simp] theorem State.freeCopyEntry_mem (s : State) (x1 : BitVec 17) (x2 : OpId) : (State.freeCopyEntry s x1 x2).mem =
    s.mem := by
  rfl

@[simp] theorem State.copyRecord_mem (s : State) (x1 : BitVec 17) (x2 : OpId) (x3 : Word) : (State.copyRecord s x1 x2
    x3).mem = s.mem := by
  unfold State.copyRecord; repeat' split
  all_goals first | rfl | simp [foldl_mem, apply_ite State.mem]

@[simp] theorem State.copyEnd_mem (s : State) (x1 : BitVec 17) (x2 : OpId) (x3 : Word) : (State.copyEnd s x1 x2 x3).mem
    = s.mem := by
  unfold State.copyEnd; simp [foldl_mem, apply_ite State.mem]

@[simp] theorem State.engineFault_mem (s : State) (x1 : BitVec 17) (x2 : OpId) (x3 : BitVec 7 × Word) :
    (State.engineFault s x1 x2 x3).mem = s.mem := by
  unfold State.engineFault; dsimp only; repeat' split
  all_goals first | rfl | simp [foldl_mem, apply_ite State.mem]

@[simp] theorem execCopyEventRecord_wf (x : BitVec 17) (gen : OpId) (s : State) (h : Memory.wf s.mem = true) :
    OutWf (execCopyEventRecord x gen s) := by
  unfold execCopyEventRecord
  split
  · exact (OutWf_next _).2 h
  · split
    · exact (OutWf_next _).2 h
    · split
      · exact (OutWf_next _).2 (by simpa using h)
      · rename_i hx; exact (OutWf_next _).2 (by simpa using State.postEv_wf hx h)

@[simp] theorem State.readRows_wf (s : State) (ag : Agent) (oc : Bool) (ps : List (Nat × Nat)) (h : Memory.wf s.mem = true) :
    Memory.wf (s.readRows ag oc ps).1.mem = true := by
  induction ps generalizing s with
  | nil => exact h
  | cons p r ih => exact ih _ (State.engRead_wf _ _ _ _ h)

@[simp] theorem State.doWrites_wf (s : State) (x1 : List (Agent × Place × List Byte)) (h : Memory.wf s.mem = true) :
    Memory.wf (State.doWrites s x1).mem = true := by
  unfold State.doWrites
  repeat' (first | with_reducible assumption | (simp [*, foldl_wf, foldl_mem]; done) |
    (with_reducible refine foldl_wf _ _ _ (fun s a h => ?_) ?_) | split | dsimp only)

@[simp] theorem State.someWrites_wf (s : State) (x1 : List (Agent × Place × List Byte)) (h : Memory.wf s.mem = true) :
    Memory.wf (State.someWrites s x1).mem = true := by
  unfold State.someWrites
  repeat' (first | with_reducible assumption | (simp [*, foldl_wf, foldl_mem]; done) |
    (with_reducible refine foldl_wf _ _ _ (fun s a h => ?_) ?_) | split | dsimp only)

@[simp] theorem State.fabricSend_wf (s : State) (x1 : Thread) (x2 : CopyEntry) (x3 : List (Word × Word × ℕ)) (h : Memory.wf
    s.mem = true) : Memory.wf (State.fabricSend s x1 x2 x3).mem = true := by
  unfold State.fabricSend; simp [h]

@[simp] theorem State.copyRouse_mem (s : State) (x1 : Thread) (x2 : BitVec 2) (x3 : VReg) : (State.copyRouse s x1 x2 x3).mem
    = s.mem := by
  unfold State.copyRouse; dsimp only; split
  · rw [foldl_mem _ _ _ (fun _ _ => State.rouseHomes_mem _ _ _ _), State.rouseEng_mem]
  · exact State.rouseEng_mem _ _ _ _ _

theorem State.copyWork_wf (s : State) (t : Thread) (fn : BitVec 2) (d : VReg) (h : Memory.wf s.mem = true) :
    Memory.wf (s.copyWork t fn d).state.mem = true := by
  unfold State.copyWork
  dsimp only
  rw [apply_ite Prod.fst, apply_ite State.mem, State.freeBytes_mem, ite_self]
  exact State.readRows_wf _ _ _ _ h

@[simp] theorem execCopyComplete_wf (x : BitVec 17) (gen : OpId) (s : State) (h : Memory.wf s.mem = true) :
    OutWf (execCopyComplete x gen s) := by
  unfold execCopyComplete
  dsimp only
  split
  · split
    · exact (OutWf_next _).2 h
    · split
      · simpa using h
      · have hw := State.copyWork_wf s ‹Thread› (CopyEntry.fn ‹CopyEntry›) (CopyEntry.desc ‹CopyEntry›) h
        repeat' split
        all_goals simp [h, hw]
  · exact (OutWf_next _).2 h

@[simp] theorem execFabricAck_wf (x0 : BitVec 17) (x1 : OpId) (x2 : Bool) (s : State) (h : Memory.wf s.mem = true) :
    OutWf (execFabricAck x0 x1 x2 s) := by
  unfold execFabricAck; repeat' (first | with_reducible assumption | (simp [*]; done) | split | dsimp only)

@[simp] theorem State.copyIssue_wf (s : State) (x1 : BitVec 2) (x2 x3 : BitVec 6) (h : Memory.wf s.mem = true) : OutWf
    (State.copyIssue s x1 x2 x3) := by
  unfold State.copyIssue; repeat' (first | with_reducible assumption | (simp [*]; done) | split | dsimp only)

@[simp] theorem execCpy_wf (x0 x1 : BitVec 6) (s : State) (h : Memory.wf s.mem = true) : OutWf (execCpy x0 x1 s) := by
  unfold execCpy; simp [h]

@[simp] theorem execCpy2d_wf (x0 x1 : BitVec 6) (s : State) (h : Memory.wf s.mem = true) : OutWf (execCpy2d x0 x1 s) := by
  unfold execCpy2d; simp [h]

@[simp] theorem execCpym_wf (x0 x1 : BitVec 6) (s : State) (h : Memory.wf s.mem = true) : OutWf (execCpym x0 x1 s) := by
  unfold execCpym; simp [h]

@[simp] theorem execCpyr_wf (x0 x1 : BitVec 6) (s : State) (h : Memory.wf s.mem = true) : OutWf (execCpyr x0 x1 s) := by
  unfold execCpyr; simp [h]

@[simp] theorem State.dropGroup_mem (s : State) (x1 : Group) : (State.dropGroup s x1).mem = s.mem := by
  rfl

@[simp] theorem State.putGroup_mem (s : State) (x1 : Group) : (State.putGroup s x1).mem = s.mem := by
  rfl

@[simp] theorem State.confDeliver_wf (s : State) (x1 : Contribution) (x2 : List Byte) (x3 : Flags) (h : Memory.wf s.mem =
    true) : Memory.wf (State.confDeliver s x1 x2 x3).mem = true := by
  unfold State.confDeliver; repeat' (first | with_reducible assumption | (simp [*]; done) | split | dsimp only)

@[simp] theorem State.confRouse_wf (s : State) (x1 : Group) (h : Memory.wf s.mem = true) : Memory.wf (State.confRouse s
    x1).mem = true := by
  unfold State.confRouse
  repeat' (first | with_reducible assumption | (simp [*, foldl_wf, foldl_mem]; done) |
    (with_reducible refine foldl_wf _ _ _ (fun s a h => ?_) ?_) | split | dsimp only)

@[simp] theorem State.confComplete_wf (s : State) (x1 : Group) (h : Memory.wf s.mem = true) : Memory.wf (State.confComplete
    s x1).mem = true := by
  unfold State.confComplete
  repeat' (first | with_reducible assumption | (simp [*, foldl_wf, foldl_mem]; done) |
    (with_reducible refine foldl_wf _ _ _ (fun s a h => ?_) ?_) | split | dsimp only)

@[simp] theorem State.confJoin_wf (s0 s : State) (x : BitVec 17) (gen : OpId) (g : Group) (h0 : Memory.wf s0.mem = true)
    (h : Memory.wf s.mem = true) : Memory.wf (s0.confJoin s x gen g).mem = true := by
  unfold State.confJoin
  split
  · split
    · rw [State.send_mem]; exact State.confRouse_wf _ _ h0
    · exact State.confComplete_wf _ _ h
  · simpa using h

@[simp] theorem State.confRefuse_mem (s : State) (x1 : BitVec 17) (x2 : OpId) : (State.confRefuse s x1 x2).mem = s.mem
    := by
  unfold State.confRefuse; simp [foldl_mem, apply_ite State.mem]

@[simp] theorem execConfluenceContribution_wf (x0 : BitVec 17) (x1 : OpId) (s : State) (h : Memory.wf s.mem = true) :
    OutWf (execConfluenceContribution x0 x1 s) := by
  unfold execConfluenceContribution; repeat' (first | with_reducible assumption | (simp [*]; done) | split | dsimp only)

@[simp] theorem State.dropMms_mem (s : State) (x1 : BitVec 17) (x2 : OpId) : (State.dropMms s x1 x2).mem = s.mem := by
  unfold State.dropMms; exact foldl_mem _ _ _ (fun _ _ => rfl)

@[simp] theorem execFcancel_wf (d a : BitVec 6) (f : BitVec 1) (s : State) (h : Memory.wf s.mem = true) :
    OutWf (execFcancel d a f s) := by
  unfold execFcancel
  dsimp only
  split
  · exact State.retire_wf _ (by simpa using h)
  · split
    · split
      · exact State.retire_wf _ (by simpa using h)
      · refine State.retire_wf _ ?_
        rw [State.ws_mem, State.copyRecord_mem, State.fillAs_mem]
        split
        · exact h
        · exact State.someWrites_wf _ _ (State.copyWork_wf _ _ _ _ h)
    · split
      · exact State.retire_wf _ (by simpa using h)
      · exact State.retire_wf _ (by
          rw [State.ws_mem, State.fillAs_mem, State.dropMms_mem]
          split
          · exact h
          · exact State.writeSome_wf _ _ _ (State.mmsRun_wf _ _ _ h))
    all_goals exact State.retire_wf _ (by simpa using h)

-- Machine/Channels.lean.

@[simp] theorem State.putChannel_mem (s : State) (x1 : Channel) : (State.putChannel s x1).mem = s.mem := by
  rfl

/-- The state a channel copy answers keeps the form. -/
def ChanRes.Wf (r : ChanRes) : Prop := match r with
  | .waits s | .done s => Memory.wf s.mem = true
  | _ => True

theorem State.chanCopy_wf (s : State) (t : Thread) (a b n : Nat) (h : Memory.wf s.mem = true) : (s.chanCopy t a b n).Wf := by
  unfold State.chanCopy ChanRes.Wf
  dsimp only
  split
  · rename_i hx
    repeat' split at hx
    all_goals first | cases hx; done | (cases hx; simpa using h)
  · rename_i hx
    repeat' split at hx
    all_goals first | cases hx; done | (cases hx; exact State.engWrite_wf _ _ _ (State.engRead_wf _ _ _ _ h))
  · trivial

@[simp] theorem State.chanEnd_wf (s : State) (x : BitVec 17) (gen : OpId) (v : BitVec 32)
    (r : ChanRes) (h : Memory.wf s.mem = true) (hr : r.Wf) : Memory.wf (s.chanEnd x gen v r).mem = true := by
  unfold State.chanEnd
  split
  · exact hr
  · simpa using h
  · simpa using h
  · rw [State.fillWord_mem]; exact hr

@[simp] theorem State.settleChan_wf (s : State) (l : BitVec 16) (ch : BitVec 2) (h : Memory.wf s.mem = true) :
    Memory.wf (s.settleChan l ch).mem = true := by
  unfold State.settleChan
  split
  · exact h
  · simpa using h
  · refine foldl_wf _ _ _ (fun u t hu => foldl_wf _ _ _ (fun v o hv => ?_) hu) h
    dsimp only
    split
    · split
      · simpa using hv
      · exact hv
    · split
      · generalize hx : State.chanCopy _ _ _ _ _ = r
        have hr : r.Wf := hx ▸ State.chanCopy_wf _ _ _ _ _ hv
        split
        · rw [State.sendOnce_mem]; exact hr
        · exact State.chanEnd_wf _ _ _ _ _ hv hr
      · exact hv
    · exact hv

@[simp] theorem execChsend_wf (x0 x1 x2 : BitVec 6) (s : State) (h : Memory.wf s.mem = true) : OutWf (execChsend x0 x1 x2 s)
    := by
  unfold execChsend; repeat' (first | with_reducible assumption | (simp [*]; done) | split | dsimp only)

@[simp] theorem execChrecv_wf (x0 x1 x2 : BitVec 6) (s : State) (h : Memory.wf s.mem = true) : OutWf (execChrecv x0 x1 x2 s)
    := by
  unfold execChrecv; repeat' (first | with_reducible assumption | (simp [*]; done) | split | dsimp only)

@[simp] theorem execChwait_wf (x0 x1 : BitVec 6) (s : State) (h : Memory.wf s.mem = true) : OutWf (execChwait x0 x1 s) := by
  unfold execChwait; repeat' (first | with_reducible assumption | (simp [*]; done) | split | dsimp only)

@[simp] theorem execChadv_wf (x0 x1 : BitVec 6) (s : State) (h : Memory.wf s.mem = true) : OutWf (execChadv x0 x1 s) := by
  unfold execChadv; repeat' (first | with_reducible assumption | (simp [*]; done) | split | dsimp only)

@[simp] theorem execChannelReserve_wf (x0 : BitVec 16) (x1 : BitVec 2) (s : State) (h : Memory.wf s.mem = true) : OutWf
    (execChannelReserve x0 x1 s) := by
  unfold execChannelReserve; repeat' (first | with_reducible assumption | (simp [*]; done) | split | dsimp only)

@[simp] theorem execChannelSlotFilled_wf (l : BitVec 16) (ch : BitVec 2) (res : BitVec 32) (s : State)
    (h : Memory.wf s.mem = true) : OutWf (execChannelSlotFilled l ch res s) := by
  unfold execChannelSlotFilled
  split
  · split
    · generalize hx : State.chanCopy _ _ _ _ _ = r
      have hr : r.Wf := hx ▸ State.chanCopy_wf _ _ _ _ _ h
      split
      · refine (OutWf_next _).2 ?_
        rw [State.send_mem]; exact hr
      · refine (OutWf_next _).2 (State.settleChan_wf _ _ _ ?_)
        rw [State.putChannel_mem]; exact State.chanEnd_wf _ _ _ _ _ hr hr
      · exact (OutWf_next _).2 (State.settleChan_wf _ _ _ (State.chanEnd_wf _ _ _ _ _ h hr))
    · exact (OutWf_next s).2 h
  · exact (OutWf_next s).2 h

@[simp] theorem execWdq_wf (x0 x1 : BitVec 6) (s : State) (h : Memory.wf s.mem = true) : OutWf (execWdq x0 x1 s) := by
  unfold execWdq; repeat' (first | with_reducible assumption | (simp [*]; done) | split | dsimp only)

theorem State.fillWord_wf (s : State) (x : BitVec 17) (g : OpId) (v : Word) (h : Memory.wf s.mem = true) :
    Memory.wf (s.fillWord x g v).mem = true := by rw [State.fillWord_mem]; exact h

@[simp] theorem execWdqRequest_wf (x0 : BitVec 17) (x1 : OpId) (s : State) (h : Memory.wf s.mem = true) : OutWf
    (execWdqRequest x0 x1 s) := by
  unfold execWdqRequest
  split
  · split
    · exact (OutWf_next _).2 (by rw [State.dropOp_mem]; exact h)
    · extract_lets v p u w
      generalize p = q at w ⊢
      have hu : Memory.wf u.mem = true := State.putLaunch_wf _ _ h
      clear_value u
      have hw : Memory.wf w.mem = true := State.engWrite_wf _ _ _ hu
      clear_value w
      split
      · exact (OutWf_next _).2 (by rw [State.send_mem, State.rouseHomes_mem]; exact h)
      · split
        · exact (OutWf_next _).2 (by rw [State.send_mem, State.rouse_mem]; exact h)
        · exact (OutWf_next _).2 (State.fillWord_wf _ _ _ _ hw)
  · exact (OutWf_next _).2 h

@[simp] theorem State.placePacket_wf (s : State) (x1 : BitVec 8) (x2 : Word) (x3 : List Byte) (h : Memory.wf s.mem = true) :
    Memory.wf (State.placePacket s x1 x2 x3).mem = true := by
  unfold State.placePacket
  simp [h, foldl_wf, foldl_mem, Memory.set_wf, Memory.setMany_wf, Memory.writeNat_wf, Memory.write64_wf, Memory.filter_wf, Memory.wf_nil]

@[simp] theorem State.reserveSlot_wf (s : State) (x1 : BitVec 8) (h : Memory.wf s.mem = true) : Memory.wf (State.reserveSlot
    s x1).1.mem = true := by
  unfold State.reserveSlot
  simp [h, foldl_wf, foldl_mem, Memory.set_wf, Memory.setMany_wf, Memory.writeNat_wf, Memory.write64_wf, Memory.filter_wf, Memory.wf_nil]

@[simp] theorem State.rouseQueue_mem (s : State) (x1 x2 : ℕ) : (State.rouseQueue s x1 x2).mem = s.mem := by
  unfold State.rouseQueue; simp [foldl_mem, apply_ite State.mem]

@[simp] theorem State.submitGo_wf (s : State) (x1 : BitVec 17) (x2 : Thread) (x3 : OpId) (x4 : BitVec 8) (x5 x6 : Word)
    (x7 : ℕ) (h : Memory.wf s.mem = true) : Memory.wf (State.submitGo s x1 x2 x3 x4 x5 x6 x7).mem = true := by
  unfold State.submitGo; repeat' (first | with_reducible assumption | (simp [*]; done) | split | dsimp only)

@[simp] theorem State.serveSubmits_wf (s : State) (x1 : BitVec 8) (h : Memory.wf s.mem = true) : Memory.wf
    (State.serveSubmits s x1).mem = true := by
  unfold State.serveSubmits
  repeat' (first | with_reducible assumption | (simp [*, foldl_wf, foldl_mem]; done) |
    (with_reducible refine foldl_wf _ _ _ (fun s a h => ?_) ?_) | split | dsimp only)

theorem State.submitNow_wf (s : State) (d : BitVec 6) (q : BitVec 8) (x : Word) (n : Nat) (h : Memory.wf s.mem = true) :
    OutWf (s.submitNow d q x n) := by
  have hr := State.reserveSlot_wf s q h
  unfold State.submitNow
  generalize s.reserveSlot q = r at hr ⊢
  have hs : ∀ (d : Dst) (k : BitVec 3) (w : BitVec 32) (o : OpKind), Memory.wf (r.1.startOp d k w o).mem = true :=
    fun d k w o => by rw [State.startOp_mem]; exact hr
  dsimp only
  split
  · exact (OutWf_next _).2 h
  · split
    · exact (OutWf_next _).2 (by simpa using h)
    · refine State.retire_wf _ ?_
      split
      · exact State.submitGo_wf _ _ _ _ _ _ _ _ (hs _ _ _ _)
      · exact hs _ _ _ _

theorem State.submitPacket_wf (s : State) (d : BitVec 6) (q : BitVec 8) (x : Word) (n : Nat) (h : Memory.wf s.mem = true) :
    OutWf (s.submitPacket d q x n) := by
  unfold State.submitPacket
  split
  · exact State.perm_wf _ _ h
  · split
    · exact State.asyncBad_wf _ _ h
    · split
      · exact State.perm_wf _ _ h
      · exact State.submitNow_wf _ _ _ _ _ h

@[simp] theorem execSubmit_wf (d a b : BitVec 6) (s : State) (h : Memory.wf s.mem = true) :
    OutWf (execSubmit d a b s) := by
  unfold execSubmit
  dsimp only
  split
  · exact State.perm_wf _ _ h
  · split
    · exact State.trap_wf _ _ _ h
    · split
      · exact State.asyncBad_wf _ _ h
      · split
        · exact (OutWf_next _).2 (by simpa using h)
        · split
          · exact State.failed_wf _ _ h
          · exact State.submitPacket_wf _ _ _ _ _ h

end Sys2Proof.Machine
end

