-- ==== Sys2Proof/Laws/CanonicalSystem.lean ====
section
/-! SUPPORT. Memory keeps its canonical form (part System): the counters, barriers, launches, tables, pages, coherence, the boundary with the host and the fetch.
A lemma `F_mem` says that `F` leaves memory as it is; a lemma `F_wf` says that `F` keeps `Memory.wf` (for a meaning: of the
next state, `OutWf`). -/

set_option linter.unusedSimpArgs false
set_option linter.unusedVariables false
set_option linter.unreachableTactic false
set_option linter.unusedTactic false

namespace Sys2Proof.Machine

-- Machine/Counters.lean.

@[simp] theorem State.fillCcnt_wf (s : State) (x1 : BitVec 12) (h : Memory.wf s.mem = true) : Memory.wf (State.fillCcnt s
    x1).mem = true := by
  unfold State.fillCcnt
  repeat' (first | with_reducible assumption | (simp [*, foldl_wf, foldl_mem]; done) |
    (with_reducible refine foldl_wf _ _ _ (fun s a h => ?_) ?_) | split | dsimp only)

@[simp] theorem State.ctrDone_mem (s : State) (x1 : Counter) : (State.ctrDone s x1).mem = s.mem := by
  rfl

@[simp] theorem State.settleCtr_wf (s : State) (x1 : BitVec 12) (h : Memory.wf s.mem = true) : Memory.wf (State.settleCtr s
    x1).mem = true := by
  unfold State.settleCtr; repeat' (first | with_reducible assumption | (simp [*]; done) | split | dsimp only)

@[simp] theorem State.countUp_wf (s : State) (x1 : BitVec 12) (x2 : Word) (h : Memory.wf s.mem = true) : Memory.wf
    (State.countUp s x1 x2).mem = true := by
  unfold State.countUp; repeat' (first | with_reducible assumption | (simp [*]; done) | split | dsimp only)

@[simp] theorem State.hostWriteCtr_wf (s : State) (x1 : BitVec 12) (x2 : ℕ) (x3 : Word) (h : Memory.wf s.mem = true) :
    Memory.wf (State.hostWriteCtr s x1 x2 x3).mem = true := by
  unfold State.hostWriteCtr; repeat' (first | with_reducible assumption | (simp [*]; done) | split | dsimp only)

@[simp] theorem State.copySuccessor_wf (s : State) (x1 : Release) (h : Memory.wf s.mem = true) : Memory.wf
    (State.copySuccessor s x1).mem = true := by
  unfold State.copySuccessor; simp [h]

@[simp] theorem State.rouseJob_mem (s : State) (x1 : BitVec 16) (x2 x3 : ℕ) : (State.rouseJob s x1 x2 x3).mem = s.mem := by
  unfold State.rouseJob
  refine foldl_mem _ _ _ (fun s i => ?_)
  repeat' split
  all_goals first | rfl | simp

@[simp] theorem State.releaseRouse_mem (s : State) (x1 : Release) : (State.releaseRouse s x1).mem = s.mem := by
  unfold State.releaseRouse; simp

@[simp] theorem State.enqueueSuccessor_wf (s : State) (x1 : BitVec 16) (x2 : Word) (h : Memory.wf s.mem = true) : Memory.wf
    (State.enqueueSuccessor s x1 x2).mem = true := by
  unfold State.enqueueSuccessor; repeat' (first | with_reducible assumption | (simp [*]; done) | split | dsimp only)

@[simp] theorem State.serveReleases_wf (s : State) (x1 : BitVec 8) (h : Memory.wf s.mem = true) : Memory.wf
    (State.serveReleases s x1).mem = true := by
  unfold State.serveReleases
  repeat' (first | with_reducible assumption | (simp [*, foldl_wf, foldl_mem]; done) |
    (with_reducible refine foldl_wf _ _ _ (fun s a h => ?_) ?_) | split | dsimp only)

@[simp] theorem State.releaseSuccessor_wf (s : State) (asid : BitVec 16) (x : Word) (doomed : Bool) (h : Memory.wf s.mem = true) :
    Memory.wf (s.releaseSuccessor asid x doomed).mem = true := by
  unfold State.releaseSuccessor
  extract_lets va
  split
  · exact h
  · extract_lets pa line u w waits w' v
    have hu : Memory.wf u.mem = true := State.atHome_wf _ _ _ _ _ _ (by rw [State.takeTurn_mem]; exact h)
    clear_value u
    have hv : Memory.wf v.mem = true := Memory.write64_wf _ _ hu
    clear_value v
    repeat' split
    all_goals first | exact hv | exact State.enqueueSuccessor_wf _ _ _ hu | exact State.enqueueSuccessor_wf _ _ _ hv

@[simp] theorem State.succRouse_mem (s : State) (x1 : BitVec 16) (x2 : Word) (x3 : Bool) : (State.succRouse s x1 x2 x3).mem =
    s.mem := by
  unfold State.succRouse; dsimp only
  rw [State.send_mem]
  repeat' split
  all_goals simp

@[simp] theorem State.releaseList_wf (s : State) (asid : BitVec 16) (doomed : Bool) (l : List Word)
    (h : Memory.wf s.mem = true) : Memory.wf (s.releaseList asid doomed l).1.mem = true := by
  induction l generalizing s with
  | nil => exact h
  | cons x r ih =>
    unfold State.releaseList
    split
    · rw [State.succRouse_mem]; exact h
    · exact ih _ (State.releaseSuccessor_wf _ _ _ _ h)

@[simp] theorem State.releaseAll_wf (s : State) (x : Succs) (h : Memory.wf s.mem = true) :
    Memory.wf (s.releaseAll x).mem = true := by
  have hr := State.releaseList_wf s x.asid x.doomed x.handles h
  unfold State.releaseAll
  generalize s.releaseList x.asid x.doomed x.handles = r at hr ⊢
  dsimp only
  split
  · split
    · exact hr
    · exact State.fillCcnt_wf _ _ hr
  · exact hr

@[simp] theorem execSuccessorRelease_wf (x0 : BitVec 16) (x1 : BitVec 64) (x2 : Bool) (s : State) (h : Memory.wf s.mem =
    true) : OutWf (execSuccessorRelease x0 x1 x2 s) := by
  unfold execSuccessorRelease
  split <;> simp [h]

@[simp] theorem State.rejectPending_mem (s : State) (x1 : BitVec 16) : (State.rejectPending s x1).mem = s.mem := by
  rfl

@[simp] theorem State.finishLaunch_wf (s : State) (r : Launch) (h : Memory.wf s.mem = true) :
    Memory.wf (s.finishLaunch r).mem = true := by
  unfold State.finishLaunch
  dsimp only
  refine State.releaseAll_wf _ _ ?_
  refine State.countUp_wf _ _ _ (State.countUp_wf _ _ _ (State.countUp_wf _ _ _ ?_))
  simpa using h

@[simp] theorem State.checkLaunch_wf (s : State) (x1 : BitVec 16) (h : Memory.wf s.mem = true) : Memory.wf
    (State.checkLaunch s x1).mem = true := by
  unfold State.checkLaunch; repeat' (first | with_reducible assumption | (simp [*]; done) | split | dsimp only)

@[simp] theorem State.sendRoll_mem (s : State) (x1 : RollAcc) : (State.sendRoll s x1).mem = s.mem := by
  unfold State.sendRoll; simp

@[simp] theorem State.takeRoll_mem (s : State) (x1 : BitVec 16) (x2 : RollNode) (x3 : Word) : (State.takeRoll s x1 x2
    x3).1.mem = s.mem := by
  unfold State.takeRoll; split <;> rfl

@[simp] theorem State.rollScan_mem (s : State) (x1 : BitVec 16) : (State.rollScan s x1).mem = s.mem := by
  unfold State.rollScan; simp [foldl_mem, apply_ite State.mem]

@[simp] theorem execRollcallStatusWord_wf (x0 : BitVec 16) (x1 : RollNode) (x2 : BitVec 64) (s : State) (h : Memory.wf s.mem
    = true) : OutWf (execRollcallStatusWord x0 x1 x2 s) := by
  have hr : Memory.wf (s.takeRoll x0 x1 x2).1.mem = true := by rw [State.takeRoll_mem]; exact h
  unfold execRollcallStatusWord
  generalize s.takeRoll x0 x1 x2 = r at hr ⊢
  obtain ⟨u, gs⟩ := r
  dsimp only at hr ⊢
  split
  · split
    · exact (OutWf_next _).2 hr
    · split
      · exact (OutWf_next _).2 (State.checkLaunch_wf _ _ (by rw [State.putCtr_mem]; exact hr))
      · exact (OutWf_next _).2 hr
  · exact (OutWf_next _).2 (by rw [State.rollScan_mem]; exact hr)

@[simp] theorem State.putSlot_mem (s : State) (x1 : TSlot) : (State.putSlot s x1).mem = s.mem := by
  rfl

@[simp] theorem State.freeSlot_mem (s : State) (x1 : BitVec 17) : (State.freeSlot s x1).mem = s.mem := by
  rfl

@[simp] theorem State.leavePool_wf (s : State) (x1 : BitVec 6) (x2 : BitVec 5) (h : Memory.wf s.mem = true) : Memory.wf
    (State.leavePool s x1 x2).mem = true := by
  unfold State.leavePool
  repeat' (first | with_reducible assumption | (simp [*, foldl_wf, foldl_mem]; done) |
    (with_reducible refine foldl_wf _ _ _ (fun s a h => ?_) ?_) | split | dsimp only)

@[simp] theorem State.leave_wf (s : State) (x1 : Thread) (h : Memory.wf s.mem = true) : Memory.wf (State.leave s x1).mem =
    true := by
  unfold State.leave; repeat' (first | with_reducible assumption | (simp [*]; done) | split | dsimp only)

@[simp] theorem State.withGang_mem (s : State) (x1 : BitVec 16) (x2 : BitVec 24) (x3 : Gang → Gang) : (State.withGang s x1
    x2 x3).mem = s.mem := by
  unfold State.withGang; repeat' split
  all_goals first | rfl | simp [foldl_mem, apply_ite State.mem]

@[simp] theorem State.rollOn_wf (s : State) (x1 : BitVec 16) (h : Memory.wf s.mem = true) : Memory.wf (State.rollOn s
    x1).mem = true := by
  unfold State.rollOn; simp [h]

@[simp] theorem State.gangSettle_wf (s : State) (l : BitVec 16) (k : BitVec 24) (h : Memory.wf s.mem = true) :
    Memory.wf (s.gangSettle l k).mem = true := by
  unfold State.gangSettle
  dsimp only
  split
  · split
    · exact h
    · repeat' split
      all_goals exact State.rollOn_wf _ _ (by simpa using h)
  · split
    · refine State.rollOn_wf _ _ ?_
      split
      · rw [State.putLaunch_mem]; exact foldl_wf _ _ _ (fun u t hu => State.leave_wf _ _ hu) h
      · exact foldl_wf _ _ _ (fun u t hu => State.leave_wf _ _ hu) h
    · exact h

@[simp] theorem execTaskExitReport_wf (x : BitVec 17) (s : State) (h : Memory.wf s.mem = true) : OutWf (execTaskExitReport x s) := by
  unfold execTaskExitReport
  dsimp only
  split
  · exact (OutWf_next _).2 h
  · rename_i t _
    have hd := State.drain_wf s x t.buf.length h
    split
    · exact (OutWf_next _).2 h
    · split
      · exact (OutWf_next _).2 (by simpa using hd)
      · refine (OutWf_next _).2 (State.gangSettle_wf _ _ _ ?_)
        rw [State.realignSettle_mem]
        split
        · rw [State.sendRoll_mem, State.withGang_mem]; exact State.leave_wf _ _ hd
        · exact State.rollOn_wf _ _ (State.leave_wf _ _ hd)

@[simp] theorem execTaskStop_wf (x0 : BitVec 17) (s : State) (h : Memory.wf s.mem = true) : OutWf (execTaskStop x0 s) := by
  unfold execTaskStop; repeat' (first | with_reducible assumption | (simp [*]; done) | split | dsimp only)

@[simp] theorem State.join_wf (s : State) (x1 : Thread) (x2 : Fork) (h : Memory.wf s.mem = true) : Memory.wf (State.join s
    x1 x2).1.mem = true := by
  unfold State.join; repeat' (first | with_reducible assumption | (simp [*]; done) | split | dsimp only)

@[simp] theorem execExitTask_wf (s : State) (h : Memory.wf s.mem = true) : OutWf (execExitTask s) := by
  unfold execExitTask
  dsimp only
  split
  · exact (OutWf_next _).2 h
  · split
    · exact State.trap_wf _ _ _ h
    · split
      · exact (OutWf_next _).2 (by simpa using h)
      · have hw := fun f => State.join_wf s s.th f h
        split
        · rename_i hx; have h1 := hw ‹Fork›; rw [hx] at h1; exact (OutWf_next _).2 (by simpa using h1)
        · rename_i hx; have h1 := hw ‹Fork›; rw [hx] at h1; exact (OutWf_next _).2 h1

@[simp] theorem execJoinc_wf (d : BitVec 6) (s : State) (h : Memory.wf s.mem = true) :
    OutWf (execJoinc d s) := by
  unfold execJoinc
  dsimp only
  split
  · exact (OutWf_next _).2 h
  · split
    · exact State.retire_wf _ (by simpa using h)
    · split
      · exact State.retire_wf _ (by simpa using h)
      · have hw := fun f => State.join_wf s s.th f h
        split
        · rename_i hx; have h1 := hw ‹Fork›; rw [hx] at h1; exact State.retire_wf _ (by simpa using h1)
        · rename_i hx; have h1 := hw ‹Fork›; rw [hx] at h1; exact (OutWf_next _).2 h1

@[simp] theorem State.cancelThreads_wf (s : State) (x1 : List Thread) (h : Memory.wf s.mem = true) : Memory.wf
    (State.cancelThreads s x1).mem = true := by
  unfold State.cancelThreads
  repeat' (first | with_reducible assumption | (simp [*, foldl_wf, foldl_mem]; done) |
    (with_reducible refine foldl_wf _ _ _ (fun s a h => ?_) ?_) | split | dsimp only)

@[simp] theorem State.cancelLaunch_wf (s : State) (r : Launch) (h : Memory.wf s.mem = true) :
    Memory.wf (s.cancelLaunch r).mem = true := by
  unfold State.cancelLaunch
  dsimp only
  split
  · exact h
  · refine State.rollOn_wf _ _ (State.cancelThreads_wf _ _ ?_)
    exact foldl_wf _ _ _ (fun u w hu => by simpa using hu) (by simpa using h)

@[simp] theorem State.cancelLevel_wf (s : State) (x1 : BitVec 12) (h : Memory.wf s.mem = true) : Memory.wf
    (State.cancelLevel s x1).1.mem = true := by
  unfold State.cancelLevel
  repeat' (first | with_reducible assumption | (simp [*, foldl_wf, foldl_mem]; done) |
    (with_reducible refine foldl_wf _ _ _ (fun s a h => ?_) ?_) | split | dsimp only)

@[simp] theorem execCcnt_wf (x0 x1 x2 : BitVec 6) (s : State) (h : Memory.wf s.mem = true) : OutWf (execCcnt x0 x1 x2 s) :=
    by
  unfold execCcnt; repeat' (first | with_reducible assumption | (simp [*]; done) | split | dsimp only)

@[simp] theorem execCancelCounter_wf (x0 x1 : BitVec 6) (s : State) (h : Memory.wf s.mem = true) : OutWf (execCancelCounter
    x0 x1 s) := by
  unfold execCancelCounter; repeat' (first | with_reducible assumption | (simp [*]; done) | split | dsimp only)

@[simp] theorem execHostCancel_wf (x0 : BitVec 12) (s : State) (h : Memory.wf s.mem = true) : OutWf (execHostCancel x0 s) :=
    by
  unfold execHostCancel; repeat' (first | with_reducible assumption | (simp [*]; done) | split | dsimp only)

@[simp] theorem State.raisePreempt_mem (s : State) (x1 : BitVec 16) (x2 : BitVec 24) : (State.raisePreempt s x1 x2).mem =
    s.mem := by
  unfold State.raisePreempt; dsimp only; repeat' split
  all_goals first | rfl | simp [foldl_mem, apply_ite State.mem]

@[simp] theorem execSliceExpiry_wf (x0 : BitVec 16) (x1 : BitVec 24) (s : State) (h : Memory.wf s.mem = true) : OutWf
    (execSliceExpiry x0 x1 s) := by
  unfold execSliceExpiry; repeat' (first | with_reducible assumption | (simp [*]; done) | split | dsimp only)

@[simp] theorem execGraceExpiry_wf (x0 : BitVec 16) (x1 : BitVec 24) (s : State) (h : Memory.wf s.mem = true) : OutWf
    (execGraceExpiry x0 x1 s) := by
  unfold execGraceExpiry; repeat' (first | with_reducible assumption | (simp [*]; done) | split | dsimp only)

-- Machine/Barrier.lean.

@[simp] theorem State.putCell_mem (s : State) (x1 : CellId) (x2 : Option Cell) : (State.putCell s x1 x2).mem = s.mem := by
  rfl

@[simp] theorem State.wakeBarr_mem (s : State) (x1 : CellId) (x2 : BitVec 32) : (State.wakeBarr s x1 x2).mem = s.mem := by
  unfold State.wakeBarr; simp [foldl_mem, apply_ite State.mem]

@[simp] theorem State.barBad_wf (s : State) (x1 : Word) (x2 : BarBad) (h : Memory.wf s.mem = true) : OutWf (State.barBad s
    x1 x2) := by
  unfold State.barBad; repeat' (first | with_reducible assumption | (simp [*]; done) | split | dsimp only)

@[simp] theorem State.barStack_wf (s : State) (x1 : ℕ) (x2 : BitVec 6) (x3 : CellId) (x4 : BitVec 24) (h : Memory.wf s.mem =
    true) : OutWf (State.barStack s x1 x2 x3 x4) := by
  unfold State.barStack; repeat' (first | with_reducible assumption | (simp [*]; done) | split | dsimp only)

@[simp] theorem execBari_wf (x0 x1 : BitVec 6) (s : State) (h : Memory.wf s.mem = true) : OutWf (execBari x0 x1 s) := by
  unfold execBari; repeat' (first | with_reducible assumption | (simp [*]; done) | split | dsimp only)

@[simp] theorem State.barArriveAt_wf (s : State) (x1 x2 : BitVec 6) (x3 : CellId) (x4 : Bool) (h : Memory.wf s.mem = true) :
    OutWf (State.barArriveAt s x1 x2 x3 x4) := by
  unfold State.barArriveAt; repeat' (first | with_reducible assumption | (simp [*]; done) | split | dsimp only)

@[simp] theorem State.arrive_wf (s : State) (x1 : ℕ) (x2 x3 : BitVec 6) (h : Memory.wf s.mem = true) : OutWf (State.arrive s
    x1 x2 x3) := by
  unfold State.arrive; repeat' (first | with_reducible assumption | (simp [*]; done) | split | dsimp only)

@[simp] theorem execBarr_wf (x0 x1 : BitVec 6) (s : State) (h : Memory.wf s.mem = true) : OutWf (execBarr x0 x1 s) := by
  unfold execBarr; simp [h]

@[simp] theorem execBard_wf (x0 x1 : BitVec 6) (s : State) (h : Memory.wf s.mem = true) : OutWf (execBard x0 x1 s) := by
  unfold execBard; simp [h]

@[simp] theorem State.bellAt_wf (s : State) (x1 : ℕ) (x2 : Beat) (h : Memory.wf s.mem = true) : Memory.wf (State.bellAt s x1
    x2).mem = true := by
  unfold State.bellAt
  simp [h, foldl_wf, foldl_mem, Memory.set_wf, Memory.setMany_wf, Memory.writeNat_wf, Memory.write64_wf, Memory.filter_wf, Memory.wf_nil]

@[simp] theorem State.barAt_mem (s : State) (x1 : CellId) (x2 : Beat) : (State.barAt s x1 x2).1.mem = s.mem := by
  unfold State.barAt; dsimp only; repeat' split
  all_goals first | rfl | simp [foldl_mem, apply_ite State.mem]

@[simp] theorem State.beatDone_mem (s : State) (x1 : Beat) (x2 : Except BarBad (BitVec 32)) : (State.beatDone s x1 x2).mem =
    s.mem := by
  unfold State.beatDone; dsimp only; repeat' split
  all_goals first | rfl | simp [foldl_mem, apply_ite State.mem]

@[simp] theorem State.applyMirror_wf (s : State) (x1 : BitVec 6) (x2 : Beat) (h : Memory.wf s.mem = true) : Memory.wf
    (State.applyMirror s x1 x2).mem = true := by
  unfold State.applyMirror; repeat' (first | with_reducible assumption | (simp [*]; done) | split | dsimp only)

@[simp] theorem State.hearBeat_wf (s : State) (x1 : BitVec 6) (x2 : Beat) (h : Memory.wf s.mem = true) : Memory.wf
    (State.hearBeat s x1 x2).mem = true := by
  unfold State.hearBeat; repeat' (first | with_reducible assumption | (simp [*]; done) | split | dsimp only)

@[simp] theorem State.catchUp_wf (s : State) (x1 : BitVec 6) (h : Memory.wf s.mem = true) : Memory.wf (State.catchUp s
    x1).mem = true := by
  unfold State.catchUp
  repeat' (first | with_reducible assumption | (simp [*, foldl_wf, foldl_mem]; done) |
    (with_reducible refine foldl_wf _ _ _ (fun s a h => ?_) ?_) | split | dsimp only)

@[simp] theorem State.lagMirror_wf (s : State) (x1 : BitVec 6) (x2 : Bool) (h : Memory.wf s.mem = true) : Memory.wf
    (State.lagMirror s x1 x2).mem = true := by
  unfold State.lagMirror; repeat' (first | with_reducible assumption | (simp [*]; done) | split | dsimp only)

@[simp] theorem State.applyBeat_wf (s : State) (x1 : BitVec 3) (x2 : Beat) (h : Memory.wf s.mem = true) : Memory.wf
    (State.applyBeat s x1 x2).mem = true := by
  unfold State.applyBeat
  repeat' (first | with_reducible assumption | (simp [*, foldl_wf, foldl_mem]; done) |
    (with_reducible refine foldl_wf _ _ _ (fun s a h => ?_) ?_) | split | dsimp only)

@[simp] theorem State.dropPage_mem (s : State) (x1 : BitVec 6) (x2 : BitVec 36) : (State.dropPage s x1 x2).mem = s.mem := by
  rfl

@[simp] theorem State.shootBeat_wf (s : State) (x1 : BitVec 3) (x2 : BitVec 36) (h : Memory.wf s.mem = true) : Memory.wf
    (State.shootBeat s x1 x2).mem = true := by
  unfold State.shootBeat; simp [h, foldl_wf, foldl_mem]

@[simp] theorem State.wakeLayers_wf (s : State) (x1 : BitVec 3) (h : Memory.wf s.mem = true) : Memory.wf (State.wakeLayers s
    x1).mem = true := by
  unfold State.wakeLayers
  repeat' (first | with_reducible assumption |
    (simp [*, foldl_wf, foldl_mem, Memory.set_wf, Memory.setMany_wf, Memory.writeNat_wf, Memory.write64_wf, Memory.filter_wf, Memory.wf_nil]; done) |
    (with_reducible refine foldl_wf _ _ _ (fun s a h => ?_) ?_) | split | dsimp only)

@[simp] theorem execBellSlot_wf (x0 : BitVec 3) (s : State) (h : Memory.wf s.mem = true) : OutWf (execBellSlot x0 s) := by
  unfold execBellSlot; repeat' (first | with_reducible assumption | (simp [*]; done) | split | dsimp only)

@[simp] theorem execBellFrameBoundary_wf (x0 : BitVec 3) (s : State) (h : Memory.wf s.mem = true) : OutWf
    (execBellFrameBoundary x0 s) := by
  unfold execBellFrameBoundary; repeat' (first | with_reducible assumption | (simp [*]; done) | split | dsimp only)

@[simp] theorem State.emptyPool_mem (s : State) (x1 : BitVec 6) (x2 : BitVec 5) : (State.emptyPool s x1 x2).mem = s.mem :=
    by
  unfold State.emptyPool; simp [foldl_mem, apply_ite State.mem]

@[simp] theorem State.enterPool_wf (s : State) (x1 : BitVec 6) (x2 : BitVec 5) (x3 : BitVec 16) (h : Memory.wf s.mem = true)
    : Memory.wf (State.enterPool s x1 x2 x3).mem = true := by
  unfold State.enterPool
  repeat' (first | with_reducible assumption |
    (simp [*, foldl_wf, foldl_mem, Memory.set_wf, Memory.setMany_wf, Memory.writeNat_wf, Memory.write64_wf, Memory.filter_wf, Memory.wf_nil]; done) |
    (with_reducible refine foldl_wf _ _ _ (fun s a h => ?_) ?_) | split | dsimp only)

@[simp] theorem execForkr_wf (d a b : BitVec 6) (s : State) (h : Memory.wf s.mem = true) :
    OutWf (execForkr d a b s) := by
  unfold execForkr
  dsimp only
  split
  · exact (OutWf_next _).2 h
  · split
    · split
      · exact State.trap_wf _ _ _ h
      · exact State.retire_wf _ h
    · split
      · exact State.retire_wf _ h
      · split
        · exact State.retire_wf _ h
        · exact (OutWf_next _).2 (foldl_wf _ _ _ (fun u x hu => by
            rw [State.putSlot_mem, State.bindThread_mem]; exact State.enterPool_wf _ _ _ _ hu) h)

-- Machine/Launch.lean.

@[simp] theorem State.advanceReader_wf (s : State) (q : BitVec 8) (h : Memory.wf s.mem = true) :
    Memory.wf (s.advanceReader q).mem = true := by
  unfold State.advanceReader
  dsimp only
  rw [State.send_mem]
  exact State.serveSubmits_wf _ _ (State.serveReleases_wf _ _ (Memory.write64_wf _ _ (Memory.write64_wf _ _ h)))

@[simp] theorem State.countRejected_wf (s : State) (x1 : BitVec 16) (x2 : BitVec 2) (x3 : BitVec 12) (x4 : Word) (h :
    Memory.wf s.mem = true) : Memory.wf (State.countRejected s x1 x2 x3 x4).mem = true := by
  unfold State.countRejected; repeat' (first | with_reducible assumption | (simp [*]; done) | split | dsimp only)

@[simp] theorem State.rejectPacket_wf (s : State) (q : BitVec 8) (p : Packet) (h : Memory.wf s.mem = true) :
    Memory.wf (s.rejectPacket q p).mem = true := by
  unfold State.rejectPacket
  refine State.releaseAll_wf _ _ ?_
  split
  · exact State.countRejected_wf _ _ _ _ _ (State.countRejected_wf _ _ _ _ _ (State.countRejected_wf _ _ _ _ _ (by simpa using h)))
  · simpa using h

@[simp] theorem State.joinLevel_mem (s : State) (x1 : BitVec 12) (x2 : Bool) : (State.joinLevel s x1 x2).mem = s.mem := by
  unfold State.joinLevel; simp [foldl_mem, apply_ite State.mem]

@[simp] theorem State.acceptCounters_mem (s : State) (x1 : Packet) : (State.acceptCounters s x1).mem = s.mem := by
  unfold State.acceptCounters; simp [foldl_mem, apply_ite State.mem]

@[simp] theorem State.acceptPacket_wf (s : State) (x1 : BitVec 8) (x2 : Packet) (x3 : BitVec 16) (h : Memory.wf s.mem =
    true) : Memory.wf (State.acceptPacket s x1 x2 x3).mem = true := by
  unfold State.acceptPacket; repeat' (first | with_reducible assumption | (simp [*]; done) | split | dsimp only)

@[simp] theorem State.readerSleeps_mem (s : State) (x1 : BitVec 8) : (State.readerSleeps s x1).mem = s.mem := by
  rfl

@[simp] theorem State.readerRouse_wf (s : State) (x1 : BitVec 8) (x2 : Instr) (h : Memory.wf s.mem = true) : Memory.wf
    (State.readerRouse s x1 x2).mem = true := by
  unfold State.readerRouse; simp [h]

@[simp] theorem execLaunchPacket_wf (q : BitVec 8) (s : State) (h : Memory.wf s.mem = true) : OutWf (execLaunchPacket q s) := by
  have h1 := State.serveSubmits_wf _ q (State.serveReleases_wf s q h)
  unfold execLaunchPacket
  generalize (s.serveReleases q).serveSubmits q = u at h1 ⊢
  dsimp only
  repeat' split
  all_goals simp [h1]

@[simp] theorem State.openPhase_wf (s : State) (x1 : BitVec 8) (x2 : Packet) (h : Memory.wf s.mem = true) : Memory.wf
    (State.openPhase s x1 x2).mem = true := by
  unfold State.openPhase; repeat' (first | with_reducible assumption | (simp [*]; done) | split | dsimp only)

@[simp] theorem execPhaseMark_wf (x0 : BitVec 8) (s : State) (h : Memory.wf s.mem = true) : OutWf (execPhaseMark x0 s) := by
  unfold execPhaseMark; repeat' (first | with_reducible assumption | (simp [*]; done) | split | dsimp only)

@[simp] theorem execDoorbellWrite_wf (x0 : BitVec 8) (s : State) (h : Memory.wf s.mem = true) : OutWf (execDoorbellWrite x0
    s) := by
  unfold execDoorbellWrite; simp [h]

-- Machine/Timetable.lean.

@[simp] theorem State.putFirmware_mem (s : State) (x1 : Firmware) : (State.putFirmware s x1).mem = s.mem := by
  rfl

@[simp] theorem State.fwDone_mem (s : State) (x1 : BitVec 6) (x2 : FwResult) : (State.fwDone s x1 x2).mem = s.mem := by
  rfl

@[simp] theorem State.fwRefusedWrite_mem (s : State) (x1 : BitVec 6) : (State.fwRefusedWrite s x1).mem = s.mem := by
  rfl

@[simp] theorem State.putLease_mem (s : State) (x1 : LeaseE) : (State.putLease s x1).mem = s.mem := by
  rfl

@[simp] theorem State.bindSlot_wf (s : State) (x1 : Launch) (x2 : TSlot) (h : Memory.wf s.mem = true) : Memory.wf
    (State.bindSlot s x1 x2).mem = true := by
  unfold State.bindSlot; repeat' (first | with_reducible assumption | (simp [*]; done) | split | dsimp only)

@[simp] theorem State.startGang_wf (s : State) (r : Launch) (k : BitVec 24) (g : List TSlot) (h : Memory.wf s.mem = true) :
    Memory.wf (s.startGang r k g).mem = true := by
  unfold State.startGang
  rw [State.withGang_mem]
  exact foldl_wf _ _ _ (fun u x hu => State.bindSlot_wf _ _ _ hu) h

@[simp] theorem State.rejectRecords_wf (s : State) (x1 : List TSlot) (x2 : BitVec 8) (h : Memory.wf s.mem = true) :
    Memory.wf (State.rejectRecords s x1 x2).mem = true := by
  unfold State.rejectRecords
  repeat' (first | with_reducible assumption | (simp [*, foldl_wf, foldl_mem]; done) |
    (with_reducible refine foldl_wf _ _ _ (fun s a h => ?_) ?_) | split | dsimp only)

@[simp] theorem State.dispatch_wf (s : State) (x1 x2 : BitVec 6) (x3 : BitVec 24) (h : Memory.wf s.mem = true) : Memory.wf
    (State.dispatch s x1 x2 x3).mem = true := by
  unfold State.dispatch; repeat' (first | with_reducible assumption | (simp [*]; done) | split | dsimp only)

@[simp] theorem execBindRecordWrite_wf (x0 : BitVec 6) (x1 : BitVec 11) (x2 x3 x4 x5 : BitVec 64) (s : State) (h : Memory.wf
    s.mem = true) : OutWf (execBindRecordWrite x0 x1 x2 x3 x4 x5 s) := by
  unfold execBindRecordWrite; repeat' (first | with_reducible assumption | (simp [*]; done) | split | dsimp only)

@[simp] theorem execOpenLent_wf (x0 x1 : BitVec 6) (x2 : BitVec 16) (s : State) (h : Memory.wf s.mem = true) : OutWf
    (execOpenLent x0 x1 x2 s) := by
  unfold execOpenLent; repeat' (first | with_reducible assumption | (simp [*]; done) | split | dsimp only)

@[simp] theorem execCloseLent_wf (x0 x1 : BitVec 6) (s : State) (h : Memory.wf s.mem = true) : OutWf (execCloseLent x0 x1 s)
    := by
  unfold execCloseLent; repeat' (first | with_reducible assumption | (simp [*]; done) | split | dsimp only)

@[simp] theorem execClaim_wf (x0 x1 : BitVec 6) (s : State) (h : Memory.wf s.mem = true) : OutWf (execClaim x0 x1 s) := by
  unfold execClaim; repeat' (first | with_reducible assumption | (simp [*]; done) | split | dsimp only)

@[simp] theorem execUnclaim_wf (x0 x1 : BitVec 6) (x2 : BitVec 24) (s : State) (h : Memory.wf s.mem = true) : OutWf
    (execUnclaim x0 x1 x2 s) := by
  unfold execUnclaim; repeat' (first | with_reducible assumption | (simp [*]; done) | split | dsimp only)

@[simp] theorem execPreemptCmd_wf (x0 x1 : BitVec 6) (x2 : BitVec 24) (s : State) (h : Memory.wf s.mem = true) : OutWf
    (execPreemptCmd x0 x1 x2 s) := by
  unfold execPreemptCmd; repeat' (first | with_reducible assumption | (simp [*]; done) | split | dsimp only)

@[simp] theorem execBellpart_wf (x0 : BitVec 6) (x1 : BitVec 8) (x2 : BitVec 4) (s : State) (h : Memory.wf s.mem = true) :
    OutWf (execBellpart x0 x1 x2 s) := by
  unfold execBellpart; repeat' (first | with_reducible assumption | (simp [*]; done) | split | dsimp only)

@[simp] theorem State.writeLease_mem (s : State) (x1 : BitVec 6) (x2 : BitVec 8) (x3 x4 x5 : Word) : (State.writeLease s x1
    x2 x3 x4 x5).mem = s.mem := by
  unfold State.writeLease; simp [foldl_mem, apply_ite State.mem]

@[simp] theorem execLeaseCmd_wf (x0 : BitVec 6) (x1 : BitVec 8) (x2 x3 x4 : BitVec 64) (s : State) (h : Memory.wf s.mem =
    true) : OutWf (execLeaseCmd x0 x1 x2 x3 x4 s) := by
  unfold execLeaseCmd; repeat' (first | with_reducible assumption | (simp [*]; done) | split | dsimp only)

@[simp] theorem execReleaseCmd_wf (x0 : BitVec 6) (x1 : BitVec 8) (s : State) (h : Memory.wf s.mem = true) : OutWf
    (execReleaseCmd x0 x1 s) := by
  unfold execReleaseCmd; repeat' (first | with_reducible assumption | (simp [*]; done) | split | dsimp only)

@[simp] theorem execLeaseWalkDone_wf (x0 : BitVec 6) (x1 : BitVec 8) (s : State) (h : Memory.wf s.mem = true) : OutWf
    (execLeaseWalkDone x0 x1 s) := by
  unfold execLeaseWalkDone; repeat' (first | with_reducible assumption | (simp [*]; done) | split | dsimp only)

@[simp] theorem execHostRangeMapped_wf (x0 : BitVec 6) (x1 : BitVec 8) (s : State) (h : Memory.wf s.mem = true) : OutWf
    (execHostRangeMapped x0 x1 s) := by
  unfold execHostRangeMapped; repeat' (first | with_reducible assumption | (simp [*]; done) | split | dsimp only)

@[simp] theorem execHostLeaseRefuse_wf (x0 : BitVec 6) (x1 : BitVec 8) (s : State) (h : Memory.wf s.mem = true) : OutWf
    (execHostLeaseRefuse x0 x1 s) := by
  unfold execHostLeaseRefuse; repeat' (first | with_reducible assumption | (simp [*]; done) | split | dsimp only)

@[simp] theorem execFirmwareMailboxSend_wf (x0 : BitVec 6) (x1 : BitVec 8) (x2 : BitVec 512) (s : State) (h : Memory.wf
    s.mem = true) : OutWf (execFirmwareMailboxSend x0 x1 x2 s) := by
  unfold execFirmwareMailboxSend; repeat' (first | with_reducible assumption | (simp [*]; done) | split | dsimp only)

-- Machine/Pages.lean.

@[simp] theorem State.inTurn_mem (s : State) (x1 : Instr) (x2 : BitVec 36) : (State.inTurn s x1 x2).1.mem = s.mem := by
  unfold State.inTurn; dsimp only; repeat' split
  all_goals first | rfl | simp [foldl_mem, apply_ite State.mem]

@[simp] theorem State.zeroPage_wf (s : State) (x1 : BitVec 36) (x2 x3 : ℕ) (h : Memory.wf s.mem = true) : Memory.wf
    (State.zeroPage s x1 x2 x3).mem = true := by
  unfold State.zeroPage; simp [h]

@[simp] theorem execAppendArrival_wf (x : BitVec 17) (gen : OpId) (s : State) (h : Memory.wf s.mem = true) :
    OutWf (execAppendArrival x gen s) := by
  unfold execAppendArrival
  split
  · exact (OutWf_next _).2 h
  · split
    · generalize hx : State.inTurn _ _ _ = w
      have hw : Memory.wf w.1.mem = true := by rw [← hx, State.inTurn_mem]; exact h
      obtain ⟨u, now⟩ := w
      dsimp only
      repeat' split
      all_goals first | exact (OutWf_next _).2 hw | simp [hw]
    · exact (OutWf_next _).2 h

@[simp] theorem State.setLeafClass_wf (s : State) (x1 : BitVec 52) (x2 : ℕ) (h : Memory.wf s.mem = true) : Memory.wf
    (State.setLeafClass s x1 x2).mem = true := by
  unfold State.setLeafClass
  simp [h, foldl_wf, foldl_mem, Memory.set_wf, Memory.setMany_wf, Memory.writeNat_wf, Memory.write64_wf, Memory.filter_wf, Memory.wf_nil]

@[simp] theorem State.sealPage_wf (s : State) (x1 : BitVec 36) (h : Memory.wf s.mem = true) : Memory.wf (State.sealPage s
    x1).mem = true := by
  unfold State.sealPage
  repeat' (first | with_reducible assumption | (simp [*, foldl_wf, foldl_mem]; done) |
    (with_reducible refine foldl_wf _ _ _ (fun s a h => ?_) ?_) | split | dsimp only)

@[simp] theorem State.advanceDone_mem (s : State) (page : BitVec 36) (n : Nat) : (s.advanceDone page n).mem = s.mem := by
  induction n generalizing s with
  | zero => rfl
  | succ n ih =>
    unfold State.advanceDone
    dsimp only
    split
    · split
      · rw [ih]; simp
      · rfl
    · rfl

@[simp] theorem execAppendWriteDone_wf (page : BitVec 36) (off : BitVec 17) (s : State) (h : Memory.wf s.mem = true) :
    OutWf (execAppendWriteDone page off s) := by
  unfold execAppendWriteDone
  dsimp only
  split
  · exact (OutWf_next _).2 (by rw [State.send_mem, State.rouse_mem]; exact h)
  · split
    · exact (OutWf_next _).2 h
    · refine (OutWf_next _).2 (State.sealPage_wf _ _ ?_)
      rw [State.advanceDone_mem, State.putPage_mem]
      exact Memory.setMany_wf _ h

@[simp] theorem execSealArrival_wf (x : BitVec 17) (gen : OpId) (s : State) (h : Memory.wf s.mem = true) :
    OutWf (execSealArrival x gen s) := by
  unfold execSealArrival
  split
  · exact (OutWf_next _).2 h
  · split
    · generalize hx : State.inTurn _ _ _ = w
      have hw : Memory.wf w.1.mem = true := by rw [← hx, State.inTurn_mem]; exact h
      obtain ⟨u, now⟩ := w
      dsimp only
      repeat' split
      all_goals first | exact (OutWf_next _).2 hw | simp [hw]
    · exact (OutWf_next _).2 h

@[simp] theorem State.startFree_mem (s : State) (x1 : BitVec 36) (x2 : BitVec 52) : (State.startFree s x1 x2).mem = s.mem :=
    by
  unfold State.startFree; dsimp only; split
  · rfl
  · refine Eq.trans (foldl_mem (fun s k => s.send (.shootdownMessage x1 (BitVec.ofNat 3 k))) _ _ ?_) (State.putPage_mem _ _)
    exact fun _ _ => rfl

@[simp] theorem State.resetPage_wf (s : State) (x1 : BitVec 36) (h : Memory.wf s.mem = true) : Memory.wf (State.resetPage s
    x1).mem = true := by
  unfold State.resetPage
  simp [h, foldl_wf, foldl_mem, Memory.set_wf, Memory.setMany_wf, Memory.writeNat_wf, Memory.write64_wf, Memory.filter_wf, Memory.wf_nil]

@[simp] theorem execShootdownMessage_wf (x0 : BitVec 36) (x1 : BitVec 3) (s : State) (h : Memory.wf s.mem = true) : OutWf
    (execShootdownMessage x0 x1 s) := by
  unfold execShootdownMessage; simp [h]

@[simp] theorem execShootdownAck_wf (x0 : BitVec 36) (x1 : BitVec 6) (s : State) (h : Memory.wf s.mem = true) : OutWf
    (execShootdownAck x0 x1 s) := by
  unfold execShootdownAck; repeat' (first | with_reducible assumption | (simp [*]; done) | split | dsimp only)

@[simp] theorem execSyscFree_wf (x0 x1 : BitVec 6) (s : State) (h : Memory.wf s.mem = true) : OutWf (execSyscFree x0 x1 s)
    := by
  unfold execSyscFree; repeat' (first | with_reducible assumption | (simp [*]; done) | split | dsimp only)

@[simp] theorem execHostFree_wf (x0 : BitVec 16) (x1 : BitVec 48) (s : State) (h : Memory.wf s.mem = true) : OutWf
    (execHostFree x0 x1 s) := by
  unfold execHostFree; repeat' (first | with_reducible assumption | (simp [*]; done) | split | dsimp only)

@[simp] theorem execSyscHostev_wf (x0 x1 : BitVec 6) (s : State) (h : Memory.wf s.mem = true) : OutWf (execSyscHostev x0 x1
    s) := by
  unfold execSyscHostev; simp [h]

@[simp] theorem execHostevRecordAccept_wf (x0 : BitVec 17) (x1 : OpId) (s : State) (h : Memory.wf s.mem = true) : OutWf
    (execHostevRecordAccept x0 x1 s) := by
  unfold execHostevRecordAccept; repeat' (first | with_reducible assumption | (simp [*]; done) | split | dsimp only)

@[simp] theorem State.clearRegion_wf (s : State) (x1 : BitVec 52) (h : Memory.wf s.mem = true) : Memory.wf
    (State.clearRegion s x1).mem = true := by
  unfold State.clearRegion
  repeat' (first | with_reducible assumption | (simp [*, foldl_wf, foldl_mem]; done) |
    (with_reducible refine foldl_wf _ _ _ (fun s a h => ?_) ?_) | split | dsimp only)

@[simp] theorem State.gatherPage_wf (s : State) (x1 x2 : ℕ) (h : Memory.wf s.mem = true) : Memory.wf (State.gatherPage s x1
    x2).mem = true := by
  unfold State.gatherPage
  repeat' (first | with_reducible assumption | (simp [*, foldl_wf, foldl_mem]; done) |
    (with_reducible refine foldl_wf _ _ _ (fun s a h => ?_) ?_) | split | dsimp only)

@[simp] theorem State.vacate_wf (s : State) (x1 x2 : ℕ) (h : Memory.wf s.mem = true) : Memory.wf (State.vacate s x1 x2).mem =
    true := by
  unfold State.vacate; simp [h]

@[simp] theorem State.movePageTo_wf (s : State) (l : Leaf) (new : Nat) (home : BitVec 6) (h : Memory.wf s.mem = true) :
    Memory.wf (s.movePageTo l new home).mem = true := by
  have hc := State.copyBytes_wf _ l.pa new l.size (State.gatherPage_wf _ l.pa l.size (State.vacate_wf s new l.size h))
  unfold State.movePageTo
  dsimp only
  refine foldl_wf _ _ _ (fun u i hu => ?_) ?_
  · split
    · rw [State.writeFrameHome_mem]; exact hu
    · exact hu
  · exact Memory.write64_wf _ _ hc

@[simp] theorem State.freeze_mem (s : State) (x1 : Leaf) (x2 : ℕ) (x3 : BitVec 6) : (State.freeze s x1 x2 x3).mem = s.mem := by
  unfold State.freeze; dsimp only; split <;> rfl

@[simp] theorem State.thaw_mem (s : State) (x1 : BitVec 36) : (State.thaw s x1).mem = s.mem := by
  unfold State.thaw
  split
  · rfl
  · rw [foldl_mem _ _ _ (fun s x => State.homeGoesOn_mem s _), foldl_mem _ _ _ (fun s r => State.send_mem s _)]

@[simp] theorem execPageMigration_wf (x0 : BitVec 16) (x1 : BitVec 48) (x2 : BitVec 52) (x3 : BitVec 6) (s : State) (h :
    Memory.wf s.mem = true) : OutWf (execPageMigration x0 x1 x2 x3 s) := by
  unfold execPageMigration; repeat' (first | with_reducible assumption | (simp [*]; done) | split | dsimp only)

@[simp] theorem execRedirect_wf (x0 : BitVec 36) (s : State) (h : Memory.wf s.mem = true) : OutWf (execRedirect x0 s) := by
  unfold execRedirect
  repeat' (first | with_reducible assumption | (simp [*, foldl_wf, foldl_mem]; done) |
    (with_reducible refine foldl_wf _ _ _ (fun s a h => ?_) ?_) | split | dsimp only)

@[simp] theorem execHostInvalidate_wf (x0 : BitVec 16) (x1 x2 : BitVec 48) (s : State) (h : Memory.wf s.mem = true) : OutWf
    (execHostInvalidate x0 x1 x2 s) := by
  unfold execHostInvalidate; simp [h]

-- Machine/Coherence.lean.

theorem mergeLine_wf (m : List Host.Cell) (l : Nat) (mask : BitVec 64) (bytes : BitVec 512) (h : Memory.wf m = true) :
    Memory.wf (mergeLine m l mask bytes) = true := by
  unfold mergeLine
  generalize List.range 64 = ks
  induction ks generalizing m with
  | nil => exact h
  | cons k r ih =>
    rw [List.foldl_cons]
    refine ih _ ?_
    split
    · exact Memory.set_wf _ _ h
    · exact h

@[simp] theorem State.maskedWrite_wf (s : State) (l : BitVec 52) (mask : BitVec 64) (bytes : BitVec 512) (h : Memory.wf s.mem = true) :
    Memory.wf (s.maskedWrite l mask bytes).mem = true := mergeLine_wf _ _ _ _ h

@[simp] theorem State.sendData_mem (s : State) (x1 : CohMsg) : (State.sendData s x1).mem = s.mem := by
  rfl

@[simp] theorem State.amoAt_wf (s : State) (x1 x2 x3 x4 x5 : ℕ) (h : Memory.wf s.mem = true) : Memory.wf (State.amoAt s x1
    x2 x3 x4 x5).1.mem = true := by
  unfold State.amoAt
  simp [h, foldl_wf, foldl_mem, Memory.set_wf, Memory.setMany_wf, Memory.writeNat_wf, Memory.write64_wf, Memory.filter_wf, Memory.wf_nil]

@[simp] theorem State.answerPoison_wf (s : State) (x1 : Instr) (x2 : CohMsg) (h : Memory.wf s.mem = true) : Memory.wf
    (State.answerPoison s x1 x2).mem = true := by
  unfold State.answerPoison; repeat' (first | with_reducible assumption | (simp [*]; done) | split | dsimp only)

@[simp] theorem State.snooped_mem (s : State) (x1 : BitVec 52) : (State.snooped s x1).mem = s.mem := by
  unfold State.snooped; split
  · rw [State.machineCheck_mem]; exact State.mail_mem _ _
  · exact State.mail_mem _ _

@[simp] theorem State.complete_wf (s : State) (x1 : Instr) (x2 : CohMsg) (h : Memory.wf s.mem = true) : Memory.wf
    (State.complete s x1 x2).mem = true := by
  unfold State.complete; repeat' (first | with_reducible assumption | (simp [*]; done) | split | dsimp only)

@[simp] theorem State.startTx_mem (s : State) (x1 : Instr) (x2 : BitVec 52) (x3 : BitVec 64) : (State.startTx s x1 x2
    x3).mem = s.mem := by
  rfl

@[simp] theorem State.serve_wf (s : State) (x1 : Instr) (x2 : CohMsg) (h : Memory.wf s.mem = true) : Memory.wf (State.serve
    s x1 x2).mem = true := by
  unfold State.serve
  repeat' (first | with_reducible assumption | (simp [*, foldl_wf, foldl_mem]; done) |
    (with_reducible refine foldl_wf _ _ _ (fun s a h => ?_) ?_) | split | dsimp only)

@[simp] theorem State.serveQueued_wf (s : State) (l : BitVec 52) (n : Nat) (h : Memory.wf s.mem = true) :
    Memory.wf (s.serveQueued l n).mem = true := by
  induction n generalizing s with
  | zero => exact h
  | succ n ih =>
    unfold State.serveQueued
    split
    · exact h
    · split
      · exact h
      · split
        · exact ih _ (State.serve_wf _ _ _ h)
        · exact h

@[simp] theorem State.serveLine_wf (s : State) (x1 : BitVec 52) (h : Memory.wf s.mem = true) : Memory.wf (State.serveLine s
    x1).mem = true := by
  unfold State.serveLine; simp [h]

@[simp] theorem State.request_wf (s : State) (x1 : Instr) (x2 : CohMsg) (h : Memory.wf s.mem = true) : Memory.wf
    (State.request s x1 x2).mem = true := by
  unfold State.request
  repeat' (first | with_reducible assumption | (simp [*, foldl_wf, foldl_mem]; done) |
    (with_reducible refine foldl_wf _ _ _ (fun s a h => ?_) ?_) | split | dsimp only)

@[simp] theorem execGets_wf (x0 : CohMsg) (s : State) (h : Memory.wf s.mem = true) : OutWf (execGets x0 s) := by
  unfold execGets; simp [h]

@[simp] theorem execGeto_wf (x0 : CohMsg) (x1 : Bool) (s : State) (h : Memory.wf s.mem = true) : OutWf (execGeto x0 x1 s) :=
    by
  unfold execGeto; simp [h]

@[simp] theorem execGeti_wf (x0 : CohMsg) (s : State) (h : Memory.wf s.mem = true) : OutWf (execGeti x0 s) := by
  unfold execGeti; simp [h]

@[simp] theorem execGetu_wf (x0 : CohMsg) (s : State) (h : Memory.wf s.mem = true) : OutWf (execGetu x0 s) := by
  unfold execGetu; simp [h]

@[simp] theorem execWrm_wf (x0 : CohMsg) (x1 : BitVec 64) (x2 : BitVec 512) (s : State) (h : Memory.wf s.mem = true) : OutWf
    (execWrm x0 x1 x2 s) := by
  unfold execWrm; simp [h]

@[simp] theorem execPutb_wf (x0 : CohMsg) (x1 : BitVec 64) (x2 : BitVec 512) (s : State) (h : Memory.wf s.mem = true) :
    OutWf (execPutb x0 x1 x2 s) := by
  unfold execPutb; repeat' (first | with_reducible assumption | (simp [*]; done) | split | dsimp only)

@[simp] theorem execAmoh_wf (x0 : CohMsg) (x1 : BitVec 4) (x2 : Bool) (x3 : BitVec 6) (x4 x5 : BitVec 64) (s : State) (h :
    Memory.wf s.mem = true) : OutWf (execAmoh x0 x1 x2 x3 x4 x5 s) := by
  unfold execAmoh; simp [h]

@[simp] theorem execHostSnoop_wf (x0 : BitVec 52) (x1 : SnoopKind) (s : State) (h : Memory.wf s.mem = true) : OutWf
    (execHostSnoop x0 x1 s) := by
  unfold execHostSnoop; repeat' (first | with_reducible assumption | (simp [*]; done) | split | dsimp only)

@[simp] theorem State.finishTx_wf (s : State) (x1 : LineTx) (h : Memory.wf s.mem = true) : Memory.wf (State.finishTx s
    x1).mem = true := by
  unfold State.finishTx; repeat' (first | with_reducible assumption | (simp [*]; done) | split | dsimp only)

@[simp] theorem State.answered_wf (s : State) (x1 : BitVec 52) (x2 : BitVec 6) (x3 : Bool) (h : Memory.wf s.mem = true) :
    Memory.wf (State.answered s x1 x2 x3).mem = true := by
  unfold State.answered; repeat' (first | with_reducible assumption | (simp [*]; done) | split | dsimp only)

@[simp] theorem execInvMsg_wf (x0 : CohMsg) (s : State) (h : Memory.wf s.mem = true) : OutWf (execInvMsg x0 s) := by
  unfold execInvMsg; repeat' (first | with_reducible assumption | (simp [*]; done) | split | dsimp only)

@[simp] theorem State.probeAnswer_mem (s : State) (x1 : CohMsg) (x2 x3 : Bool) : (State.probeAnswer s x1 x2 x3).mem = s.mem
    := by
  unfold State.probeAnswer; simp [foldl_mem, apply_ite State.mem]

@[simp] theorem execRecallMsg_wf (x0 : CohMsg) (s : State) (h : Memory.wf s.mem = true) : OutWf (execRecallMsg x0 s) := by
  unfold execRecallMsg; repeat' (first | with_reducible assumption | (simp [*]; done) | split | dsimp only)

@[simp] theorem execDownMsg_wf (x0 : CohMsg) (s : State) (h : Memory.wf s.mem = true) : OutWf (execDownMsg x0 s) := by
  unfold execDownMsg; repeat' (first | with_reducible assumption | (simp [*]; done) | split | dsimp only)

@[simp] theorem State.putLine_wf (s : State) (x1 : BitVec 52) (x2 : BitVec 512) (h : Memory.wf s.mem = true) : Memory.wf
    (State.putLine s x1 x2).mem = true := by
  unfold State.putLine
  simp [h, foldl_wf, foldl_mem, Memory.set_wf, Memory.setMany_wf, Memory.writeNat_wf, Memory.write64_wf, Memory.filter_wf, Memory.wf_nil]

@[simp] theorem State.takeOwned_mem (s : State) (x1 : CohMsg) : (State.takeOwned s x1).mem = s.mem := by
  unfold State.takeOwned; simp [foldl_mem, apply_ite State.mem]

@[simp] theorem State.takeShared_mem (s : State) (x1 : CohMsg) : (State.takeShared s x1).mem = s.mem := by
  unfold State.takeShared; simp [foldl_mem, apply_ite State.mem]

@[simp] theorem State.takeCopy_mem (s : State) (x1 : CohMsg) (x2 : BitVec 512) : (State.takeCopy s x1 x2).mem = s.mem := by
  unfold State.takeCopy; simp [foldl_mem, apply_ite State.mem]

@[simp] theorem execAckMsg_wf (x0 : CohMsg) (x1 x2 : Bool) (s : State) (h : Memory.wf s.mem = true) : OutWf (execAckMsg x0
    x1 x2 s) := by
  unfold execAckMsg; repeat' (first | with_reducible assumption | (simp [*]; done) | split | dsimp only)

@[simp] theorem execDataMsg_wf (x0 : CohMsg) (x1 x2 : Bool) (x3 : BitVec 512) (s : State) (h : Memory.wf s.mem = true) :
    OutWf (execDataMsg x0 x1 x2 x3 s) := by
  unfold execDataMsg; repeat' (first | with_reducible assumption | (simp [*]; done) | split | dsimp only)

@[simp] theorem execPuto_wf (x0 : CohMsg) (x1 : Option (BitVec 512)) (s : State) (h : Memory.wf s.mem = true) : OutWf
    (execPuto x0 x1 s) := by
  unfold execPuto; repeat' (first | with_reducible assumption | (simp [*]; done) | split | dsimp only)

@[simp] theorem execLostMsg_wf (x0 : CohMsg) (s : State) (h : Memory.wf s.mem = true) : OutWf (execLostMsg x0 s) := by
  unfold execLostMsg; repeat' (first | with_reducible assumption | (simp [*]; done) | split | dsimp only)

@[simp] theorem execPoisonMsg_wf (x0 : CohMsg) (s : State) (h : Memory.wf s.mem = true) : OutWf (execPoisonMsg x0 s) := by
  unfold execPoisonMsg; split <;> simp [h]

@[simp] theorem State.dropCopies_wf (s : State) (x1 : BitVec 6) (x2 : BitVec 52) (h : Memory.wf s.mem = true) : Memory.wf
    (State.dropCopies s x1 x2).mem = true := by
  unfold State.dropCopies
  repeat' (first | with_reducible assumption | (simp [*, foldl_wf, foldl_mem]; done) |
    (with_reducible refine foldl_wf _ _ _ (fun s a h => ?_) ?_) | split | dsimp only)

@[simp] theorem State.dropPool_wf (s : State) (x1 : BitVec 6) (x2 : BitVec 5) (x3 : BitVec 52) (h : Memory.wf s.mem = true) :
    Memory.wf (State.dropPool s x1 x2 x3).mem = true := by
  unfold State.dropPool
  exact foldl_wf _ _ _ (fun u c hu => by simpa using hu) h

@[simp] theorem State.reuseDir_wf (s : State) (x1 : BitVec 52) (h : Memory.wf s.mem = true) : Memory.wf (State.reuseDir s
    x1).mem = true := by
  unfold State.reuseDir; repeat' (first | with_reducible assumption | (simp [*]; done) | split | dsimp only)

@[simp] theorem State.reuseFilter_wf (s : State) (d : BitVec 6) (r : BitVec 52) (h : Memory.wf s.mem = true) :
    Memory.wf (s.reuseFilter d r).mem = true := by
  unfold State.reuseFilter
  dsimp only
  split
  · rw [State.trimDie_mem]
    refine foldl_wf _ _ _ (fun u l hu => ?_) h
    refine State.dropCopies_wf _ _ _ ?_
    rw [foldl_mem]
    · exact State.probeStashOn_wf _ _ _ hu
    · intro v c; simp
  · exact h

-- Machine/Boundary.lean.

@[simp] theorem State.givePage_wf (s : State) (x1 : BitVec 36) (h : Memory.wf s.mem = true) : Memory.wf (State.givePage s
    x1).mem = true := by
  unfold State.givePage
  repeat' (first | with_reducible assumption |
    (simp [*, foldl_wf, foldl_mem, Memory.set_wf, Memory.setMany_wf, Memory.writeNat_wf, Memory.write64_wf, Memory.filter_wf, Memory.wf_nil]; done) |
    (with_reducible refine foldl_wf _ _ _ (fun s a h => ?_) ?_) | split | dsimp only)

@[simp] theorem State.hostMapped_wf (s s' : State) (pa : BitVec 52) (h : Memory.wf s.mem = true) (h' : Memory.wf s'.mem = true) :
    Memory.wf (s.hostMapped s' pa).mem = true := by
  unfold State.hostMapped
  dsimp only
  split
  · simpa using h
  · exact foldl_wf _ _ _ (fun u p hu => State.givePage_wf _ _ hu) h'

@[simp] theorem State.consumedOutside_mem (s : State) (x1 : ℕ) (x2 : BitVec 7) (x3 : BitVec 52) : (State.consumedOutside s x1 x2
    x3).mem = s.mem := by
  unfold State.consumedOutside; exact State.machineCheck_mem _ _ _ _ _

@[simp] theorem execHostMemAccess_wf (pa : BitVec 52) (w : Bool) (n : BitVec 7) (b : BitVec 512) (s : State) (h : Memory.wf s.mem = true) :
    OutWf (execHostMemAccess pa w n b s) := by
  unfold execHostMemAccess
  extract_lets k m inRange l e q ask u p v
  have hu : Memory.wf u.mem = true := by rw [State.takeTurn_mem]; exact h
  have hv : Memory.wf v.mem = true := State.atHome_wf _ _ _ _ _ _ hu
  clear_value v u
  split
  · exact (OutWf_fault _).2 trivial
  · split
    · exact (OutWf_next _).2 h
    · split
      · exact (OutWf_next _).2 (by rw [State.send_mem, State.queueUp_mem]; exact h)
      · split
        · exact (OutWf_next _).2 (by rw [State.consumedOutside_mem, State.mail_mem]; exact hu)
        · split
          · exact (OutWf_next _).2 (State.hostMapped_wf _ _ _ hu (by rw [State.clearMarks_mem]; exact Memory.setMany_wf _ hv))
          · exact (OutWf_next _).2 (by rw [State.mail_mem]; exact hv)

@[simp] theorem State.wakeReader_mem (s : State) (x1 : BitVec 8) : (State.wakeReader s x1).mem = s.mem := by
  unfold State.wakeReader; simp [foldl_mem, apply_ite State.mem]

@[simp] theorem execQueueTableWrite_wf (x0 : BitVec 8) (x1 : BitVec 1) (x2 : BitVec 64) (s : State) (h : Memory.wf s.mem =
    true) : OutWf (execQueueTableWrite x0 x1 x2 s) := by
  unfold execQueueTableWrite; simp [h]

@[simp] theorem execCounterEntryWrite_wf (x0 : BitVec 12) (x1 : BitVec 2) (x2 : BitVec 64) (s : State) (h : Memory.wf s.mem
    = true) : OutWf (execCounterEntryWrite x0 x1 x2 s) := by
  unfold execCounterEntryWrite; simp [h]

@[simp] theorem execBelltabWrite_wf (x0 : BitVec 3) (x1 : BitVec 8) (x2 : BitVec 16) (s : State) (h : Memory.wf s.mem =
    true) : OutWf (execBelltabWrite x0 x1 x2 s) := by
  unfold execBelltabWrite; simp [h]

@[simp] theorem execConfluenceTableWrite_wf (x0 : BitVec 8) (x1 : BitVec 16) (s : State) (h : Memory.wf s.mem = true) :
    OutWf (execConfluenceTableWrite x0 x1 s) := by
  unfold execConfluenceTableWrite; simp [h]

@[simp] theorem execPerfSelectWrite_wf (x0 : BitVec 6) (x1 : BitVec 16) (x2 : BitVec 64) (s : State) (h : Memory.wf s.mem =
    true) : OutWf (execPerfSelectWrite x0 x1 x2 s) := by
  unfold execPerfSelectWrite; repeat' (first | with_reducible assumption | (simp [*]; done) | split | dsimp only)

@[simp] theorem State.hostRegWrite_wf (s : State) (x1 x2 x3 : ℕ) (h : Memory.wf s.mem = true) : Memory.wf
    (State.hostRegWrite s x1 x2 x3).mem = true := by
  unfold State.hostRegWrite; repeat' (first | with_reducible assumption | (simp [*]; done) | split | dsimp only)

@[simp] theorem execHostRegisterWrite_wf (x0 : BarReg) (x2 : BitVec 4) (x3 : BitVec 64) (s : State) (h :
    Memory.wf s.mem = true) : OutWf (execHostRegisterWrite x0 x2 x3 s) := by
  unfold execHostRegisterWrite; repeat' (first | with_reducible assumption | (simp [*]; done) | split | dsimp only)

@[simp] theorem State.hostRead_mem (s : State) (x1 : BarReg) (x3 : BitVec 4) : (State.hostRead s x1
    x3).mem = s.mem := by
  unfold State.hostRead; simp [foldl_mem, apply_ite State.mem]

@[simp] theorem execFabricWrite_wf (x0 : BitVec 12) (x1 : BitVec 48) (x2 : BitVec 9) (x3 : BitVec 2048)
    (x4 : FlitMarks) (s : State) (h : Memory.wf s.mem = true) : OutWf (execFabricWrite x0 x1 x2 x3 x4 s) := by
  unfold execFabricWrite
  extract_lets n answer
  have ha (u : State) (r : Bool) (hu : Memory.wf u.mem = true) : OutWf (answer u r) := (OutWf_next _).2 hu
  clear_value answer
  split
  · exact (OutWf_next _).2 h
  · split
    · exact ha _ _ h
    · extract_lets e ag ps part kept
      split
      · exact ha _ _ h
      · split
        · exact (OutWf_next _).2 (by rw [State.send_mem, State.rouseEng_mem]; exact h)
        · split
          · exact ha _ _ h
          · split
            · exact (OutWf_next _).2 (by rw [State.send_mem, State.rouseEng_mem]; exact h)
            · split
              · exact ha _ _ (by rw [State.consumedOutside_mem]; exact h)
              · exact ha _ _ (State.engWrite_wf _ _ _ h)

@[simp] theorem State.cleared_wf (s : State) (x1 : ℕ → Bool) (x2 : ℕ) (h : Memory.wf s.mem = true) : Memory.wf
    (State.cleared s x1 x2).mem = true := by
  unfold State.cleared
  simp [h, foldl_wf, foldl_mem, Memory.set_wf, Memory.setMany_wf, Memory.writeNat_wf, Memory.write64_wf, Memory.filter_wf, Memory.wf_nil]

@[simp] theorem State.startFailed_mem (s : State) : (State.startFailed s).mem = s.mem := by
  rfl

@[simp] theorem State.startRun_mem (s : State) (x1 : StartRun) (x2 : Bool) : (State.startRun s x1 x2).mem = s.mem := by
  unfold State.startRun; simp [foldl_mem, apply_ite State.mem]

@[simp] theorem execColdStart_wf (x0 : StartRun) (s : State) (h : Memory.wf s.mem = true) : OutWf (execColdStart x0 s) := by
  unfold execColdStart; repeat' (first | with_reducible assumption | (simp [*]; done) | split | dsimp only)

@[simp] theorem execWarmStart_wf (x0 : StartRun) (s : State) (h : Memory.wf s.mem = true) : OutWf (execWarmStart x0 s) := by
  unfold execWarmStart; repeat' (first | with_reducible assumption | (simp [*]; done) | split | dsimp only)

@[simp] theorem execBootTimeout_wf (s : State) (h : Memory.wf s.mem = true) : OutWf (execBootTimeout s) := by
  unfold execBootTimeout; repeat' (first | with_reducible assumption | (simp [*]; done) | split | dsimp only)

@[simp] theorem execRecoveryImageLoad_wf (x0 x1 : Signature) (s : State) (h : Memory.wf s.mem = true) : OutWf
    (execRecoveryImageLoad x0 x1 s) := by
  unfold execRecoveryImageLoad; repeat' (first | with_reducible assumption | (simp [*]; done) | split | dsimp only)

@[simp] theorem State.spdm_wf (s : State) (x1 : SpdmReply) (h : Memory.wf s.mem = true) : OutWf (State.spdm s x1) := by
  unfold State.spdm; repeat' (first | with_reducible assumption | (simp [*]; done) | split | dsimp only)

@[simp] theorem execGetVersion_wf (s : State) (h : Memory.wf s.mem = true) : OutWf (execGetVersion s) := by
  unfold execGetVersion; simp [h]

@[simp] theorem execGetCapabilities_wf (s : State) (h : Memory.wf s.mem = true) : OutWf (execGetCapabilities s) := by
  unfold execGetCapabilities; simp [h]

@[simp] theorem execNegotiateAlgorithms_wf (x0 x1 : Bool) (s : State) (h : Memory.wf s.mem = true) : OutWf
    (execNegotiateAlgorithms x0 x1 s) := by
  unfold execNegotiateAlgorithms; repeat' (first | with_reducible assumption | (simp [*]; done) | split | dsimp only)

@[simp] theorem execGetDigests_wf (s : State) (h : Memory.wf s.mem = true) : OutWf (execGetDigests s) := by
  unfold execGetDigests; simp [h]

@[simp] theorem execGetCertificate_wf (x0 x1 : BitVec 16) (s : State) (h : Memory.wf s.mem = true) : OutWf
    (execGetCertificate x0 x1 s) := by
  unfold execGetCertificate; simp [h]

@[simp] theorem execSpdmChallenge_wf (x0 : BitVec 256) (s : State) (h : Memory.wf s.mem = true) : OutWf (execSpdmChallenge
    x0 s) := by
  unfold execSpdmChallenge; simp [h]

@[simp] theorem execGetMeasurements_wf (x0 : BitVec 8) (s : State) (h : Memory.wf s.mem = true) : OutWf (execGetMeasurements
    x0 s) := by
  unfold execGetMeasurements; repeat' (first | with_reducible assumption | (simp [*]; done) | split | dsimp only)

@[simp] theorem execPowerCapSet_wf (x0 : CapTarget) (x1 : BitVec 16) (s : State) (h : Memory.wf s.mem = true) : OutWf
    (execPowerCapSet x0 x1 s) := by
  unfold execPowerCapSet; repeat' (first | with_reducible assumption | (simp [*]; done) | split | dsimp only)

@[simp] theorem execPowerCapEnforcement_wf (x0 : BitVec 3) (s : State) (h : Memory.wf s.mem = true) : OutWf
    (execPowerCapEnforcement x0 s) := by
  unfold execPowerCapEnforcement; repeat' (first | with_reducible assumption | (simp [*]; done) | split | dsimp only)

@[simp] theorem execThermalThrottle_wf (x0 : BitVec 6) (x1 : BitVec 10) (s : State) (h : Memory.wf s.mem = true) : OutWf
    (execThermalThrottle x0 x1 s) := by
  unfold execThermalThrottle; repeat' (first | with_reducible assumption | (simp [*]; done) | split | dsimp only)

@[simp] theorem execThermalShutdown_wf (x0 : BitVec 6) (x1 : BitVec 10) (s : State) (h : Memory.wf s.mem = true) : OutWf
    (execThermalShutdown x0 x1 s) := by
  unfold execThermalShutdown; repeat' (first | with_reducible assumption | (simp [*]; done) | split | dsimp only)

@[simp] theorem State.emptyDie_wf (s : State) (x1 : BitVec 6) (h : Memory.wf s.mem = true) : Memory.wf (State.emptyDie s
    x1).mem = true := by
  unfold State.emptyDie
  repeat' (first | with_reducible assumption | (simp [*, foldl_wf, foldl_mem]; done) |
    (with_reducible refine foldl_wf _ _ _ (fun s a h => ?_) ?_) | split | dsimp only)

@[simp] theorem State.emptyHome_wf (s : State) (x1 : BitVec 6) (h : Memory.wf s.mem = true) : Memory.wf (State.emptyHome s
    x1).mem = true := by
  unfold State.emptyHome
  repeat' (first | with_reducible assumption | (simp [*, foldl_wf, foldl_mem]; done) |
    (with_reducible refine foldl_wf _ _ _ (fun s a h => ?_) ?_) | split | dsimp only)

@[simp] theorem State.dropMirror_wf (s : State) (x1 : BitVec 6) (h : Memory.wf s.mem = true) : Memory.wf (State.dropMirror s
    x1).mem = true := by
  unfold State.dropMirror
  simp [h, foldl_wf, foldl_mem, Memory.set_wf, Memory.setMany_wf, Memory.writeNat_wf, Memory.write64_wf, Memory.filter_wf, Memory.wf_nil]

@[simp] theorem execLayerSleep_wf (d : BitVec 6) (s : State) (h : Memory.wf s.mem = true) : OutWf (execLayerSleep d s) := by
  unfold execLayerSleep
  dsimp only
  split
  · exact (OutWf_next _).2 h
  · split
    · refine (OutWf_next _).2 ?_
      rw [foldl_mem]
      · exact h
      · intro u x; exact State.rouse_mem _ _
    · exact (OutWf_next _).2 (State.dropMirror_wf _ _ (State.emptyHome_wf _ _ (State.emptyDie_wf _ _ h)))

@[simp] theorem execLayerWake_wf (x0 : BitVec 6) (s : State) (h : Memory.wf s.mem = true) : OutWf (execLayerWake x0 s) := by
  unfold execLayerWake; repeat' (first | with_reducible assumption | (simp [*]; done) | split | dsimp only)

@[simp] theorem State.softError_mem (s : State) (x1 : BitVec 16) (x2 : BitVec 2) : (State.softError s x1 x2).mem = s.mem :=
    by
  rfl

@[simp] theorem execSoftErrorCorrected_wf (x0 : ErrorSite) (s : State) (h : Memory.wf s.mem = true) : OutWf
    (execSoftErrorCorrected x0 s) := by
  unfold execSoftErrorCorrected; simp [h]

@[simp] theorem State.loseLine_wf (s : State) (d : BitVec 6) (p : BitVec 5) (l : BitVec 52) (h : Memory.wf s.mem = true) :
    Memory.wf (s.loseLine d p l).mem = true := by
  unfold State.loseLine
  split
  · split
    · rw [State.dropDie_mem, State.unrecord_mem]; exact h
    · rw [State.send_mem, State.dropDie_mem, State.unrecord_mem]; exact h
  · rw [State.send_mem, State.unrecord_mem]
    exact foldl_wf _ _ _ (fun u r hu => State.zeroBytes_wf _ _ _ (by rw [State.dropStashLine_mem]; exact hu)) h

@[simp] theorem State.losePool_wf (s : State) (x1 : BitVec 6) (x2 : BitVec 5) (h : Memory.wf s.mem = true) : Memory.wf
    (State.losePool s x1 x2).mem = true := by
  unfold State.losePool
  repeat' (first | with_reducible assumption | (simp [*, foldl_wf, foldl_mem]; done) |
    (with_reducible refine foldl_wf _ _ _ (fun s a h => ?_) ?_) | split | dsimp only)

@[simp] theorem State.refetch_mem (s : State) (x1 : BitVec 6) (x2 : BitVec 5) (x3 : BitVec 52) : (State.refetch s x1 x2 x3).mem
    = s.mem := by
  unfold State.refetch; dsimp only; split <;> rfl

@[simp] theorem execUncorrectableError_wf (x0 : ErrorSite) (s : State) (h : Memory.wf s.mem = true) : OutWf
    (execUncorrectableError x0 s) := by
  unfold execUncorrectableError; repeat' (first | with_reducible assumption | (simp [*]; done) | split | dsimp only)

@[simp] theorem execFlitRetry_wf (x0 : BitVec 7) (s : State) (h : Memory.wf s.mem = true) : OutWf (execFlitRetry x0 s) := by
  unfold execFlitRetry; simp [h]

@[simp] theorem execLinkUncorrectableError_wf (x0 : BitVec 8) (s : State) (h : Memory.wf s.mem = true) : OutWf
    (execLinkUncorrectableError x0 s) := by
  unfold execLinkUncorrectableError; simp [h]

-- Machine/Issue.lean.

@[simp] theorem State.askDyica_mem (s : State) (x1 : PldmItem) : (State.askDyica s x1).mem = s.mem := rfl

@[simp] theorem State.measurePower_mem (s : State) (x1 : BitVec 3) (x2 : BitVec 16) : (State.measurePower s x1 x2).mem = s.mem :=
  rfl

@[simp] theorem State.perfBack_mem (s : State) (x1 : BitVec 17) (x2 : ℕ) : (State.perfBack s x1 x2).mem = s.mem := rfl

@[simp] theorem State.perfRetired_mem (s u : State) : (s.perfRetired u).mem = u.mem := by
  unfold State.perfRetired
  split
  · rfl
  · refine foldl_mem _ _ _ (fun v t => ?_)
    split
    · extract_lets n
      repeat' split
      all_goals first | rfl | exact State.perfCore_mem _ _ _ _ | exact State.perfBack_mem _ _ _
    · split
      · exact State.perfCore_mem _ _ _ _
      · rfl

@[simp] theorem State.after_mem (s u : State) : (s.after u).mem = u.mem := by
  unfold State.after; simp

@[simp] theorem State.perfShipped_mem (s u : State) : (s.perfShipped u).mem = u.mem := by
  unfold State.perfShipped
  split
  · rfl
  · exact State.perfCore_mem _ _ _ _

theorem State.counted_wf (s : State) (o : Out) (h : OutWf o) : OutWf (s.counted o) := by
  cases o with
  | next u => exact (OutWf_next _).2 (by rw [State.after_mem]; exact (OutWf_next _).1 h)
  | fault f => exact h
  | refused r => exact h

@[simp] theorem State.observeReads_mem (s : State) (x1 : BitVec 32) : (State.observeReads s x1).mem = s.mem := by
  unfold State.observeReads; simp [foldl_mem, apply_ite State.mem]

@[simp] theorem State.rotate_mem (s : State) : (State.rotate s).mem = s.mem := by
  unfold State.rotate; repeat' split
  all_goals first | rfl | simp [foldl_mem, apply_ite State.mem]

@[simp] theorem State.drained_wf (s : State) (x1 : BitVec 17) (x2 : ℕ) (h : Memory.wf s.mem = true) : Memory.wf
    (State.drained s x1 x2).mem = true := by
  unfold State.drained; rw [State.after_mem]; exact State.drain_wf _ _ _ h

@[simp] theorem State.park_mem (s : State) (x1 : BitVec 32) : (State.park s x1).mem = s.mem := rfl

@[simp] theorem State.fetchQueue_mem (s : State) (x1 : Thread) : (State.fetchQueue s x1).mem = s.mem := by
  unfold State.fetchQueue; split
  · exact State.queueUp_mem _ _ _ _
  · rfl

@[simp] theorem State.fetched_mem (s : State) (x1 : Thread) : (State.fetched s x1).mem = s.mem := by
  unfold State.fetched; exact State.takeTurn_mem _ _ _

@[simp] theorem State.performed_wf (s : State) (h : Memory.wf s.mem = true) : Memory.wf (State.performed s).mem = true := by
  unfold State.performed; repeat' (first | with_reducible assumption | (simp [*]; done) | split | dsimp only)

@[simp] theorem State.select_mem (s : State) (x1 : BitVec 17) : (State.select s x1).mem = s.mem := by
  unfold State.select; dsimp only; repeat' split
  all_goals first | rfl | simp [foldl_mem, apply_ite State.mem]

@[simp] theorem State.perfTick_wf (s : State) (x1 : ℕ) (h : Memory.wf s.mem = true) : Memory.wf (State.perfTick s x1).mem =
    true := by
  unfold State.perfTick
  repeat' (first | with_reducible assumption | (simp [*, foldl_wf, foldl_mem]; done) |
    (with_reducible refine foldl_wf _ _ _ (fun s a h => ?_) ?_) | split | dsimp only)

@[simp] theorem State.fillIBlock_mem (s : State) (x1 : BitVec 6) (x2 : BitVec 5) (x3 : BitVec 52) : (State.fillIBlock s x1
    x2 x3).mem = s.mem := by
  unfold State.fillIBlock; simp [foldl_mem, apply_ite State.mem]

@[simp] theorem State.fillConst_mem (s : State) (x1 : BitVec 6) (x2 : BitVec 5) (x3 : BitVec 52) : (State.fillConst s x1 x2
    x3).mem = s.mem := by
  unfold State.fillConst; simp [foldl_mem, apply_ite State.mem]

@[simp] theorem State.dropTlb_mem (s : State) (x1 : TlbUnit) (x2 : BitVec 16) (x3 : BitVec 48) : (State.dropTlb s x1 x2
    x3).mem = s.mem := by
  rfl

@[simp] theorem State.fillTlb_mem (s : State) (x1 : TlbUnit) (x2 : BitVec 16) (x3 : BitVec 48) : (State.fillTlb s x1 x2
    x3).mem = s.mem := by
  unfold State.fillTlb; dsimp only; repeat' split
  all_goals first | rfl | simp [foldl_mem, apply_ite State.mem]

@[simp] theorem State.setLag_mem (s : State) (x1 : BitVec 17) (x2 : Bool) : (State.setLag s x1 x2).mem = s.mem := by
  unfold State.setLag; repeat' split
  all_goals first | rfl | simp [foldl_mem, apply_ite State.mem]

@[simp] theorem State.race_mem (s : State) (x1 : BitVec 52) (x2 : List (BitVec 2 × Racer)) : (State.race s x1 x2).mem = s.mem :=
  rfl

-- Machine/Step.lean.

@[simp] theorem State.placeWord_wf (s : State) (x1 x2 : ℕ) (h : Memory.wf s.mem = true) : Memory.wf (State.placeWord s x1
    x2).mem = true := by
  unfold State.placeWord
  simp [h, foldl_wf, foldl_mem, Memory.set_wf, Memory.setMany_wf, Memory.writeNat_wf, Memory.write64_wf, Memory.filter_wf, Memory.wf_nil]

@[simp] theorem State.bindByHand_wf (s : State) (h : Memory.wf s.mem = true) : Memory.wf (State.bindByHand s).mem = true :=
    by
  unfold State.bindByHand
  simp [h, foldl_wf, foldl_mem, Memory.set_wf, Memory.setMany_wf, Memory.writeNat_wf, Memory.write64_wf, Memory.filter_wf, Memory.wf_nil]

@[simp] theorem State.withFetchWord_wf (s : State) (x1 x2 : ℕ) (h : Memory.wf s.mem = true) : Memory.wf (State.withFetchWord
    s x1 x2).mem = true := by
  unfold State.withFetchWord; repeat' (first | with_reducible assumption | (simp [*]; done) | split | dsimp only)

end Sys2Proof.Machine
end

