-- ==== Sys2Proof/Laws/Decode.lean ====
section
/-! SUPPORT. The decoder: a field written is the field read, each major opcode's decoder, and what a word that the encoder made
needs to decode to its instruction. -/

namespace Sys2Proof

/-- A field that holds `x` reads as `x` (R5). -/
theorem fld_of_toNat {lo len n : Nat} (x : BitVec len) (h : n / 2 ^ lo % 2 ^ len = x.toNat) : fld n lo len = x := by
  unfold fld
  apply BitVec.eq_of_toNat_eq
  simpa using h

/-- A field's value (R5). -/
theorem fld_toNat (n lo len : Nat) : (fld n lo len).toNat = n / 2 ^ lo % 2 ^ len := by
  unfold fld; simp

/-- A word that decodes, whose instruction encodes to it and passes every check, is that instruction (R69). -/
theorem decodeWord_of_raw {n : Nat} {i : Instr} (hn : n < 2 ^ 32) (hr : decodeRaw n = .ok i) (he : encodeNat i = some n)
    (hc : i.check = none) : decodeWord (BitVec.ofNat 32 n) = .ok i := by
  have e : (BitVec.ofNat 32 n).toNat = n := by rw [BitVec.toNat_ofNat]; exact Nat.mod_eq_of_lt hn
  unfold decodeWord
  rw [e, hr]
  simp [he, hc]

/-- A word decodes only to an instruction that passes every check (R69). -/
theorem decodeWord_check {w : BitVec 32} {i : Instr} (h : decodeWord w = .ok i) : i.check = none := by
  unfold decodeWord at h
  split at h
  · cases h
  · split at h
    · split at h
      · cases h; assumption
      · cases h
    · cases h

/-- Two instructions with one word are one instruction, where one of them decodes from it. -/
theorem decodeWord_unique {w : BitVec 32} {i j : Instr} (h : decodeWord w = .ok i) (k : decodeWord w = .ok j) : i = j := by
  rw [h] at k; cases k; rfl

theorem decodeRaw_01 {n : Nat} (h : n / 2 ^ 26 = 1) : decodeRaw n = decodeMajor01 n := by unfold decodeRaw; rw [h]; rfl
theorem decodeRaw_02 {n : Nat} (h : n / 2 ^ 26 = 2) : decodeRaw n = decodeMajor02 n := by unfold decodeRaw; rw [h]; rfl
theorem decodeRaw_03 {n : Nat} (h : n / 2 ^ 26 = 3) : decodeRaw n = decodeMajor03 n := by unfold decodeRaw; rw [h]; rfl
theorem decodeRaw_04 {n : Nat} (h : n / 2 ^ 26 = 4) : decodeRaw n = decodeMajor04 n := by unfold decodeRaw; rw [h]; rfl
theorem decodeRaw_05 {n : Nat} (h : n / 2 ^ 26 = 5) : decodeRaw n = decodeMajor05 n := by unfold decodeRaw; rw [h]; rfl
theorem decodeRaw_06 {n : Nat} (h : n / 2 ^ 26 = 6) : decodeRaw n = decodeMajor06 n := by unfold decodeRaw; rw [h]; rfl
theorem decodeRaw_07 {n : Nat} (h : n / 2 ^ 26 = 7) : decodeRaw n = decodeMajor07 n := by unfold decodeRaw; rw [h]; rfl
theorem decodeRaw_08 {n : Nat} (h : n / 2 ^ 26 = 8) : decodeRaw n = decodeMajor08 n := by unfold decodeRaw; rw [h]; rfl
theorem decodeRaw_09 {n : Nat} (h : n / 2 ^ 26 = 9) : decodeRaw n = decodeMajor09 n := by unfold decodeRaw; rw [h]; rfl
theorem decodeRaw_0A {n : Nat} (h : n / 2 ^ 26 = 10) : decodeRaw n = decodeMajor0A n := by unfold decodeRaw; rw [h]; rfl
theorem decodeRaw_0B {n : Nat} (h : n / 2 ^ 26 = 11) : decodeRaw n = decodeMajor0B n := by unfold decodeRaw; rw [h]; rfl
theorem decodeRaw_0C {n : Nat} (h : n / 2 ^ 26 = 12) : decodeRaw n = decodeMajor0C n := by unfold decodeRaw; rw [h]; rfl
theorem decodeRaw_0D {n : Nat} (h : n / 2 ^ 26 = 13) : decodeRaw n = decodeMajor0D n := by unfold decodeRaw; rw [h]; rfl
theorem decodeRaw_0E {n : Nat} (h : n / 2 ^ 26 = 14) : decodeRaw n = decodeMajor0E n := by unfold decodeRaw; rw [h]; rfl
theorem decodeRaw_0F {n : Nat} (h : n / 2 ^ 26 = 15) : decodeRaw n = decodeMajor0F n := by unfold decodeRaw; rw [h]; rfl
theorem decodeRaw_10 {n : Nat} (h : n / 2 ^ 26 = 16) : decodeRaw n = decodeMajor10 n := by unfold decodeRaw; rw [h]; rfl
theorem decodeRaw_11 {n : Nat} (h : n / 2 ^ 26 = 17) : decodeRaw n = decodeMajor11 n := by unfold decodeRaw; rw [h]; rfl
theorem decodeRaw_12 {n : Nat} (h : n / 2 ^ 26 = 18) : decodeRaw n = decodeMajor12 n := by unfold decodeRaw; rw [h]; rfl
theorem decodeRaw_13 {n : Nat} (h : n / 2 ^ 26 = 19) : decodeRaw n = decodeMajor13 n := by unfold decodeRaw; rw [h]; rfl
theorem decodeRaw_14 {n : Nat} (h : n / 2 ^ 26 = 20) : decodeRaw n = decodeMajor14 n := by unfold decodeRaw; rw [h]; rfl
theorem decodeRaw_15 {n : Nat} (h : n / 2 ^ 26 = 21) : decodeRaw n = decodeMajor15 n := by unfold decodeRaw; rw [h]; rfl
theorem decodeRaw_16 {n : Nat} (h : n / 2 ^ 26 = 22) : decodeRaw n = decodeMajor16 n := by unfold decodeRaw; rw [h]; rfl
theorem decodeRaw_17 {n : Nat} (h : n / 2 ^ 26 = 23) : decodeRaw n = decodeMajor17 n := by unfold decodeRaw; rw [h]; rfl
theorem decodeRaw_18 {n : Nat} (h : n / 2 ^ 26 = 24) : decodeRaw n = decodeMajor18 n := by unfold decodeRaw; rw [h]; rfl
theorem decodeRaw_19 {n : Nat} (h : n / 2 ^ 26 = 25) : decodeRaw n = decodeMajor19 n := by unfold decodeRaw; rw [h]; rfl
theorem decodeRaw_1A {n : Nat} (h : n / 2 ^ 26 = 26) : decodeRaw n = decodeMajor1A n := by unfold decodeRaw; rw [h]; rfl
theorem decodeRaw_1B {n : Nat} (h : n / 2 ^ 26 = 27) : decodeRaw n = decodeMajor1B n := by unfold decodeRaw; rw [h]; rfl
theorem decodeRaw_1C {n : Nat} (h : n / 2 ^ 26 = 28) : decodeRaw n = decodeMajor1C n := by unfold decodeRaw; rw [h]; rfl
theorem decodeRaw_1D {n : Nat} (h : n / 2 ^ 26 = 29) : decodeRaw n = decodeMajor1D n := by unfold decodeRaw; rw [h]; rfl
theorem decodeRaw_1E {n : Nat} (h : n / 2 ^ 26 = 30) : decodeRaw n = decodeMajor1E n := by unfold decodeRaw; rw [h]; rfl
theorem decodeRaw_1F {n : Nat} (h : n / 2 ^ 26 = 31) : decodeRaw n = decodeMajor1F n := by unfold decodeRaw; rw [h]; rfl
theorem decodeRaw_20 {n : Nat} (h : n / 2 ^ 26 = 32) : decodeRaw n = decodeMajor20 n := by unfold decodeRaw; rw [h]; rfl
theorem decodeRaw_21 {n : Nat} (h : n / 2 ^ 26 = 33) : decodeRaw n = decodeMajor21 n := by unfold decodeRaw; rw [h]; rfl
theorem decodeRaw_22 {n : Nat} (h : n / 2 ^ 26 = 34) : decodeRaw n = decodeMajor22 n := by unfold decodeRaw; rw [h]; rfl
theorem decodeRaw_23 {n : Nat} (h : n / 2 ^ 26 = 35) : decodeRaw n = decodeMajor23 n := by unfold decodeRaw; rw [h]; rfl
theorem decodeRaw_24 {n : Nat} (h : n / 2 ^ 26 = 36) : decodeRaw n = decodeMajor24 n := by unfold decodeRaw; rw [h]; rfl
theorem decodeRaw_25 {n : Nat} (h : n / 2 ^ 26 = 37) : decodeRaw n = decodeMajor25 n := by unfold decodeRaw; rw [h]; rfl
theorem decodeRaw_26 {n : Nat} (h : n / 2 ^ 26 = 38) : decodeRaw n = decodeMajor26 n := by unfold decodeRaw; rw [h]; rfl
theorem decodeRaw_27 {n : Nat} (h : n / 2 ^ 26 = 39) : decodeRaw n = decodeMajor27 n := by unfold decodeRaw; rw [h]; rfl
theorem decodeRaw_28 {n : Nat} (h : n / 2 ^ 26 = 40) : decodeRaw n = decodeMajor28 n := by unfold decodeRaw; rw [h]; rfl
theorem decodeRaw_29 {n : Nat} (h : n / 2 ^ 26 = 41) : decodeRaw n = decodeMajor29 n := by unfold decodeRaw; rw [h]; rfl
theorem decodeRaw_2A {n : Nat} (h : n / 2 ^ 26 = 42) : decodeRaw n = decodeMajor2A n := by unfold decodeRaw; rw [h]; rfl
theorem decodeRaw_2B {n : Nat} (h : n / 2 ^ 26 = 43) : decodeRaw n = decodeMajor2B n := by unfold decodeRaw; rw [h]; rfl
theorem decodeRaw_2C {n : Nat} (h : n / 2 ^ 26 = 44) : decodeRaw n = decodeMajor2C n := by unfold decodeRaw; rw [h]; rfl
theorem decodeRaw_2D {n : Nat} (h : n / 2 ^ 26 = 45) : decodeRaw n = decodeMajor2D n := by unfold decodeRaw; rw [h]; rfl
theorem decodeRaw_2E {n : Nat} (h : n / 2 ^ 26 = 46) : decodeRaw n = decodeMajor2E n := by unfold decodeRaw; rw [h]; rfl
theorem decodeRaw_2F {n : Nat} (h : n / 2 ^ 26 = 47) : decodeRaw n = decodeMajor2F n := by unfold decodeRaw; rw [h]; rfl
theorem decodeRaw_30 {n : Nat} (h : n / 2 ^ 26 = 48) : decodeRaw n = decodeMajor30 n := by unfold decodeRaw; rw [h]; rfl
theorem decodeRaw_31 {n : Nat} (h : n / 2 ^ 26 = 49) : decodeRaw n = decodeMajor31 n := by unfold decodeRaw; rw [h]; rfl
theorem decodeRaw_32 {n : Nat} (h : n / 2 ^ 26 = 50) : decodeRaw n = decodeMajor32 n := by unfold decodeRaw; rw [h]; rfl
theorem decodeRaw_33 {n : Nat} (h : n / 2 ^ 26 = 51) : decodeRaw n = decodeMajor33 n := by unfold decodeRaw; rw [h]; rfl
theorem decodeRaw_34 {n : Nat} (h : n / 2 ^ 26 = 52) : decodeRaw n = decodeMajor34 n := by unfold decodeRaw; rw [h]; rfl
theorem decodeRaw_35 {n : Nat} (h : n / 2 ^ 26 = 53) : decodeRaw n = decodeMajor35 n := by unfold decodeRaw; rw [h]; rfl
theorem decodeRaw_36 {n : Nat} (h : n / 2 ^ 26 = 54) : decodeRaw n = decodeMajor36 n := by unfold decodeRaw; rw [h]; rfl
theorem decodeRaw_37 {n : Nat} (h : n / 2 ^ 26 = 55) : decodeRaw n = decodeMajor37 n := by unfold decodeRaw; rw [h]; rfl
theorem decodeRaw_3F {n : Nat} (h : n / 2 ^ 26 = 63) : decodeRaw n = decodeMajor3F n := by unfold decodeRaw; rw [h]; rfl

end Sys2Proof
end

