-- ==== Sys2Proof/Laws/Exec.lean ====
section
/-! SUPPORT. What `exec` is of each constructor: one equation each, so that no proof unfolds the whole match. -/

namespace Sys2Proof.Machine

theorem exec_realignTimeout (hwid : BitVec 17) (s : State) :
    exec (.realignTimeout hwid) s = execRealignTimeout hwid s := rfl

theorem exec_doorbellWrite (q : BitVec 8) (s : State) :
    exec (.doorbellWrite q) s = execDoorbellWrite q s := rfl

theorem exec_launchPacket (q : BitVec 8) (s : State) :
    exec (.launchPacket q) s = execLaunchPacket q s := rfl

theorem exec_phaseMark (q : BitVec 8) (s : State) :
    exec (.phaseMark q) s = execPhaseMark q s := rfl

theorem exec_successorRelease (asid : BitVec 16) (handle : BitVec 64) (doomed : Bool) (s : State) :
    exec (.successorRelease asid handle doomed) s = execSuccessorRelease asid handle doomed s := rfl

theorem exec_rollcallStatusWord (lrec : BitVec 16) (node : RollNode) (word : BitVec 64) (s : State) :
    exec (.rollcallStatusWord lrec node word) s = execRollcallStatusWord lrec node word s := rfl

theorem exec_hostCancel (cid : BitVec 12) (s : State) :
    exec (.hostCancel cid) s = execHostCancel cid s := rfl

theorem exec_sliceExpiry (lrec : BitVec 16) (gang : BitVec 24) (s : State) :
    exec (.sliceExpiry lrec gang) s = execSliceExpiry lrec gang s := rfl

theorem exec_taskStop (hwid : BitVec 17) (s : State) :
    exec (.taskStop hwid) s = execTaskStop hwid s := rfl

theorem exec_graceExpiry (lrec : BitVec 16) (gang : BitVec 24) (s : State) :
    exec (.graceExpiry lrec gang) s = execGraceExpiry lrec gang s := rfl

theorem exec_taskExitReport (hwid : BitVec 17) (s : State) :
    exec (.taskExitReport hwid) s = execTaskExitReport hwid s := rfl

theorem exec_layerSleep (die : BitVec 6) (s : State) :
    exec (.layerSleep die) s = execLayerSleep die s := rfl

theorem exec_layerWake (die : BitVec 6) (s : State) :
    exec (.layerWake die) s = execLayerWake die s := rfl

theorem exec_bindRecordWrite (die : BitVec 6) (slot : BitVec 11) (w0 : BitVec 64) (w1 : BitVec 64) (w2 : BitVec 64) (w3 : BitVec 64) (s : State) :
    exec (.bindRecordWrite die slot w0 w1 w2 w3) s = execBindRecordWrite die slot w0 w1 w2 w3 s := rfl

theorem exec_openLent (die : BitVec 6) (lent : BitVec 6) (lrec : BitVec 16) (s : State) :
    exec (.openLent die lent lrec) s = execOpenLent die lent lrec s := rfl

theorem exec_closeLent (die : BitVec 6) (lent : BitVec 6) (s : State) :
    exec (.closeLent die lent) s = execCloseLent die lent s := rfl

theorem exec_claim (die : BitVec 6) (lent : BitVec 6) (s : State) :
    exec (.claim die lent) s = execClaim die lent s := rfl

theorem exec_unclaim (die : BitVec 6) (lent : BitVec 6) (gang : BitVec 24) (s : State) :
    exec (.unclaim die lent gang) s = execUnclaim die lent gang s := rfl

theorem exec_leaseCmd (die : BitVec 6) (entry : BitVec 8) (w0 : BitVec 64) (w1 : BitVec 64) (w2 : BitVec 64) (s : State) :
    exec (.leaseCmd die entry w0 w1 w2) s = execLeaseCmd die entry w0 w1 w2 s := rfl

theorem exec_releaseCmd (die : BitVec 6) (entry : BitVec 8) (s : State) :
    exec (.releaseCmd die entry) s = execReleaseCmd die entry s := rfl

theorem exec_preemptCmd (die : BitVec 6) (lent : BitVec 6) (gang : BitVec 24) (s : State) :
    exec (.preemptCmd die lent gang) s = execPreemptCmd die lent gang s := rfl

theorem exec_bellpart (die : BitVec 6) (slot : BitVec 8) (part : BitVec 4) (s : State) :
    exec (.bellpart die slot part) s = execBellpart die slot part s := rfl

theorem exec_leaseWalkDone (die : BitVec 6) (entry : BitVec 8) (s : State) :
    exec (.leaseWalkDone die entry) s = execLeaseWalkDone die entry s := rfl

theorem exec_hostRangeMapped (die : BitVec 6) (entry : BitVec 8) (s : State) :
    exec (.hostRangeMapped die entry) s = execHostRangeMapped die entry s := rfl

theorem exec_hostLeaseRefuse (die : BitVec 6) (entry : BitVec 8) (s : State) :
    exec (.hostLeaseRefuse die entry) s = execHostLeaseRefuse die entry s := rfl

theorem exec_guestPacket (b : BitVec 9) (p : GuestPkt) (s : State) :
    exec (.guestPacket b p) s = execGuestPacket b p s := rfl

theorem exec_guestIssue (b : BitVec 9) (s : State) :
    exec (.guestIssue b) s = execGuestIssue b s := rfl

theorem exec_guestAgeing (b : BitVec 9) (s : State) :
    exec (.guestAgeing b) s = execGuestAgeing b s := rfl

theorem exec_resultPacket (r : ResultPkt) (s : State) :
    exec (.resultPacket r) s = execResultPacket r s := rfl

theorem exec_copyComplete (hwid : BitVec 17) (gen : OpId) (s : State) :
    exec (.copyComplete hwid gen) s = execCopyComplete hwid gen s := rfl

theorem exec_copyEventRecord (hwid : BitVec 17) (gen : OpId) (s : State) :
    exec (.copyEventRecord hwid gen) s = execCopyEventRecord hwid gen s := rfl

theorem exec_matrixCommandStart (b : BitVec 9) (s : State) :
    exec (.matrixCommandStart b) s = execMatrixCommandStart b s := rfl

theorem exec_mcqAgeing (b : BitVec 9) (s : State) :
    exec (.mcqAgeing b) s = execMcqAgeing b s := rfl

theorem exec_mcqOvertake (b : BitVec 9) (s : State) :
    exec (.mcqOvertake b) s = execMcqOvertake b s := rfl

theorem exec_mcqMigrate (b : BitVec 9) (target : BitVec 9) (s : State) :
    exec (.mcqMigrate b target) s = execMcqMigrate b target s := rfl

theorem exec_mmsSplitHalf (b : BitVec 9) (s : State) :
    exec (.mmsSplitHalf b) s = execMmsSplitHalf b s := rfl

theorem exec_mmsComplete (b : BitVec 9) (s : State) :
    exec (.mmsComplete b) s = execMmsComplete b s := rfl

theorem exec_channelReserve (lrec : BitVec 16) (ch : BitVec 2) (s : State) :
    exec (.channelReserve lrec ch) s = execChannelReserve lrec ch s := rfl

theorem exec_channelSlotFilled (lrec : BitVec 16) (ch : BitVec 2) (res : BitVec 32) (s : State) :
    exec (.channelSlotFilled lrec ch res) s = execChannelSlotFilled lrec ch res s := rfl

theorem exec_wdqRequest (hwid : BitVec 17) (gen : OpId) (s : State) :
    exec (.wdqRequest hwid gen) s = execWdqRequest hwid gen s := rfl

theorem exec_confluenceContribution (hwid : BitVec 17) (gen : OpId) (s : State) :
    exec (.confluenceContribution hwid gen) s = execConfluenceContribution hwid gen s := rfl

theorem exec_bellSlot (stack : BitVec 3) (s : State) :
    exec (.bellSlot stack) s = execBellSlot stack s := rfl

theorem exec_bellFrameBoundary (stack : BitVec 3) (s : State) :
    exec (.bellFrameBoundary stack) s = execBellFrameBoundary stack s := rfl

theorem exec_gets (m : CohMsg) (s : State) :
    exec (.gets m) s = execGets m s := rfl

theorem exec_geto (m : CohMsg) (full : Bool) (s : State) :
    exec (.geto m full) s = execGeto m full s := rfl

theorem exec_geti (m : CohMsg) (s : State) :
    exec (.geti m) s = execGeti m s := rfl

theorem exec_getu (m : CohMsg) (s : State) :
    exec (.getu m) s = execGetu m s := rfl

theorem exec_wrm (m : CohMsg) (mask : BitVec 64) (bytes : BitVec 512) (s : State) :
    exec (.wrm m mask bytes) s = execWrm m mask bytes s := rfl

theorem exec_amoh (m : CohMsg) (aop : BitVec 4) (wide : Bool) (off : BitVec 6) (v : BitVec 64) (cmp : BitVec 64) (s : State) :
    exec (.amoh m aop wide off v cmp) s = execAmoh m aop wide off v cmp s := rfl

theorem exec_puto (m : CohMsg) (data : Option (BitVec 512)) (s : State) :
    exec (.puto m data) s = execPuto m data s := rfl

theorem exec_putb (m : CohMsg) (mask : BitVec 64) (bytes : BitVec 512) (s : State) :
    exec (.putb m mask bytes) s = execPutb m mask bytes s := rfl

theorem exec_lostMsg (m : CohMsg) (s : State) :
    exec (.lostMsg m) s = execLostMsg m s := rfl

theorem exec_invMsg (m : CohMsg) (s : State) :
    exec (.invMsg m) s = execInvMsg m s := rfl

theorem exec_recallMsg (m : CohMsg) (s : State) :
    exec (.recallMsg m) s = execRecallMsg m s := rfl

theorem exec_downMsg (m : CohMsg) (s : State) :
    exec (.downMsg m) s = execDownMsg m s := rfl

theorem exec_ackMsg (m : CohMsg) (toHome : Bool) (isNone : Bool) (s : State) :
    exec (.ackMsg m toHome isNone) s = execAckMsg m toHome isNone s := rfl

theorem exec_dataMsg (m : CohMsg) (toHome : Bool) (isNone : Bool) (bytes : BitVec 512) (s : State) :
    exec (.dataMsg m toHome isNone bytes) s = execDataMsg m toHome isNone bytes s := rfl

theorem exec_poisonMsg (m : CohMsg) (s : State) :
    exec (.poisonMsg m) s = execPoisonMsg m s := rfl

theorem exec_appendArrival (hwid : BitVec 17) (gen : OpId) (s : State) :
    exec (.appendArrival hwid gen) s = execAppendArrival hwid gen s := rfl

theorem exec_appendWriteDone (page : BitVec 36) (off : BitVec 17) (s : State) :
    exec (.appendWriteDone page off) s = execAppendWriteDone page off s := rfl

theorem exec_sealArrival (hwid : BitVec 17) (gen : OpId) (s : State) :
    exec (.sealArrival hwid gen) s = execSealArrival hwid gen s := rfl

theorem exec_pageMigration (asid : BitVec 16) (va : BitVec 48) (frame : BitVec 52) (home : BitVec 6) (s : State) :
    exec (.pageMigration asid va frame home) s = execPageMigration asid va frame home s := rfl

theorem exec_redirect (page : BitVec 36) (s : State) :
    exec (.redirect page) s = execRedirect page s := rfl

theorem exec_hostFree (asid : BitVec 16) (va : BitVec 48) (s : State) :
    exec (.hostFree asid va) s = execHostFree asid va s := rfl

theorem exec_shootdownMessage (page : BitVec 36) (stack : BitVec 3) (s : State) :
    exec (.shootdownMessage page stack) s = execShootdownMessage page stack s := rfl

theorem exec_shootdownAck (page : BitVec 36) (die : BitVec 6) (s : State) :
    exec (.shootdownAck page die) s = execShootdownAck page die s := rfl

theorem exec_hostInvalidate (asid : BitVec 16) (va : BitVec 48) (len : BitVec 48) (s : State) :
    exec (.hostInvalidate asid va len) s = execHostInvalidate asid va len s := rfl

theorem exec_hostMemAccess (pa : BitVec 52) (write : Bool) (size : BitVec 7) (bytes : BitVec 512) (s : State) :
    exec (.hostMemAccess pa write size bytes) s = execHostMemAccess pa write size bytes s := rfl

theorem exec_hostSnoop (line : BitVec 52) (kind : SnoopKind) (s : State) :
    exec (.hostSnoop line kind) s = execHostSnoop line kind s := rfl

theorem exec_fabricWrite (srcModule : BitVec 12) (va : BitVec 48) (size : BitVec 9) (bytes : BitVec 2048) (marks : FlitMarks)
    (s : State) :
    exec (.fabricWrite srcModule va size bytes marks) s = execFabricWrite srcModule va size bytes marks s := rfl

theorem exec_fabricAck (hwid : BitVec 17) (gen : OpId) (refused : Bool) (s : State) :
    exec (.fabricAck hwid gen refused) s = execFabricAck hwid gen refused s := rfl

theorem exec_coldStart (r : StartRun) (s : State) :
    exec (.coldStart r) s = execColdStart r s := rfl

theorem exec_warmStart (r : StartRun) (s : State) :
    exec (.warmStart r) s = execWarmStart r s := rfl

theorem exec_bootTimeout (s : State) :
    exec (.bootTimeout) s = execBootTimeout s := rfl

theorem exec_recoveryImageLoad (rsa slh : Signature) (s : State) :
    exec (.recoveryImageLoad rsa slh) s = execRecoveryImageLoad rsa slh s := rfl

theorem exec_getVersion (s : State) :
    exec (.getVersion) s = execGetVersion s := rfl

theorem exec_getCapabilities (s : State) :
    exec (.getCapabilities) s = execGetCapabilities s := rfl

theorem exec_negotiateAlgorithms (rsapss3072 : Bool) (sha384 : Bool) (s : State) :
    exec (.negotiateAlgorithms rsapss3072 sha384) s = execNegotiateAlgorithms rsapss3072 sha384 s := rfl

theorem exec_getDigests (s : State) :
    exec (.getDigests) s = execGetDigests s := rfl

theorem exec_getCertificate (off : BitVec 16) (len : BitVec 16) (s : State) :
    exec (.getCertificate off len) s = execGetCertificate off len s := rfl

theorem exec_spdmChallenge (nonce : BitVec 256) (s : State) :
    exec (.spdmChallenge nonce) s = execSpdmChallenge nonce s := rfl

theorem exec_getMeasurements (index : BitVec 8) (s : State) :
    exec (.getMeasurements index) s = execGetMeasurements index s := rfl

theorem exec_powerCapSet (who : CapTarget) (watts : BitVec 16) (s : State) :
    exec (.powerCapSet who watts) s = execPowerCapSet who watts s := rfl

theorem exec_thermalThrottle (die : BitVec 6) (celsius : BitVec 10) (s : State) :
    exec (.thermalThrottle die celsius) s = execThermalThrottle die celsius s := rfl

theorem exec_thermalShutdown (die : BitVec 6) (celsius : BitVec 10) (s : State) :
    exec (.thermalShutdown die celsius) s = execThermalShutdown die celsius s := rfl

theorem exec_uncorrectableError (e : ErrorSite) (s : State) :
    exec (.uncorrectableError e) s = execUncorrectableError e s := rfl

theorem exec_firmwareMailboxSend (die : BitVec 6) (kind : BitVec 8) (msg : BitVec 512) (s : State) :
    exec (.firmwareMailboxSend die kind msg) s = execFirmwareMailboxSend die kind msg s := rfl

theorem exec_queueTableWrite (q : BitVec 8) (word : BitVec 1) (v : BitVec 64) (s : State) :
    exec (.queueTableWrite q word v) s = execQueueTableWrite q word v s := rfl

theorem exec_counterEntryWrite (cid : BitVec 12) (word : BitVec 2) (v : BitVec 64) (s : State) :
    exec (.counterEntryWrite cid word v) s = execCounterEntryWrite cid word v s := rfl

theorem exec_belltabWrite (stack : BitVec 3) (slot : BitVec 8) (v : BitVec 16) (s : State) :
    exec (.belltabWrite stack slot v) s = execBelltabWrite stack slot v s := rfl

theorem exec_confluenceTableWrite (index : BitVec 8) (v : BitVec 16) (s : State) :
    exec (.confluenceTableWrite index v) s = execConfluenceTableWrite index v s := rfl

theorem exec_perfSelectWrite (die : BitVec 6) (off : BitVec 16) (v : BitVec 64) (s : State) :
    exec (.perfSelectWrite die off v) s = execPerfSelectWrite die off v s := rfl

theorem exec_hostRegisterWrite (reg : BarReg) (size : BitVec 4) (v : BitVec 64) (s : State) :
    exec (.hostRegisterWrite reg size v) s = execHostRegisterWrite reg size v s := rfl

theorem exec_hostevRecordAccept (hwid : BitVec 17) (gen : OpId) (s : State) :
    exec (.hostevRecordAccept hwid gen) s = execHostevRecordAccept hwid gen s := rfl

theorem exec_softErrorCorrected (e : ErrorSite) (s : State) :
    exec (.softErrorCorrected e) s = execSoftErrorCorrected e s := rfl

theorem exec_flitRetry (port : BitVec 7) (s : State) :
    exec (.flitRetry port) s = execFlitRetry port s := rfl

theorem exec_linkUncorrectableError (link : BitVec 8) (s : State) :
    exec (.linkUncorrectableError link) s = execLinkUncorrectableError link s := rfl

theorem exec_powerCapEnforcement (stack : BitVec 3) (s : State) :
    exec (.powerCapEnforcement stack) s = execPowerCapEnforcement stack s := rfl

theorem exec_add (d : BitVec 6) (a : BitVec 6) (b : BitVec 6) (s : State) :
    exec (.add d a b) s = execAdd d a b s := rfl

theorem exec_sub (d : BitVec 6) (a : BitVec 6) (b : BitVec 6) (s : State) :
    exec (.sub d a b) s = execSub d a b s := rfl

theorem exec_and (d : BitVec 6) (a : BitVec 6) (b : BitVec 6) (s : State) :
    exec (.and d a b) s = execAnd d a b s := rfl

theorem exec_or (d : BitVec 6) (a : BitVec 6) (b : BitVec 6) (s : State) :
    exec (.or d a b) s = execOr d a b s := rfl

theorem exec_xor (d : BitVec 6) (a : BitVec 6) (b : BitVec 6) (s : State) :
    exec (.xor d a b) s = execXor d a b s := rfl

theorem exec_andn (d : BitVec 6) (a : BitVec 6) (b : BitVec 6) (s : State) :
    exec (.andn d a b) s = execAndn d a b s := rfl

theorem exec_orn (d : BitVec 6) (a : BitVec 6) (b : BitVec 6) (s : State) :
    exec (.orn d a b) s = execOrn d a b s := rfl

theorem exec_xnor (d : BitVec 6) (a : BitVec 6) (b : BitVec 6) (s : State) :
    exec (.xnor d a b) s = execXnor d a b s := rfl

theorem exec_shl (d : BitVec 6) (a : BitVec 6) (b : BitVec 6) (s : State) :
    exec (.shl d a b) s = execShl d a b s := rfl

theorem exec_shr (d : BitVec 6) (a : BitVec 6) (b : BitVec 6) (s : State) :
    exec (.shr d a b) s = execShr d a b s := rfl

theorem exec_sra (d : BitVec 6) (a : BitVec 6) (b : BitVec 6) (s : State) :
    exec (.sra d a b) s = execSra d a b s := rfl

theorem exec_rol (d : BitVec 6) (a : BitVec 6) (b : BitVec 6) (s : State) :
    exec (.rol d a b) s = execRol d a b s := rfl

theorem exec_ror (d : BitVec 6) (a : BitVec 6) (b : BitVec 6) (s : State) :
    exec (.ror d a b) s = execRor d a b s := rfl

theorem exec_min (d : BitVec 6) (a : BitVec 6) (b : BitVec 6) (s : State) :
    exec (.min d a b) s = execMin d a b s := rfl

theorem exec_max (d : BitVec 6) (a : BitVec 6) (b : BitVec 6) (s : State) :
    exec (.max d a b) s = execMax d a b s := rfl

theorem exec_minu (d : BitVec 6) (a : BitVec 6) (b : BitVec 6) (s : State) :
    exec (.minu d a b) s = execMinu d a b s := rfl

theorem exec_maxu (d : BitVec 6) (a : BitVec 6) (b : BitVec 6) (s : State) :
    exec (.maxu d a b) s = execMaxu d a b s := rfl

theorem exec_slt (d : BitVec 6) (a : BitVec 6) (b : BitVec 6) (s : State) :
    exec (.slt d a b) s = execSlt d a b s := rfl

theorem exec_sltu (d : BitVec 6) (a : BitVec 6) (b : BitVec 6) (s : State) :
    exec (.sltu d a b) s = execSltu d a b s := rfl

theorem exec_seq (d : BitVec 6) (a : BitVec 6) (b : BitVec 6) (s : State) :
    exec (.seq d a b) s = execSeq d a b s := rfl

theorem exec_sne (d : BitVec 6) (a : BitVec 6) (b : BitVec 6) (s : State) :
    exec (.sne d a b) s = execSne d a b s := rfl

theorem exec_mul (d : BitVec 6) (a : BitVec 6) (b : BitVec 6) (s : State) :
    exec (.mul d a b) s = execMul d a b s := rfl

theorem exec_mulh (d : BitVec 6) (a : BitVec 6) (b : BitVec 6) (s : State) :
    exec (.mulh d a b) s = execMulh d a b s := rfl

theorem exec_mulhu (d : BitVec 6) (a : BitVec 6) (b : BitVec 6) (s : State) :
    exec (.mulhu d a b) s = execMulhu d a b s := rfl

theorem exec_div (d : BitVec 6) (a : BitVec 6) (b : BitVec 6) (s : State) :
    exec (.div d a b) s = execDiv d a b s := rfl

theorem exec_divu (d : BitVec 6) (a : BitVec 6) (b : BitVec 6) (s : State) :
    exec (.divu d a b) s = execDivu d a b s := rfl

theorem exec_rem (d : BitVec 6) (a : BitVec 6) (b : BitVec 6) (s : State) :
    exec (.rem d a b) s = execRem d a b s := rfl

theorem exec_remu (d : BitVec 6) (a : BitVec 6) (b : BitVec 6) (s : State) :
    exec (.remu d a b) s = execRemu d a b s := rfl

theorem exec_clz (d : BitVec 6) (a : BitVec 6) (s : State) :
    exec (.clz d a) s = execClz d a s := rfl

theorem exec_ctz (d : BitVec 6) (a : BitVec 6) (s : State) :
    exec (.ctz d a) s = execCtz d a s := rfl

theorem exec_popc (d : BitVec 6) (a : BitVec 6) (s : State) :
    exec (.popc d a) s = execPopc d a s := rfl

theorem exec_brev (d : BitVec 6) (a : BitVec 6) (s : State) :
    exec (.brev d a) s = execBrev d a s := rfl

theorem exec_bswap (d : BitVec 6) (a : BitVec 6) (s : State) :
    exec (.bswap d a) s = execBswap d a s := rfl

theorem exec_sext (d : BitVec 6) (a : BitVec 6) (w : BitVec 6) (s : State) :
    exec (.sext d a w) s = execSext d a w s := rfl

theorem exec_zext (d : BitVec 6) (a : BitVec 6) (w : BitVec 6) (s : State) :
    exec (.zext d a w) s = execZext d a w s := rfl

theorem exec_addw (d : BitVec 6) (a : BitVec 6) (b : BitVec 6) (s : State) :
    exec (.addw d a b) s = execAddw d a b s := rfl

theorem exec_subw (d : BitVec 6) (a : BitVec 6) (b : BitVec 6) (s : State) :
    exec (.subw d a b) s = execSubw d a b s := rfl

theorem exec_mulw (d : BitVec 6) (a : BitVec 6) (b : BitVec 6) (s : State) :
    exec (.mulw d a b) s = execMulw d a b s := rfl

theorem exec_shlw (d : BitVec 6) (a : BitVec 6) (b : BitVec 6) (s : State) :
    exec (.shlw d a b) s = execShlw d a b s := rfl

theorem exec_shrw (d : BitVec 6) (a : BitVec 6) (b : BitVec 6) (s : State) :
    exec (.shrw d a b) s = execShrw d a b s := rfl

theorem exec_sraw (d : BitVec 6) (a : BitVec 6) (b : BitVec 6) (s : State) :
    exec (.sraw d a b) s = execSraw d a b s := rfl

theorem exec_mov (d : BitVec 6) (a : BitVec 6) (s : State) :
    exec (.mov d a) s = execMov d a s := rfl

theorem exec_addi (d : BitVec 6) (a : BitVec 6) (i : BitVec 14) (s : State) :
    exec (.addi d a i) s = execAddi d a i s := rfl

theorem exec_andi (d : BitVec 6) (a : BitVec 6) (i : BitVec 14) (s : State) :
    exec (.andi d a i) s = execAndi d a i s := rfl

theorem exec_ori (d : BitVec 6) (a : BitVec 6) (i : BitVec 14) (s : State) :
    exec (.ori d a i) s = execOri d a i s := rfl

theorem exec_xori (d : BitVec 6) (a : BitVec 6) (i : BitVec 14) (s : State) :
    exec (.xori d a i) s = execXori d a i s := rfl

theorem exec_shli (d : BitVec 6) (a : BitVec 6) (x : BitVec 6) (s : State) :
    exec (.shli d a x) s = execShli d a x s := rfl

theorem exec_shri (d : BitVec 6) (a : BitVec 6) (x : BitVec 6) (s : State) :
    exec (.shri d a x) s = execShri d a x s := rfl

theorem exec_srai (d : BitVec 6) (a : BitVec 6) (x : BitVec 6) (s : State) :
    exec (.srai d a x) s = execSrai d a x s := rfl

theorem exec_rori (d : BitVec 6) (a : BitVec 6) (x : BitVec 6) (s : State) :
    exec (.rori d a x) s = execRori d a x s := rfl

theorem exec_slti (d : BitVec 6) (a : BitVec 6) (i : BitVec 14) (s : State) :
    exec (.slti d a i) s = execSlti d a i s := rfl

theorem exec_sltiu (d : BitVec 6) (a : BitVec 6) (i : BitVec 14) (s : State) :
    exec (.sltiu d a i) s = execSltiu d a i s := rfl

theorem exec_lhi (d : BitVec 6) (i : BitVec 20) (s : State) :
    exec (.lhi d i) s = execLhi d i s := rfl

theorem exec_pchi (d : BitVec 6) (i : BitVec 20) (s : State) :
    exec (.pchi d i) s = execPchi d i s := rfl

theorem exec_beq (a : BitVec 6) (b : BitVec 6) (o : BitVec 11) (s : State) :
    exec (.beq a b o) s = execBeq a b o s := rfl

theorem exec_bne (a : BitVec 6) (b : BitVec 6) (o : BitVec 11) (s : State) :
    exec (.bne a b o) s = execBne a b o s := rfl

theorem exec_blt (a : BitVec 6) (b : BitVec 6) (o : BitVec 11) (s : State) :
    exec (.blt a b o) s = execBlt a b o s := rfl

theorem exec_bge (a : BitVec 6) (b : BitVec 6) (o : BitVec 11) (s : State) :
    exec (.bge a b o) s = execBge a b o s := rfl

theorem exec_bltu (a : BitVec 6) (b : BitVec 6) (o : BitVec 11) (s : State) :
    exec (.bltu a b o) s = execBltu a b o s := rfl

theorem exec_bgeu (a : BitVec 6) (b : BitVec 6) (o : BitVec 11) (s : State) :
    exec (.bgeu a b o) s = execBgeu a b o s := rfl

theorem exec_jal (d : BitVec 6) (o : BitVec 20) (s : State) :
    exec (.jal d o) s = execJal d o s := rfl

theorem exec_jalr (d : BitVec 6) (a : BitVec 6) (i : BitVec 14) (s : State) :
    exec (.jalr d a i) s = execJalr d a i s := rfl

theorem exec_loop (l : BitVec 6) (a : BitVec 6) (i : BitVec 14) (s : State) :
    exec (.loop l a i) s = execLoop l a i s := rfl

theorem exec_yield (a : BitVec 6) (s : State) :
    exec (.yield a) s = execYield a s := rfl

theorem exec_exitTask (s : State) :
    exec (.exitTask) s = execExitTask s := rfl

theorem exec_forkr (d : BitVec 6) (a : BitVec 6) (b : BitVec 6) (s : State) :
    exec (.forkr d a b) s = execForkr d a b s := rfl

theorem exec_trap (a : BitVec 6) (s : State) :
    exec (.trap a) s = execTrap a s := rfl

theorem exec_eret (s : State) :
    exec (.eret) s = execEret s := rfl

theorem exec_syscFree (d : BitVec 6) (a : BitVec 6) (s : State) :
    exec (.syscFree d a) s = execSyscFree d a s := rfl

theorem exec_syscHostev (d : BitVec 6) (a : BitVec 6) (s : State) :
    exec (.syscHostev d a) s = execSyscHostev d a s := rfl

theorem exec_brk (c : BitVec 6) (s : State) :
    exec (.brk c) s = execBrk c s := rfl

theorem exec_lbrk (s : State) :
    exec (.lbrk) s = execLbrk s := rfl

theorem exec_vrel (f : BitVec 1) (a : BitVec 6) (b : BitVec 6) (s : State) :
    exec (.vrel f a b) s = execVrel f a b s := rfl

theorem exec_fencei (s : State) :
    exec (.fencei) s = execFencei s := rfl

theorem exec_ldb (d : BitVec 6) (a : BitVec 6) (q : BitVec 2) (o : BitVec 2) (i : BitVec 10) (s : State) :
    exec (.ldb d a q o i) s = execLdb d a q o i s := rfl

theorem exec_ldh (d : BitVec 6) (a : BitVec 6) (q : BitVec 2) (o : BitVec 2) (i : BitVec 10) (s : State) :
    exec (.ldh d a q o i) s = execLdh d a q o i s := rfl

theorem exec_ldw (d : BitVec 6) (a : BitVec 6) (q : BitVec 2) (o : BitVec 2) (i : BitVec 10) (s : State) :
    exec (.ldw d a q o i) s = execLdw d a q o i s := rfl

theorem exec_ldd (d : BitVec 6) (a : BitVec 6) (q : BitVec 2) (o : BitVec 2) (i : BitVec 10) (s : State) :
    exec (.ldd d a q o i) s = execLdd d a q o i s := rfl

theorem exec_ldbu (d : BitVec 6) (a : BitVec 6) (q : BitVec 2) (o : BitVec 2) (i : BitVec 10) (s : State) :
    exec (.ldbu d a q o i) s = execLdbu d a q o i s := rfl

theorem exec_ldhu (d : BitVec 6) (a : BitVec 6) (q : BitVec 2) (o : BitVec 2) (i : BitVec 10) (s : State) :
    exec (.ldhu d a q o i) s = execLdhu d a q o i s := rfl

theorem exec_ldwu (d : BitVec 6) (a : BitVec 6) (q : BitVec 2) (o : BitVec 2) (i : BitVec 10) (s : State) :
    exec (.ldwu d a q o i) s = execLdwu d a q o i s := rfl

theorem exec_stb (b : BitVec 6) (a : BitVec 6) (q : BitVec 2) (o : BitVec 2) (i : BitVec 10) (s : State) :
    exec (.stb b a q o i) s = execStb b a q o i s := rfl

theorem exec_sth (b : BitVec 6) (a : BitVec 6) (q : BitVec 2) (o : BitVec 2) (i : BitVec 10) (s : State) :
    exec (.sth b a q o i) s = execSth b a q o i s := rfl

theorem exec_stw (b : BitVec 6) (a : BitVec 6) (q : BitVec 2) (o : BitVec 2) (i : BitVec 10) (s : State) :
    exec (.stw b a q o i) s = execStw b a q o i s := rfl

theorem exec_std (b : BitVec 6) (a : BitVec 6) (q : BitVec 2) (o : BitVec 2) (i : BitVec 10) (s : State) :
    exec (.std b a q o i) s = execStd b a q o i s := rfl

theorem exec_fld (d : BitVec 6) (a : BitVec 6) (f : BitVec 4) (q : BitVec 2) (i : BitVec 8) (s : State) :
    exec (.fld d a f q i) s = execFld d a f q i s := rfl

theorem exec_fst (b : BitVec 6) (a : BitVec 6) (f : BitVec 4) (m : BitVec 3) (i : BitVec 7) (s : State) :
    exec (.fst b a f m i) s = execFst b a f m i s := rfl

theorem exec_ldt (d : BitVec 6) (a : BitVec 6) (i : BitVec 14) (s : State) :
    exec (.ldt d a i) s = execLdt d a i s := rfl

theorem exec_stt (d : BitVec 6) (a : BitVec 6) (i : BitVec 14) (s : State) :
    exec (.stt d a i) s = execStt d a i s := rfl

theorem exec_vld (d : BitVec 6) (a : BitVec 6) (k : BitVec 2) (p : BitVec 1) (q : BitVec 2) (i : BitVec 9) (s : State) :
    exec (.vld d a k p q i) s = execVld d a k p q i s := rfl

theorem exec_vst (d : BitVec 6) (a : BitVec 6) (k : BitVec 2) (q : BitVec 2) (i : BitVec 9) (s : State) :
    exec (.vst d a k q i) s = execVst d a k q i s := rfl

theorem exec_vlds (d : BitVec 6) (a : BitVec 6) (b : BitVec 6) (k : BitVec 2) (p : BitVec 1) (q : BitVec 2) (s : State) :
    exec (.vlds d a b k p q) s = execVlds d a b k p q s := rfl

theorem exec_vgather (d : BitVec 6) (a : BitVec 6) (b : BitVec 6) (k : BitVec 2) (p : BitVec 1) (q : BitVec 2) (s : State) :
    exec (.vgather d a b k p q) s = execVgather d a b k p q s := rfl

theorem exec_vldt (d : BitVec 6) (a : BitVec 6) (q : BitVec 2) (s : State) :
    exec (.vldt d a q) s = execVldt d a q s := rfl

theorem exec_vsts (d : BitVec 6) (a : BitVec 6) (b : BitVec 6) (k : BitVec 2) (q : BitVec 2) (s : State) :
    exec (.vsts d a b k q) s = execVsts d a b k q s := rfl

theorem exec_vscatter (d : BitVec 6) (a : BitVec 6) (b : BitVec 6) (k : BitVec 2) (q : BitVec 2) (s : State) :
    exec (.vscatter d a b k q) s = execVscatter d a b k q s := rfl

theorem exec_vstt (d : BitVec 6) (a : BitVec 6) (q : BitVec 2) (s : State) :
    exec (.vstt d a q) s = execVstt d a q s := rfl

theorem exec_amoadd (d : BitVec 6) (a : BitVec 6) (b : BitVec 6) (w : BitVec 1) (x : BitVec 3) (s : State) :
    exec (.amoadd d a b w x) s = execAmoadd d a b w x s := rfl

theorem exec_amoand (d : BitVec 6) (a : BitVec 6) (b : BitVec 6) (w : BitVec 1) (x : BitVec 3) (s : State) :
    exec (.amoand d a b w x) s = execAmoand d a b w x s := rfl

theorem exec_amoor (d : BitVec 6) (a : BitVec 6) (b : BitVec 6) (w : BitVec 1) (x : BitVec 3) (s : State) :
    exec (.amoor d a b w x) s = execAmoor d a b w x s := rfl

theorem exec_amoxor (d : BitVec 6) (a : BitVec 6) (b : BitVec 6) (w : BitVec 1) (x : BitVec 3) (s : State) :
    exec (.amoxor d a b w x) s = execAmoxor d a b w x s := rfl

theorem exec_amomin (d : BitVec 6) (a : BitVec 6) (b : BitVec 6) (w : BitVec 1) (x : BitVec 3) (s : State) :
    exec (.amomin d a b w x) s = execAmomin d a b w x s := rfl

theorem exec_amomax (d : BitVec 6) (a : BitVec 6) (b : BitVec 6) (w : BitVec 1) (x : BitVec 3) (s : State) :
    exec (.amomax d a b w x) s = execAmomax d a b w x s := rfl

theorem exec_amominu (d : BitVec 6) (a : BitVec 6) (b : BitVec 6) (w : BitVec 1) (x : BitVec 3) (s : State) :
    exec (.amominu d a b w x) s = execAmominu d a b w x s := rfl

theorem exec_amomaxu (d : BitVec 6) (a : BitVec 6) (b : BitVec 6) (w : BitVec 1) (x : BitVec 3) (s : State) :
    exec (.amomaxu d a b w x) s = execAmomaxu d a b w x s := rfl

theorem exec_amoswap (d : BitVec 6) (a : BitVec 6) (b : BitVec 6) (w : BitVec 1) (x : BitVec 3) (s : State) :
    exec (.amoswap d a b w x) s = execAmoswap d a b w x s := rfl

theorem exec_amocas (d : BitVec 6) (a : BitVec 6) (b : BitVec 6) (w : BitVec 1) (x : BitVec 3) (s : State) :
    exec (.amocas d a b w x) s = execAmocas d a b w x s := rfl

theorem exec_cas2 (d : BitVec 6) (a : BitVec 6) (b : BitVec 6) (x : BitVec 3) (s : State) :
    exec (.cas2 d a b x) s = execCas2 d a b x s := rfl

theorem exec_swap2 (d : BitVec 6) (a : BitVec 6) (b : BitVec 6) (x : BitVec 3) (s : State) :
    exec (.swap2 d a b x) s = execSwap2 d a b x s := rfl

theorem exec_faddaF (d : BitVec 6) (a : BitVec 6) (b : BitVec 6) (x : BitVec 3) (s : State) :
    exec (.faddaF d a b x) s = execFaddaF d a b x s := rfl

theorem exec_faddaD (d : BitVec 6) (a : BitVec 6) (b : BitVec 6) (x : BitVec 3) (s : State) :
    exec (.faddaD d a b x) s = execFaddaD d a b x s := rfl

theorem exec_vamoadd (d : BitVec 6) (a : BitVec 6) (b : BitVec 6) (x : BitVec 3) (s : State) :
    exec (.vamoadd d a b x) s = execVamoadd d a b x s := rfl

theorem exec_appendW (d : BitVec 6) (a : BitVec 6) (b : BitVec 6) (s : State) :
    exec (.appendW d a b) s = execAppendW d a b s := rfl

theorem exec_appendD (d : BitVec 6) (a : BitVec 6) (b : BitVec 6) (s : State) :
    exec (.appendD d a b) s = execAppendD d a b s := rfl

theorem exec_appendv (d : BitVec 6) (a : BitVec 6) (b : BitVec 6) (s : State) :
    exec (.appendv d a b) s = execAppendv d a b s := rfl

theorem exec_sealPage (d : BitVec 6) (a : BitVec 6) (s : State) :
    exec (.sealPage d a) s = execSealPage d a s := rfl

theorem exec_tailq (d : BitVec 6) (a : BitVec 6) (s : State) :
    exec (.tailq d a) s = execTailq d a s := rfl

theorem exec_wbr (d : BitVec 6) (a : BitVec 6) (b : BitVec 6) (x : BitVec 3) (s : State) :
    exec (.wbr d a b x) s = execWbr d a b x s := rfl

theorem exec_invr (d : BitVec 6) (a : BitVec 6) (b : BitVec 6) (x : BitVec 3) (s : State) :
    exec (.invr d a b x) s = execInvr d a b x s := rfl

theorem exec_wbinvr (d : BitVec 6) (a : BitVec 6) (b : BitVec 6) (x : BitVec 3) (s : State) :
    exec (.wbinvr d a b x) s = execWbinvr d a b x s := rfl

theorem exec_pref (a : BitVec 6) (b : BitVec 6) (s : State) :
    exec (.pref a b) s = execPref a b s := rfl

theorem exec_stashmap (d : BitVec 6) (a : BitVec 6) (b : BitVec 6) (s : State) :
    exec (.stashmap d a b) s = execStashmap d a b s := rfl

theorem exec_stashflush (d : BitVec 6) (a : BitVec 6) (b : BitVec 6) (x : BitVec 3) (s : State) :
    exec (.stashflush d a b x) s = execStashflush d a b x s := rfl

theorem exec_linez (d : BitVec 6) (a : BitVec 6) (b : BitVec 6) (s : State) :
    exec (.linez d a b) s = execLinez d a b s := rfl

theorem exec_fence (x : BitVec 3) (s : State) :
    exec (.fence x) s = execFence x s := rfl

theorem exec_fencex (p : BitVec 3) (q : BitVec 3) (x : BitVec 3) (s : State) :
    exec (.fencex p q x) s = execFencex p q x s := rfl

theorem exec_acq (d : BitVec 6) (a : BitVec 6) (x : BitVec 3) (s : State) :
    exec (.acq d a x) s = execAcq d a x s := rfl

theorem exec_rel (a : BitVec 6) (b : BitVec 6) (x : BitVec 3) (s : State) :
    exec (.rel a b x) s = execRel a b x s := rfl

theorem exec_bindRegion (a : BitVec 6) (b : BitVec 6) (s : State) :
    exec (.bindRegion a b) s = execBindRegion a b s := rfl

theorem exec_unbindRegion (a : BitVec 6) (b : BitVec 6) (x : BitVec 3) (s : State) :
    exec (.unbindRegion a b x) s = execUnbindRegion a b x s := rfl

theorem exec_bst (a : BitVec 6) (b : BitVec 6) (s : State) :
    exec (.bst a b) s = execBst a b s := rfl

theorem exec_bamoAdd (d : BitVec 6) (a : BitVec 6) (b : BitVec 6) (s : State) :
    exec (.bamoAdd d a b) s = execBamoAdd d a b s := rfl

theorem exec_bamoMax (d : BitVec 6) (a : BitVec 6) (b : BitVec 6) (s : State) :
    exec (.bamoMax d a b) s = execBamoMax d a b s := rfl

theorem exec_bamoOr (d : BitVec 6) (a : BitVec 6) (b : BitVec 6) (s : State) :
    exec (.bamoOr d a b) s = execBamoOr d a b s := rfl

theorem exec_bamoSwap (d : BitVec 6) (a : BitVec 6) (b : BitVec 6) (s : State) :
    exec (.bamoSwap d a b) s = execBamoSwap d a b s := rfl

theorem exec_vadd (d : BitVec 6) (a : BitVec 6) (b : BitVec 6) (k : BitVec 2) (p : BitVec 1) (h : BitVec 1) (g : BitVec 1) (s : State) :
    exec (.vadd d a b k p h g) s = execVadd d a b k p h g s := rfl

theorem exec_vsub (d : BitVec 6) (a : BitVec 6) (b : BitVec 6) (k : BitVec 2) (p : BitVec 1) (h : BitVec 1) (g : BitVec 1) (s : State) :
    exec (.vsub d a b k p h g) s = execVsub d a b k p h g s := rfl

theorem exec_vmul (d : BitVec 6) (a : BitVec 6) (b : BitVec 6) (k : BitVec 2) (p : BitVec 1) (h : BitVec 1) (g : BitVec 1) (s : State) :
    exec (.vmul d a b k p h g) s = execVmul d a b k p h g s := rfl

theorem exec_vmulh (d : BitVec 6) (a : BitVec 6) (b : BitVec 6) (k : BitVec 2) (p : BitVec 1) (h : BitVec 1) (g : BitVec 1) (s : State) :
    exec (.vmulh d a b k p h g) s = execVmulh d a b k p h g s := rfl

theorem exec_vmin (d : BitVec 6) (a : BitVec 6) (b : BitVec 6) (k : BitVec 2) (p : BitVec 1) (h : BitVec 1) (g : BitVec 1) (s : State) :
    exec (.vmin d a b k p h g) s = execVmin d a b k p h g s := rfl

theorem exec_vmax (d : BitVec 6) (a : BitVec 6) (b : BitVec 6) (k : BitVec 2) (p : BitVec 1) (h : BitVec 1) (g : BitVec 1) (s : State) :
    exec (.vmax d a b k p h g) s = execVmax d a b k p h g s := rfl

theorem exec_vminu (d : BitVec 6) (a : BitVec 6) (b : BitVec 6) (k : BitVec 2) (p : BitVec 1) (h : BitVec 1) (g : BitVec 1) (s : State) :
    exec (.vminu d a b k p h g) s = execVminu d a b k p h g s := rfl

theorem exec_vmaxu (d : BitVec 6) (a : BitVec 6) (b : BitVec 6) (k : BitVec 2) (p : BitVec 1) (h : BitVec 1) (g : BitVec 1) (s : State) :
    exec (.vmaxu d a b k p h g) s = execVmaxu d a b k p h g s := rfl

theorem exec_vand (d : BitVec 6) (a : BitVec 6) (b : BitVec 6) (k : BitVec 2) (p : BitVec 1) (h : BitVec 1) (g : BitVec 1) (s : State) :
    exec (.vand d a b k p h g) s = execVand d a b k p h g s := rfl

theorem exec_vor (d : BitVec 6) (a : BitVec 6) (b : BitVec 6) (k : BitVec 2) (p : BitVec 1) (h : BitVec 1) (g : BitVec 1) (s : State) :
    exec (.vor d a b k p h g) s = execVor d a b k p h g s := rfl

theorem exec_vxor (d : BitVec 6) (a : BitVec 6) (b : BitVec 6) (k : BitVec 2) (p : BitVec 1) (h : BitVec 1) (g : BitVec 1) (s : State) :
    exec (.vxor d a b k p h g) s = execVxor d a b k p h g s := rfl

theorem exec_vandn (d : BitVec 6) (a : BitVec 6) (b : BitVec 6) (k : BitVec 2) (p : BitVec 1) (h : BitVec 1) (g : BitVec 1) (s : State) :
    exec (.vandn d a b k p h g) s = execVandn d a b k p h g s := rfl

theorem exec_vshl (d : BitVec 6) (a : BitVec 6) (b : BitVec 6) (k : BitVec 2) (p : BitVec 1) (h : BitVec 1) (g : BitVec 1) (s : State) :
    exec (.vshl d a b k p h g) s = execVshl d a b k p h g s := rfl

theorem exec_vshr (d : BitVec 6) (a : BitVec 6) (b : BitVec 6) (k : BitVec 2) (p : BitVec 1) (h : BitVec 1) (g : BitVec 1) (s : State) :
    exec (.vshr d a b k p h g) s = execVshr d a b k p h g s := rfl

theorem exec_vsra (d : BitVec 6) (a : BitVec 6) (b : BitVec 6) (k : BitVec 2) (p : BitVec 1) (h : BitVec 1) (g : BitVec 1) (s : State) :
    exec (.vsra d a b k p h g) s = execVsra d a b k p h g s := rfl

theorem exec_vsel (d : BitVec 6) (a : BitVec 6) (b : BitVec 6) (k : BitVec 2) (h : BitVec 1) (g : BitVec 1) (s : State) :
    exec (.vsel d a b k h g) s = execVsel d a b k h g s := rfl

theorem exec_vceq (d : BitVec 6) (a : BitVec 6) (b : BitVec 6) (k : BitVec 2) (p : BitVec 1) (h : BitVec 1) (g : BitVec 1) (s : State) :
    exec (.vceq d a b k p h g) s = execVceq d a b k p h g s := rfl

theorem exec_vcne (d : BitVec 6) (a : BitVec 6) (b : BitVec 6) (k : BitVec 2) (p : BitVec 1) (h : BitVec 1) (g : BitVec 1) (s : State) :
    exec (.vcne d a b k p h g) s = execVcne d a b k p h g s := rfl

theorem exec_vclt (d : BitVec 6) (a : BitVec 6) (b : BitVec 6) (k : BitVec 2) (p : BitVec 1) (h : BitVec 1) (g : BitVec 1) (s : State) :
    exec (.vclt d a b k p h g) s = execVclt d a b k p h g s := rfl

theorem exec_vcle (d : BitVec 6) (a : BitVec 6) (b : BitVec 6) (k : BitVec 2) (p : BitVec 1) (h : BitVec 1) (g : BitVec 1) (s : State) :
    exec (.vcle d a b k p h g) s = execVcle d a b k p h g s := rfl

theorem exec_vcltu (d : BitVec 6) (a : BitVec 6) (b : BitVec 6) (k : BitVec 2) (p : BitVec 1) (h : BitVec 1) (g : BitVec 1) (s : State) :
    exec (.vcltu d a b k p h g) s = execVcltu d a b k p h g s := rfl

theorem exec_vcleu (d : BitVec 6) (a : BitVec 6) (b : BitVec 6) (k : BitVec 2) (p : BitVec 1) (h : BitVec 1) (g : BitVec 1) (s : State) :
    exec (.vcleu d a b k p h g) s = execVcleu d a b k p h g s := rfl

theorem exec_vsplat (d : BitVec 6) (a : BitVec 6) (k : BitVec 2) (p : BitVec 1) (s : State) :
    exec (.vsplat d a k p) s = execVsplat d a k p s := rfl

theorem exec_vext (d : BitVec 6) (a : BitVec 6) (b : BitVec 6) (h : BitVec 1) (s : State) :
    exec (.vext d a b h) s = execVext d a b h s := rfl

theorem exec_vperm (d : BitVec 6) (a : BitVec 6) (b : BitVec 6) (k : BitVec 2) (p : BitVec 1) (h : BitVec 1) (g : BitVec 1) (s : State) :
    exec (.vperm d a b k p h g) s = execVperm d a b k p h g s := rfl

theorem exec_vrot (d : BitVec 6) (a : BitVec 6) (b : BitVec 6) (k : BitVec 2) (p : BitVec 1) (h : BitVec 1) (g : BitVec 1) (s : State) :
    exec (.vrot d a b k p h g) s = execVrot d a b k p h g s := rfl

theorem exec_vshuf (d : BitVec 6) (a : BitVec 6) (b : BitVec 6) (k : BitVec 2) (p : BitVec 1) (h : BitVec 1) (g : BitVec 1) (s : State) :
    exec (.vshuf d a b k p h g) s = execVshuf d a b k p h g s := rfl

theorem exec_vred (d : BitVec 6) (a : BitVec 6) (c : BitVec 6) (k : BitVec 2) (h : BitVec 1) (s : State) :
    exec (.vred d a c k h) s = execVred d a c k h s := rfl

theorem exec_vscan (d : BitVec 6) (a : BitVec 6) (c : BitVec 6) (k : BitVec 2) (p : BitVec 1) (h : BitVec 1) (s : State) :
    exec (.vscan d a c k p h) s = execVscan d a c k p h s := rfl

theorem exec_vcomp (d : BitVec 6) (a : BitVec 6) (k : BitVec 2) (p : BitVec 1) (h : BitVec 1) (s : State) :
    exec (.vcomp d a k p h) s = execVcomp d a k p h s := rfl

theorem exec_vexpd (d : BitVec 6) (a : BitVec 6) (k : BitVec 2) (p : BitVec 1) (h : BitVec 1) (s : State) :
    exec (.vexpd d a k p h) s = execVexpd d a k p h s := rfl

theorem exec_vins (d : BitVec 6) (a : BitVec 6) (b : BitVec 6) (k : BitVec 2) (s : State) :
    exec (.vins d a b k) s = execVins d a b k s := rfl

theorem exec_vfadd (d : BitVec 6) (a : BitVec 6) (b : BitVec 6) (k : BitVec 2) (p : BitVec 1) (t : BitVec 2) (s : State) :
    exec (.vfadd d a b k p t) s = execVfadd d a b k p t s := rfl

theorem exec_vfsub (d : BitVec 6) (a : BitVec 6) (b : BitVec 6) (k : BitVec 2) (p : BitVec 1) (t : BitVec 2) (s : State) :
    exec (.vfsub d a b k p t) s = execVfsub d a b k p t s := rfl

theorem exec_vfmul (d : BitVec 6) (a : BitVec 6) (b : BitVec 6) (k : BitVec 2) (p : BitVec 1) (t : BitVec 2) (s : State) :
    exec (.vfmul d a b k p t) s = execVfmul d a b k p t s := rfl

theorem exec_vfdiv (d : BitVec 6) (a : BitVec 6) (b : BitVec 6) (k : BitVec 2) (p : BitVec 1) (t : BitVec 2) (s : State) :
    exec (.vfdiv d a b k p t) s = execVfdiv d a b k p t s := rfl

theorem exec_vfmin (d : BitVec 6) (a : BitVec 6) (b : BitVec 6) (k : BitVec 2) (p : BitVec 1) (t : BitVec 2) (s : State) :
    exec (.vfmin d a b k p t) s = execVfmin d a b k p t s := rfl

theorem exec_vfmax (d : BitVec 6) (a : BitVec 6) (b : BitVec 6) (k : BitVec 2) (p : BitVec 1) (t : BitVec 2) (s : State) :
    exec (.vfmax d a b k p t) s = execVfmax d a b k p t s := rfl

theorem exec_vfscpy (d : BitVec 6) (a : BitVec 6) (b : BitVec 6) (k : BitVec 2) (p : BitVec 1) (t : BitVec 2) (s : State) :
    exec (.vfscpy d a b k p t) s = execVfscpy d a b k p t s := rfl

theorem exec_vfscpyn (d : BitVec 6) (a : BitVec 6) (b : BitVec 6) (k : BitVec 2) (p : BitVec 1) (t : BitVec 2) (s : State) :
    exec (.vfscpyn d a b k p t) s = execVfscpyn d a b k p t s := rfl

theorem exec_vfma (d : BitVec 6) (a : BitVec 6) (b : BitVec 6) (k : BitVec 2) (p : BitVec 1) (t : BitVec 2) (s : State) :
    exec (.vfma d a b k p t) s = execVfma d a b k p t s := rfl

theorem exec_vfms (d : BitVec 6) (a : BitVec 6) (b : BitVec 6) (k : BitVec 2) (p : BitVec 1) (t : BitVec 2) (s : State) :
    exec (.vfms d a b k p t) s = execVfms d a b k p t s := rfl

theorem exec_vfnma (d : BitVec 6) (a : BitVec 6) (b : BitVec 6) (k : BitVec 2) (p : BitVec 1) (t : BitVec 2) (s : State) :
    exec (.vfnma d a b k p t) s = execVfnma d a b k p t s := rfl

theorem exec_vfnms (d : BitVec 6) (a : BitVec 6) (b : BitVec 6) (k : BitVec 2) (p : BitVec 1) (t : BitVec 2) (s : State) :
    exec (.vfnms d a b k p t) s = execVfnms d a b k p t s := rfl

theorem exec_vfsqrt (d : BitVec 6) (a : BitVec 6) (k : BitVec 2) (p : BitVec 1) (t : BitVec 2) (s : State) :
    exec (.vfsqrt d a k p t) s = execVfsqrt d a k p t s := rfl

theorem exec_vfrnd (d : BitVec 6) (a : BitVec 6) (k : BitVec 2) (p : BitVec 1) (t : BitVec 2) (s : State) :
    exec (.vfrnd d a k p t) s = execVfrnd d a k p t s := rfl

theorem exec_vfclass (d : BitVec 6) (a : BitVec 6) (k : BitVec 2) (p : BitVec 1) (t : BitVec 2) (s : State) :
    exec (.vfclass d a k p t) s = execVfclass d a k p t s := rfl

theorem exec_vftailr (d : BitVec 6) (a : BitVec 6) (k : BitVec 2) (p : BitVec 1) (t : BitVec 2) (s : State) :
    exec (.vftailr d a k p t) s = execVftailr d a k p t s := rfl

theorem exec_vftailw (d : BitVec 6) (a : BitVec 6) (k : BitVec 2) (p : BitVec 1) (t : BitVec 2) (s : State) :
    exec (.vftailw d a k p t) s = execVftailw d a k p t s := rfl

theorem exec_vfeq (d : BitVec 6) (a : BitVec 6) (b : BitVec 6) (k : BitVec 2) (p : BitVec 1) (t : BitVec 2) (s : State) :
    exec (.vfeq d a b k p t) s = execVfeq d a b k p t s := rfl

theorem exec_vflt (d : BitVec 6) (a : BitVec 6) (b : BitVec 6) (k : BitVec 2) (p : BitVec 1) (t : BitVec 2) (s : State) :
    exec (.vflt d a b k p t) s = execVflt d a b k p t s := rfl

theorem exec_vfle (d : BitVec 6) (a : BitVec 6) (b : BitVec 6) (k : BitVec 2) (p : BitVec 1) (t : BitVec 2) (s : State) :
    exec (.vfle d a b k p t) s = execVfle d a b k p t s := rfl

theorem exec_vfunord (d : BitVec 6) (a : BitVec 6) (b : BitVec 6) (k : BitVec 2) (p : BitVec 1) (t : BitVec 2) (s : State) :
    exec (.vfunord d a b k p t) s = execVfunord d a b k p t s := rfl

theorem exec_vfeqx (d : BitVec 6) (a : BitVec 6) (b : BitVec 6) (k : BitVec 2) (p : BitVec 1) (t : BitVec 2) (s : State) :
    exec (.vfeqx d a b k p t) s = execVfeqx d a b k p t s := rfl

theorem exec_vfltx (d : BitVec 6) (a : BitVec 6) (b : BitVec 6) (k : BitVec 2) (p : BitVec 1) (t : BitVec 2) (s : State) :
    exec (.vfltx d a b k p t) s = execVfltx d a b k p t s := rfl

theorem exec_vflex (d : BitVec 6) (a : BitVec 6) (b : BitVec 6) (k : BitVec 2) (p : BitVec 1) (t : BitVec 2) (s : State) :
    exec (.vflex d a b k p t) s = execVflex d a b k p t s := rfl

theorem exec_vfne (d : BitVec 6) (a : BitVec 6) (b : BitVec 6) (k : BitVec 2) (p : BitVec 1) (t : BitVec 2) (s : State) :
    exec (.vfne d a b k p t) s = execVfne d a b k p t s := rfl

theorem exec_vfcvt (d : BitVec 6) (a : BitVec 6) (k : BitVec 2) (p : BitVec 1) (x : BitVec 4) (t : BitVec 4) (m : BitVec 3) (s : State) :
    exec (.vfcvt d a k p x t m) s = execVfcvt d a k p x t m s := rfl

theorem exec_vfexp2 (d : BitVec 6) (a : BitVec 6) (k : BitVec 2) (p : BitVec 1) (t : BitVec 2) (s : State) :
    exec (.vfexp2 d a k p t) s = execVfexp2 d a k p t s := rfl

theorem exec_vflog2 (d : BitVec 6) (a : BitVec 6) (k : BitVec 2) (p : BitVec 1) (t : BitVec 2) (s : State) :
    exec (.vflog2 d a k p t) s = execVflog2 d a k p t s := rfl

theorem exec_vfsinpi (d : BitVec 6) (a : BitVec 6) (k : BitVec 2) (p : BitVec 1) (t : BitVec 2) (s : State) :
    exec (.vfsinpi d a k p t) s = execVfsinpi d a k p t s := rfl

theorem exec_vfcospi (d : BitVec 6) (a : BitVec 6) (k : BitVec 2) (p : BitVec 1) (t : BitVec 2) (s : State) :
    exec (.vfcospi d a k p t) s = execVfcospi d a k p t s := rfl

theorem exec_vfrsqrt (d : BitVec 6) (a : BitVec 6) (k : BitVec 2) (p : BitVec 1) (t : BitVec 2) (s : State) :
    exec (.vfrsqrt d a k p t) s = execVfrsqrt d a k p t s := rfl

theorem exec_vftanh (d : BitVec 6) (a : BitVec 6) (k : BitVec 2) (p : BitVec 1) (t : BitVec 2) (s : State) :
    exec (.vftanh d a k p t) s = execVftanh d a k p t s := rfl

theorem exec_fadd (d : BitVec 6) (a : BitVec 6) (b : BitVec 6) (t : BitVec 2) (s : State) :
    exec (.fadd d a b t) s = execFadd d a b t s := rfl

theorem exec_fsub (d : BitVec 6) (a : BitVec 6) (b : BitVec 6) (t : BitVec 2) (s : State) :
    exec (.fsub d a b t) s = execFsub d a b t s := rfl

theorem exec_fmul (d : BitVec 6) (a : BitVec 6) (b : BitVec 6) (t : BitVec 2) (s : State) :
    exec (.fmul d a b t) s = execFmul d a b t s := rfl

theorem exec_fdiv (d : BitVec 6) (a : BitVec 6) (b : BitVec 6) (t : BitVec 2) (s : State) :
    exec (.fdiv d a b t) s = execFdiv d a b t s := rfl

theorem exec_fsqrt (d : BitVec 6) (a : BitVec 6) (t : BitVec 2) (s : State) :
    exec (.fsqrt d a t) s = execFsqrt d a t s := rfl

theorem exec_fmin (d : BitVec 6) (a : BitVec 6) (b : BitVec 6) (t : BitVec 2) (s : State) :
    exec (.fmin d a b t) s = execFmin d a b t s := rfl

theorem exec_fmax (d : BitVec 6) (a : BitVec 6) (b : BitVec 6) (t : BitVec 2) (s : State) :
    exec (.fmax d a b t) s = execFmax d a b t s := rfl

theorem exec_fscpy (d : BitVec 6) (a : BitVec 6) (b : BitVec 6) (t : BitVec 2) (s : State) :
    exec (.fscpy d a b t) s = execFscpy d a b t s := rfl

theorem exec_fscpyn (d : BitVec 6) (a : BitVec 6) (b : BitVec 6) (t : BitVec 2) (s : State) :
    exec (.fscpyn d a b t) s = execFscpyn d a b t s := rfl

theorem exec_fsxor (d : BitVec 6) (a : BitVec 6) (b : BitVec 6) (t : BitVec 2) (s : State) :
    exec (.fsxor d a b t) s = execFsxor d a b t s := rfl

theorem exec_fma (d : BitVec 6) (a : BitVec 6) (b : BitVec 6) (t : BitVec 2) (s : State) :
    exec (.fma d a b t) s = execFma d a b t s := rfl

theorem exec_fms (d : BitVec 6) (a : BitVec 6) (b : BitVec 6) (t : BitVec 2) (s : State) :
    exec (.fms d a b t) s = execFms d a b t s := rfl

theorem exec_fnma (d : BitVec 6) (a : BitVec 6) (b : BitVec 6) (t : BitVec 2) (s : State) :
    exec (.fnma d a b t) s = execFnma d a b t s := rfl

theorem exec_fnms (d : BitVec 6) (a : BitVec 6) (b : BitVec 6) (t : BitVec 2) (s : State) :
    exec (.fnms d a b t) s = execFnms d a b t s := rfl

theorem exec_feq (d : BitVec 6) (a : BitVec 6) (b : BitVec 6) (t : BitVec 2) (s : State) :
    exec (.feq d a b t) s = execFeq d a b t s := rfl

theorem exec_flt (d : BitVec 6) (a : BitVec 6) (b : BitVec 6) (t : BitVec 2) (s : State) :
    exec (.flt d a b t) s = execFlt d a b t s := rfl

theorem exec_fle (d : BitVec 6) (a : BitVec 6) (b : BitVec 6) (t : BitVec 2) (s : State) :
    exec (.fle d a b t) s = execFle d a b t s := rfl

theorem exec_funord (d : BitVec 6) (a : BitVec 6) (b : BitVec 6) (t : BitVec 2) (s : State) :
    exec (.funord d a b t) s = execFunord d a b t s := rfl

theorem exec_feqx (d : BitVec 6) (a : BitVec 6) (b : BitVec 6) (t : BitVec 2) (s : State) :
    exec (.feqx d a b t) s = execFeqx d a b t s := rfl

theorem exec_fltx (d : BitVec 6) (a : BitVec 6) (b : BitVec 6) (t : BitVec 2) (s : State) :
    exec (.fltx d a b t) s = execFltx d a b t s := rfl

theorem exec_flex (d : BitVec 6) (a : BitVec 6) (b : BitVec 6) (t : BitVec 2) (s : State) :
    exec (.flex d a b t) s = execFlex d a b t s := rfl

theorem exec_fclass (d : BitVec 6) (a : BitVec 6) (t : BitVec 2) (s : State) :
    exec (.fclass d a t) s = execFclass d a t s := rfl

theorem exec_frnd (d : BitVec 6) (a : BitVec 6) (t : BitVec 2) (s : State) :
    exec (.frnd d a t) s = execFrnd d a t s := rfl

theorem exec_fmvx (d : BitVec 6) (a : BitVec 6) (t : BitVec 2) (s : State) :
    exec (.fmvx d a t) s = execFmvx d a t s := rfl

theorem exec_fmvf (d : BitVec 6) (a : BitVec 6) (t : BitVec 2) (s : State) :
    exec (.fmvf d a t) s = execFmvf d a t s := rfl

theorem exec_ftailr (d : BitVec 6) (a : BitVec 6) (s : State) :
    exec (.ftailr d a) s = execFtailr d a s := rfl

theorem exec_ftailw (d : BitVec 6) (a : BitVec 6) (s : State) :
    exec (.ftailw d a) s = execFtailw d a s := rfl

theorem exec_fexp2 (d : BitVec 6) (a : BitVec 6) (t : BitVec 2) (s : State) :
    exec (.fexp2 d a t) s = execFexp2 d a t s := rfl

theorem exec_flog2 (d : BitVec 6) (a : BitVec 6) (t : BitVec 2) (s : State) :
    exec (.flog2 d a t) s = execFlog2 d a t s := rfl

theorem exec_fsinpi (d : BitVec 6) (a : BitVec 6) (t : BitVec 2) (s : State) :
    exec (.fsinpi d a t) s = execFsinpi d a t s := rfl

theorem exec_fcospi (d : BitVec 6) (a : BitVec 6) (t : BitVec 2) (s : State) :
    exec (.fcospi d a t) s = execFcospi d a t s := rfl

theorem exec_frsqrt (d : BitVec 6) (a : BitVec 6) (t : BitVec 2) (s : State) :
    exec (.frsqrt d a t) s = execFrsqrt d a t s := rfl

theorem exec_ftanh (d : BitVec 6) (a : BitVec 6) (t : BitVec 2) (s : State) :
    exec (.ftanh d a t) s = execFtanh d a t s := rfl

theorem exec_fcvt (d : BitVec 6) (a : BitVec 6) (x : BitVec 4) (t : BitVec 4) (m : BitVec 3) (s : State) :
    exec (.fcvt d a x t m) s = execFcvt d a x t m s := rfl

theorem exec_tcfg (d : BitVec 6) (a : BitVec 6) (s : State) :
    exec (.tcfg d a) s = execTcfg d a s := rfl

theorem exec_tzero (d : BitVec 6) (s : State) :
    exec (.tzero d) s = execTzero d s := rfl

theorem exec_tld (d : BitVec 6) (a : BitVec 6) (b : BitVec 6) (s : State) :
    exec (.tld d a b) s = execTld d a b s := rfl

theorem exec_tst (d : BitVec 6) (a : BitVec 6) (b : BitVec 6) (s : State) :
    exec (.tst d a b) s = execTst d a b s := rfl

theorem exec_tldbp (d : BitVec 6) (a : BitVec 6) (b : BitVec 6) (s : State) :
    exec (.tldbp d a b) s = execTldbp d a b s := rfl

theorem exec_tldmx (d : BitVec 6) (a : BitVec 6) (b : BitVec 6) (s : State) :
    exec (.tldmx d a b) s = execTldmx d a b s := rfl

theorem exec_mma (d : BitVec 6) (a : BitVec 6) (b : BitVec 6) (s : State) :
    exec (.mma d a b) s = execMma d a b s := rfl

theorem exec_tcvt (d : BitVec 6) (a : BitVec 6) (m : BitVec 3) (s : State) :
    exec (.tcvt d a m) s = execTcvt d a m s := rfl

theorem exec_tmov (d : BitVec 6) (a : BitVec 6) (s : State) :
    exec (.tmov d a) s = execTmov d a s := rfl

theorem exec_tget (d : BitVec 6) (a : BitVec 6) (b : BitVec 6) (s : State) :
    exec (.tget d a b) s = execTget d a b s := rfl

theorem exec_tset (d : BitVec 6) (a : BitVec 6) (b : BitVec 6) (s : State) :
    exec (.tset d a b) s = execTset d a b s := rfl

theorem exec_geom (d : BitVec 6) (a : BitVec 6) (b : BitVec 6) (s : State) :
    exec (.geom d a b) s = execGeom d a b s := rfl

theorem exec_mms (d : BitVec 6) (a : BitVec 6) (s : State) :
    exec (.mms d a) s = execMms d a s := rfl

theorem exec_fwait (d : BitVec 6) (a : BitVec 6) (s : State) :
    exec (.fwait d a) s = execFwait d a s := rfl

theorem exec_ftest (d : BitVec 6) (a : BitVec 6) (f : BitVec 1) (s : State) :
    exec (.ftest d a f) s = execFtest d a f s := rfl

theorem exec_fcancel (d : BitVec 6) (a : BitVec 6) (f : BitVec 1) (s : State) :
    exec (.fcancel d a f) s = execFcancel d a f s := rfl

theorem exec_fhandle (d : BitVec 6) (a : BitVec 6) (f : BitVec 1) (s : State) :
    exec (.fhandle d a f) s = execFhandle d a f s := rfl

theorem exec_cpy (d : BitVec 6) (a : BitVec 6) (s : State) :
    exec (.cpy d a) s = execCpy d a s := rfl

theorem exec_cpy2d (d : BitVec 6) (a : BitVec 6) (s : State) :
    exec (.cpy2d d a) s = execCpy2d d a s := rfl

theorem exec_cpym (d : BitVec 6) (a : BitVec 6) (s : State) :
    exec (.cpym d a) s = execCpym d a s := rfl

theorem exec_cpyr (d : BitVec 6) (a : BitVec 6) (s : State) :
    exec (.cpyr d a) s = execCpyr d a s := rfl

theorem exec_evwait (d : BitVec 6) (a : BitVec 6) (b : BitVec 6) (s : State) :
    exec (.evwait d a b) s = execEvwait d a b s := rfl

theorem exec_evpop (d : BitVec 6) (a : BitVec 6) (s : State) :
    exec (.evpop d a) s = execEvpop d a s := rfl

theorem exec_evpost (a : BitVec 6) (b : BitVec 6) (s : State) :
    exec (.evpost a b) s = execEvpost a b s := rfl

theorem exec_chsend (d : BitVec 6) (a : BitVec 6) (b : BitVec 6) (s : State) :
    exec (.chsend d a b) s = execChsend d a b s := rfl

theorem exec_chrecv (d : BitVec 6) (a : BitVec 6) (b : BitVec 6) (s : State) :
    exec (.chrecv d a b) s = execChrecv d a b s := rfl

theorem exec_chwait (d : BitVec 6) (b : BitVec 6) (s : State) :
    exec (.chwait d b) s = execChwait d b s := rfl

theorem exec_chadv (d : BitVec 6) (b : BitVec 6) (s : State) :
    exec (.chadv d b) s = execChadv d b s := rfl

theorem exec_wdq (d : BitVec 6) (a : BitVec 6) (s : State) :
    exec (.wdq d a) s = execWdq d a s := rfl

theorem exec_submit (d : BitVec 6) (a : BitVec 6) (b : BitVec 6) (s : State) :
    exec (.submit d a b) s = execSubmit d a b s := rfl

theorem exec_bari (a : BitVec 6) (b : BitVec 6) (s : State) :
    exec (.bari a b) s = execBari a b s := rfl

theorem exec_barr (d : BitVec 6) (a : BitVec 6) (s : State) :
    exec (.barr d a) s = execBarr d a s := rfl

theorem exec_bard (d : BitVec 6) (a : BitVec 6) (s : State) :
    exec (.bard d a) s = execBard d a s := rfl

theorem exec_joinc (d : BitVec 6) (s : State) :
    exec (.joinc d) s = execJoinc d s := rfl

theorem exec_ccnt (d : BitVec 6) (a : BitVec 6) (b : BitVec 6) (s : State) :
    exec (.ccnt d a b) s = execCcnt d a b s := rfl

theorem exec_cancelCounter (d : BitVec 6) (a : BitVec 6) (s : State) :
    exec (.cancelCounter d a) s = execCancelCounter d a s := rfl

theorem exec_movc (d : BitVec 6) (i : BitVec 14) (s : State) :
    exec (.movc d i) s = execMovc d i s := rfl

theorem exec_movtc (a : BitVec 6) (i : BitVec 14) (s : State) :
    exec (.movtc a i) s = execMovtc a i s := rfl

theorem exec_nopHint (x : BitVec 22) (s : State) :
    exec (.nopHint x) s = execNopHint x s := rfl

theorem exec_himm (i : BitVec 22) (s : State) :
    exec (.himm i) s = execHimm i s := rfl

theorem exec_hmod (e : BitVec 2) (k : BitVec 1) (x : BitVec 3) (h : BitVec 1) (g : BitVec 1) (q : BitVec 2) (v : BitVec 1) (t : BitVec 1) (w : BitVec 1) (s : State) :
    exec (.hmod e k x h g q v t w) s = execHmod e k x h g q v t w s := rfl

theorem exec_rep (n : BitVec 6) (x : BitVec 3) (y : BitVec 3) (z : BitVec 3) (s : State) :
    exec (.rep n x y z) s = execRep n x y z s := rfl

theorem exec_realign (t : BitVec 16) (s : State) :
    exec (.realign t) s = execRealign t s := rfl

theorem exec_hsched (p : BitVec 2) (s : State) :
    exec (.hsched p) s = execHsched p s := rfl

end Sys2Proof.Machine
end

