-- ==== Sys2Proof/Laws/Ops.lean ====
section
/-! SUPPORT. What the shared operations can do, each said once: retirement, taking an exception, filling a destination. -/

namespace Sys2Proof.Machine

/-- The loop-end step writes pc, one loop counter a level and LDEPTH, and nothing else (R135). -/
theorem loopEnd_form (x : Word) (n : Nat) (t : Thread) :
    ∃ p l d, loopEnd x n t = { t with pc := p, ln := l, ldepth := d } := by
  induction n generalizing t with
  | zero => exact ⟨_, _, _, rfl⟩
  | succ n ih =>
    unfold loopEnd
    split
    · dsimp only
      split
      · exact ⟨_, _, _, rfl⟩
      · obtain ⟨p, l, d, e⟩ := ih { t with
          ln := t.ln.setIfInBounds (t.depth - 1) (four t.ln (t.depth - 1) - 1), ldepth := BitVec.ofNat 64 (t.depth - 1) }
        exact ⟨p, l, d, e⟩
    · exact ⟨_, _, _, rfl⟩

/-- Outside every hardware loop the loop-end step moves to the next word (R135). -/
theorem loopEnd_flat (x : Word) (n : Nat) (t : Thread) (h : t.depth = 0) : loopEnd x n t = { t with pc := x + 4 } := by
  cases n with
  | zero => rfl
  | succ n => unfold loopEnd; rw [if_neg (by omega)]

/-- Retirement writes pc, the loop counters, LDEPTH, INSTRET, the prefix group and REPLEFT, and nothing else (R62, R65). -/
theorem Thread.retire_form (t : Thread) : ∃ p l d i g r,
    t.retire = { t with pc := p, ln := l, ldepth := d, instret := i, pfx := g, repleft := r } := by
  have k : ∃ p l d i g r,
      loopEnd t.pc 4 t.count.endGroup = { t with pc := p, ln := l, ldepth := d, instret := i, pfx := g, repleft := r } := by
    obtain ⟨p, l, d, e⟩ := loopEnd_form t.pc 4 t.count.endGroup
    rw [e]
    unfold Thread.endGroup Thread.count
    dsimp only
    split <;> exact ⟨_, _, _, _, _, _, rfl⟩
  unfold Thread.retire
  split
  · split
    · exact ⟨_, _, _, _, _, _, rfl⟩
    · exact k
  · exact k

@[simp] theorem Thread.retire_s (t : Thread) : t.retire.s = t.s := by
  obtain ⟨_, _, _, _, _, _, e⟩ := t.retire_form; rw [e]

@[simp] theorem Thread.retire_v (t : Thread) : t.retire.v = t.v := by
  obtain ⟨_, _, _, _, _, _, e⟩ := t.retire_form; rw [e]

@[simp] theorem Thread.retire_tileTC (t : Thread) : t.retire.tileTC = t.tileTC := by
  obtain ⟨_, _, _, _, _, _, e⟩ := t.retire_form; rw [e]

@[simp] theorem Thread.retire_tileData (t : Thread) : t.retire.tileData = t.tileData := by
  obtain ⟨_, _, _, _, _, _, e⟩ := t.retire_form; rw [e]

@[simp] theorem Thread.retire_tileScale (t : Thread) : t.retire.tileScale = t.tileScale := by
  obtain ⟨_, _, _, _, _, _, e⟩ := t.retire_form; rw [e]

@[simp] theorem Thread.retire_fcsr (t : Thread) : t.retire.fcsr = t.fcsr := by
  obtain ⟨_, _, _, _, _, _, e⟩ := t.retire_form; rw [e]

@[simp] theorem Thread.retire_ops (t : Thread) : t.retire.ops = t.ops := by
  obtain ⟨_, _, _, _, _, _, e⟩ := t.retire_form; rw [e]

@[simp] theorem Thread.retire_hwid (t : Thread) : t.retire.hwid = t.hwid := by
  obtain ⟨_, _, _, _, _, _, e⟩ := t.retire_form; rw [e]

/-- An instruction outside a group and outside every loop retires to the next word (R62, R135). -/
theorem Thread.retire_flat (t : Thread) (hp : t.pfx = none) (hd : t.depth = 0) :
    t.retire = { t with pc := t.pc + 4, instret := t.instret + 1 } := by
  have e : t.count.endGroup = t.count := by unfold Thread.endGroup Thread.count; simp only [hp]
  have k : t.retire = loopEnd t.pc 4 t.count.endGroup := by unfold Thread.retire; rw [hp]; rfl
  rw [k, e, loopEnd_flat _ _ _ (by exact hd)]
  rfl

/-- Retirement answers a next state in which only the current thread differs. -/
theorem State.retire_next (s : State) : s.retire = .next { s with th := s.th.retire } := rfl

/-- Trap entry leaves every register of the program as it was (R394). -/
theorem trapEntry_keeps (t : Thread) (c : Cause) : (trapEntry t c).s = t.s ∧ (trapEntry t c).v = t.v
    ∧ (trapEntry t c).tileTC = t.tileTC ∧ (trapEntry t c).tileData = t.tileData ∧ (trapEntry t c).fcsr = t.fcsr ∧ (trapEntry t c).tvec = t.tvec := ⟨rfl, rfl, rfl, rfl, rfl, rfl⟩

/-- A cause is delivered to the handler, or ends the task (R390, R399). -/
theorem State.deliver_cases (s : State) (t : Thread) (c : Cause) :
    (s.deliver t c = s.endFault t c ∧ (isFatal c.code = true ∨ loopAddr t.tvec = 0))
    ∨ (s.deliver t c = s.putThread (trapEntry t c) ∧ isFatal c.code = false ∧ loopAddr t.tvec ≠ 0) := by
  unfold State.deliver
  split
  · rename_i h
    exact .inl ⟨rfl, by simpa using h⟩
  · rename_i h
    exact .inr ⟨rfl, by simpa using h⟩

/-- An instruction that raises a cause in shadow only has it held (R393). -/
theorem State.raiseWith_shadow (s : State) (code : BitVec 7) (v : Word) (w : BitVec 32) (h : s.th.inShadow = true) :
    s.raiseWith code v w =
      { s with th := { s.th with heldFault := some ⟨code, v, false, 0, s.th.groupStart, w, s.th.repLeftNow⟩ } } := by
  unfold State.raiseWith; rw [if_pos h]

/-- Outside shadow the cause is delivered at its group (R391, R394). -/
theorem State.raiseWith_now (s : State) (code : BitVec 7) (v : Word) (w : BitVec 32) (h : s.th.inShadow = false) :
    s.raiseWith code v w = s.deliver s.th ⟨code, v, false, 0, s.th.groupStart, w, s.th.repLeftNow⟩ := by
  unfold State.raiseWith; rw [if_neg (by simp [h])]

end Sys2Proof.Machine
end

