-- ==== Sys2Proof/Tests/Slice0.lean ====
section
/-! SUPPORT. Tests of the model: ill-formed terms that WellFormed refuses, words of spec/'s encoding tables that decode to
the instruction they stand for, single steps whose results spec/ fixes, and, for every statement with hypotheses, states and
operands that meet them. -/

set_option maxRecDepth 100000
set_option Elab.async false

namespace Sys2Proof.Tests

open Sys2Proof.Machine Sys2Proof.Claims

/-! Small machines. -/

/-- A small machine: thread 0 of L-core 0 of die 0 at pc 0x1_0000, with a task, the first GiB of its job mapped to HBM, a
lease of the 64 KiB at 0x2_0000, and a trap handler at 0x8000. -/
def W.low : State :=
  let s := State.reset.bindByHand
  { s with th := { s.th with tvec := 0x8000, leases := [⟨0x20000, 0x10000, true, true⟩] } }

/-- The same thread on a B-core. -/
def W.high : State := { W.low with th := { W.low.th with hwid := 0x10000 } }

/-- The page that holds every address of the small machine. -/
def W.page : Leaf := ⟨0, 0x40000000, 0, 0, 0x2000⟩

/-- The small machine with scalar registers set. -/
def W.put (s : State) (l : List (BitVec 6 × Word)) : State := l.foldl (fun s p => s.ws p.1 p.2) s

/-- The small machine with its thread changed. -/
def W.by (s : State) (f : Thread → Thread) : State := { s with th := f s.th }

/-- A launch packet of one gang of one task: entry 0x1_0000, counter 5. -/
def W.packet : List Word := [0x22, 0x10000, 0x1000001001, 0x1000000000005] ++ List.replicate 28 0

/-- A launch record that holds it. -/
def W.launch : Launch := ⟨0, 1, 0, 0, false, 0, W.packet.take 4, [], 0, 1, [⟨0, .claimed 0, [], none, some 0⟩], false, true, 0, []⟩

/-- The small machine running a task of that launch. -/
def W.task : State := { W.low with launches := [W.launch], cycle := 1 }

/-- An operation of the small machine's thread that fills `d`. -/
def W.op (d : Dst) (k : OpKind) : Op := ⟨0, 0, d, 5, k, 0x10000, 0, 0, 0, false, false⟩

/-- A trap-capable one. -/
def W.capOp : Op := { W.op (.s 7) .bamo with trapcap := true }

/-- The small machine with bytes in memory at 0x2_0000, and s4 on them. -/
def W.data (s : State) (x : Word) : State :=
  W.put { s with mem := Memory.writeNat s.mem 0x20000 40 0x8182838485868788898A8B8C8D8E8F909192939495969798999A9B9C9D9E9FA0A1A2A3A4A5A6A7A8 } [(4, x)]

/-- The task of the small machine with the 64 KiB at 0x2_0000 on a page of its own, of class `c`. -/
def W.paged (c : Nat) : State :=
  let m := [(0x1000, 0x2001), (0x2000, 0x3001), (0x3000, 0x3801), (0x3810, BitVec.ofNat 64 (0x20003 + c * 2 ^ 55))].foldl
    (fun m p => Memory.write64 m p.1 p.2) []
  W.put { W.task with mem := m } [(4, 0x20000)]

/-- The small machine with everything in it that a scalar access meets. -/
def W.mem : State := W.data W.task 0x20000

/-- An access that is allowed, with a fact about its places. -/
theorem W.okWith {ε α : Type} {f : α → Bool} : {x : Except ε α} → x.toOption.any f = true → ∃ a, x = .ok a ∧ f a = true
  | .ok a, h => ⟨a, rfl, h⟩

/-- An access that is refused. -/
theorem W.refusedAs {α : Type} : {x : Except (BitVec 7 × Word) α} → x.toOption.isNone = true → ∃ c v, x = .error (c, v)
  | .error e, _ => ⟨e.1, e.2, rfl⟩

/-- An access that is allowed with a known answer. -/
theorem W.okAs {ε α : Type} {a : α} : {x : Except ε α} → x.toOption = some a → x = .ok a
  | .ok _, rfl => rfl

/-- A check that is made and passed, with a fact about its answer. -/
theorem W.passes {ε α : Type} {f : α → Bool} : {x : Option (Except ε α)} →
    (match x with | some (.ok a) => f a | _ => false) = true → ∃ a, x = some (.ok a) ∧ f a = true
  | some (.ok a), h => ⟨a, rfl, h⟩

/-- A value that is there, with a fact about it. -/
theorem W.someWith {α : Type} {f : α → Bool} : {x : Option α} → x.any f = true → ∃ a, x = some a ∧ f a = true
  | some a, h => ⟨a, rfl, h⟩

/-- No operation waits where no thread has one. -/
theorem W.noneWaitsOf {s : State} (h : ∀ u ∈ s.threads, u.ops = []) (g : s.queues.orphans = [] ∧ s.queues.releases = []) :
    noneWaits s :=
  ⟨fun u hu o ho => by simp [h u hu] at ho, fun x hx => by simp [g.1] at hx, g.2⟩

/-- Every line is free where no region has a directory entry and nothing is in flight. -/
theorem W.linesFree {s : State} (h : s.caches.dir = [] ∧ s.pending = []) (l : BitVec 52) : s.lineFree l = true := by
  simp [State.lineFree, State.lineBusy, State.dirOf, h.1, h.2]

/-- The home of every line takes every request where besides nothing is queued, no layer sleeps, no page moves and none is being
freed. -/
theorem W.homesTake {s : State} {w : Option Waiter} {past : Bool}
    (h : s.caches.dir = [] ∧ s.pending = [] ∧ s.layers = [] ∧ s.caches.migrations = [] ∧ s.caches.appendPages = []
      ∧ s.caches.homeQ = []) (l : Nat) (home : BitVec 6) : s.homeHolds w past l home = false := by
  obtain ⟨a, b, c, d, e, f⟩ := h
  simp [State.homeHolds, State.homeShut, State.lineQueue, State.migrationOf, W.linesFree ⟨a, b⟩, State.appendPage?, State.awake, c, d, e, f]

/-- No line holds a write-back where besides no transaction is under way. -/
theorem W.linesTake {s : State}
    (h : (s.caches.dir = [] ∧ s.pending = [] ∧ s.layers = [] ∧ s.caches.migrations = [] ∧ s.caches.appendPages = []
      ∧ s.caches.homeQ = []) ∧ s.caches.txs = []) (d : BitVec 6) (l : BitVec 52) : s.lineHeld d l = false := by
  simp [State.lineHeld, W.homesTake h.1, State.putbOut, State.putbAny, h.1.2.1, h.1.2.2.2.2.2, h.2]

/-- A machine between whose thread and memory nothing stands. -/
theorem W.calmOf {s : State}
    (h : s.caches.copies = [] ∧ s.caches.stashLines = [] ∧ s.caches.poison = [] ∧ s.caches.badSectors = [] ∧ s.caches.migrations = []
      ∧ s.caches.appendPages = [] ∧ s.caches.homeQ = [] ∧ s.caches.txs = [] ∧ s.layers = [] ∧ s.caches.dir = [] ∧ s.pending = []
      ∧ s.th.held = [] ∧ s.th.buf = [] ∧ s.th.lag = false ∧ Memory.wf s.mem = true) : calm s := by
  obtain ⟨a, b, c, d, e, f, p, q, g, i, j, k, l, m, n⟩ := h
  exact ⟨a, b, c, d, e, by simp [f], p, q, g, W.linesFree ⟨i, j⟩, by simp [j], by simp [j], by simp [j], k, l, m, n⟩

/-- An operation of the small machine's thread, of generation 5, that fills s6. -/
def W.waitOp (k : OpKind) : Op := { W.op (.s 6) k with gen := 5 }

/-- The small machine with that operation outstanding. -/
def W.waiting (k : OpKind) : State := W.by W.mem fun t => { t with ops := [W.waitOp k] }

/-- An operation that fills a scalar register and that no thread waits for. -/
theorem W.awaits {s : State} {o : Op} {n : BitVec 6} (h : s.op? 0 5 = some (s.th, o)) (d : o.dst = .s n) (z : n ≠ 0)
    (w : ∀ u ∈ s.threads, u.wait = .none) : awaited s 0 5 s.th o n :=
  ⟨by decide, h, d, z, fun u hu d r => by simp [w u hu]⟩

/-- The small machine's task with an instruction word at its pc. -/
def W.word (w : Nat) : State := { W.task with mem := Memory.writeNat W.task.mem 0x10000 4 w }

/-- An outcome that is a next state with a property. -/
def W.goes (o : Host.Outcome State Fault Refusal) (f : State → Bool) : Bool :=
  match o with
  | .next t => f t
  | _ => false

/-- What such an outcome is. -/
theorem W.goesTo {o : Host.Outcome State Fault Refusal} {f : State → Bool} (h : W.goes o f = true) : ∃ t, o = .next t ∧ f t = true := by
  cases o with
  | next t => exact ⟨t, rfl, h⟩
  | fault => simp [W.goes] at h
  | refused => simp [W.goes] at h

/-! Ill-formed terms: each check of R69 refuses one. -/

theorem test_check_vectorField : Instr.check (.vadd 48 4 5 0 0 0 0) = some .vectorField := by decide

theorem test_check_tileField : Instr.check (.tmov 5 16) = some .tileField := by decide

theorem test_check_fileField : Instr.check (.ftest 3 48 1) = some .fileField := by decide

theorem test_check_policy : Instr.check (.vld 6 4 0 1 0 0) = some .policy := by decide

theorem test_check_scope : Instr.check (.fence 7) = some .scope := by decide

theorem test_check_widthCode : Instr.check (.sext 3 4 3) = some .widthCode := by decide

theorem test_check_loop : Instr.check (.loop 4 26 1) = some .loop ∧ Instr.check (.loop 0 26 0) = some .loop := by decide

theorem test_check_relRange : Instr.check (.vrel 0 9 3) = some .relRange ∧ Instr.check (.vrel 1 0 48) = some .relRange := by decide

theorem test_check_path : Instr.check (.fencex 1 1 0) = some .path ∧ Instr.check (.fencex 7 1 0) = some .path := by decide

theorem test_check_pair : Instr.check (.cas2 63 4 6 0) = some .pair ∧ Instr.check (.geom 61 4 5) = some .pair := by decide

theorem test_check_reduceCode : Instr.check (.vred 12 20 8 0 0) = some .reduceCode := by decide

theorem test_check_hmodValid : Instr.check (.hmod 0 0 1 0 0 0 0 0 0) = some .hmodValid := by decide

theorem test_check_rounding : Instr.check (.fcvt 9 3 1 3 5) = some .rounding ∧ Instr.check (.fcvt 9 3 3 1 7) = some .rounding := by decide

theorem test_check_format : Instr.check (.fld 9 4 6 0 0) = some .format := by decide

theorem test_check_conversion : Instr.check (.fcvt 9 3 9 10 0) = some .conversion := by decide

/-- The all-zeros word, a reserved major, reserved functions and bits set where the encoding has zeros name no instruction. -/
theorem test_words_refused :
    (decodeWord 0x00000000).toOption = none ∧ (decodeWord 0xE0000000).toOption = none ∧ (decodeWord 0x2C6037FB).toOption = none
      ∧ (decodeWord 0xA0313280).toOption = none ∧ (decodeWord 0x043101FF).toOption = none
      ∧ (decodeWord 0x3C100001).toOption = none := by decide +kernel

/-! Words written out from the encoding tables of the chapters, with the instruction each stands for. -/

/-- Integer instructions and immediates (06, 07, 11). -/
theorem test_decode_integer : (([(0x04310501, .sub 3 4 5), (0x04310121, .sext 3 4 1), (0x05554222, .zext 21 21 2),
    (0x04F38029, .mov 15 14), (0x1C913FFF, .slti 9 4 0x3FFF), (0x18311005, .shri 3 4 5), (0x24600012, .lhi 6 0x12)] :
      List (BitVec 32 × Instr)).all (fun p => (decodeWord p.1).toOption == some p.2)) = true := by decide +kernel

/-- Control flow, threads and traps (06, 11). -/
theorem test_decode_control : (([(0x33E00010, .jal 62 16), (0x340F8000, .jalr 0 62 0), (0x2F2CC809, .bne 50 51 9),
    (0x38068001, .loop 0 26 1), (0xD8300000, .movc 3 0), (0xDC010000, .movtc 4 0), (0x3C014000, .yield 5), (0x3C000001, .exitTask),
    (0x3C000007, .lbrk), (0x3C131F08, .vrel 1 12 31), (0x3C000009, .fencei), (0x3C010003, .trap 4), (0x3C000004, .eret),
    (0x3C610005, .syscFree 6 4), (0x3C610105, .syscHostev 6 4), (0x3C000306, .brk 3)] :
      List (BitVec 32 × Instr)).all (fun p => (decodeWord p.1).toOption == some p.2)) = true := by decide +kernel

/-- Vector integer instructions (12). -/
theorem test_decode_vector : (([(0xA0310500, .vadd 3 4 5 0 0 0 0), (0xA4720987, .vsel 7 8 9 2 0 0), (0xA8110500, .vceq 1 4 5 0 0 0 0),
    (0xA8A0C006, .vsplat 10 3 0 0), (0xA8910207, .vext 9 4 2 0), (0xAC610540, .vperm 6 4 5 1 0 0 0), (0xAC810902, .vshuf 8 4 9 0 0 0 0),
    (0xACC500C3, .vred 12 20 0 3 0), (0xACA2C045, .vcomp 10 11 1 0 0), (0xAC61C807, .vins 6 7 8 0)] :
      List (BitVec 32 × Instr)).all (fun p => (decodeWord p.1).toOption == some p.2)) = true := by decide +kernel

/-- Floating-point instructions (13, 14). -/
theorem test_decode_float : (([(0xC4310540, .fadd 3 4 5 1), (0xC4310004, .fsqrt 3 4 0), (0xC4A2CC0A, .fma 10 11 12 0),
    (0xC470C452, .feqx 7 3 4 1), (0xC480C019, .ftailr 8 3), (0xC5062003, .fdiv 16 24 32 0), (0xC890C450, .fcvt 9 3 1 1 2),
    (0xB4824A88, .vfma 8 9 10 2 0 1), (0xC0414008, .vfexp2 4 5 0 0 1)] :
      List (BitVec 32 × Instr)).all (fun p => (decodeWord p.1).toOption == some p.2)) = true := by decide +kernel

/-- Matrix and tile instructions (15). -/
theorem test_decode_tile : (([(0xCC310000, .tcfg 3 4), (0xCC300001, .tzero 3), (0xCC110502, .tld 1 4 5), (0xCC018703, .tst 0 6 7),
    (0xCC210504, .tldbp 2 4 5), (0xCC118705, .tldmx 1 6 7), (0xCC004206, .mma 0 1 2), (0xCC400207, .tcvt 4 0 2), (0xCC500008, .tmov 5 0),
    (0xCC40C509, .tget 4 3 5), (0xCC31050A, .tset 3 4 5), (0xCC81050B, .geom 8 4 5), (0xCC61000C, .mms 6 4)] :
      List (BitVec 32 × Instr)).all (fun p => (decodeWord p.1).toOption == some p.2)) = true := by decide +kernel

/-- Loads, stores and vector memory accesses (17). -/
theorem test_decode_memory : (([(0x4C310403, .ldd 3 4 0 1 3), (0x51354000, .ldbu 19 21 0 0 0), (0x685103FF, .std 5 4 0 0 0x3FF),
    (0x64709804, .stw 7 2 1 2 4), (0x60C2C000, .sth 12 11 0 0 0), (0x6C910C03, .fld 9 4 3 0 3), (0x70911005, .fst 9 4 4 0 5),
    (0x743FC010, .ldt 3 63 16), (0x7C610002, .vld 6 4 0 0 0 2), (0x80F45000, .vst 15 17 1 0 0), (0x84610901, .vgather 6 4 9 0 0 0)] :
      List (BitVec 32 × Instr)).all (fun p => (decodeWord p.1).toOption == some p.2)) = true := by decide +kernel

/-- Atomics, appends and ordering (18, 20). -/
theorem test_decode_atomic : (([(0x8C3105D0, .amoadd 3 4 5 1 5), (0x8DF75E20, .amoadd 31 29 30 0 2), (0x90A10C50, .cas2 10 4 12 5),
    (0x94610501, .appendD 6 4 5), (0x96215E02, .appendv 34 5 30), (0x94710003, .sealPage 7 4), (0x95F14004, .tailq 31 5),
    (0x98810560, .wbr 8 4 5 3), (0x98810561, .invr 8 4 5 3), (0x9C000161, .fencex 0 1 3), (0x9C3100A2, .acq 3 4 5), (0x9C0105A3, .rel 4 5 5),
    (0x9C010586, .bst 4 5), (0x9C310587, .bamoAdd 3 4 5)] :
      List (BitVec 32 × Instr)).all (fun p => (decodeWord p.1).toOption == some p.2)) = true := by decide +kernel

/-- Futures, copies, queues, channels, barriers and hints (09, 22 to 25). -/
theorem test_decode_async : (([(0xD0310000, .fwait 3 4), (0xD031C101, .ftest 3 7 1), (0xD0524002, .fcancel 5 9 0), (0xD0624003, .fhandle 6 9 0),
    (0xD0730004, .cpy 7 12), (0xD0730005, .cpy2d 7 12), (0xD0834006, .cpym 8 13), (0xD0938007, .cpyr 9 14), (0xD0310508, .evwait 3 4 5),
    (0xD0610009, .evpop 6 4), (0xD001050A, .evpost 4 5), (0xD061050B, .chsend 6 4 5), (0xD060050D, .chwait 6 5), (0xD060050E, .chadv 6 5),
    (0xD061000F, .wdq 6 4), (0xD0610510, .submit 6 4 5), (0xD401C800, .bari 7 8), (0xD4E1C001, .barr 14 7), (0xD4E1C002, .bard 14 7)] :
      List (BitVec 32 × Instr)).all (fun p => (decodeWord p.1).toOption == some p.2)) = true := by decide +kernel

/-- Hint words (09): REP with its steps, HMOD with saturation, and a word of ones, which does nothing. -/
theorem test_decode_hints : (([(0xFCC72480, .rep 7 1 1 1), (0xFCC32400, .rep 3 1 1 0), (0xFC800400, .hmod 0 0 0 0 0 0 0 1 0),
    (0xFFFFFFFF, .nopHint 0x3FFFFF)] : List (BitVec 32 × Instr)).all (fun p => (decodeWord p.1).toOption == some p.2)) = true := by
  decide +kernel

/-! Witnesses: states and operands that meet the hypotheses of the statements, clause by clause. -/

theorem witness_IntegerResults :
    let w : BitVec 32 := 0x0431011C; w.extractLsb' 26 6 = 1 ∧ w.extractLsb' 8 6 ≠ 0
      ∧ w.extractLsb' 0 8 ∈ ([28, 29, 30, 31, 32, 41] : List (BitVec 8)) := by decide +kernel

theorem witness_BranchesGoToTheirTargets :
    (∃ p ∈ branches 4 5 9, p.2 (W.mem.rs 4) (W.mem.rs 5) = false)
      ∧ (∃ p ∈ branches 4 5 9, p.2 (W.mem.rs 4) (W.mem.rs 5) = true ∧ inRange (W.mem.th.pc.toNat + 4 * (9 : BitVec 11).toInt))
      ∧ (let s := W.by W.mem fun t => { t with pc := 0xFFFFFFFFFFFC }
        ∃ p ∈ branches 4 5 1, p.2 (s.rs 4) (s.rs 5) = true ∧ ¬ inRange (s.th.pc.toNat + 4 * (1 : BitVec 11).toInt))
      ∧ plain W.mem.th := by unfold inRange plain; decide +kernel

theorem witness_JumpsLinkAndGo :
    inRange (W.task.th.pc.toNat + 4 * (16 : BitVec 20).toInt) ∧ ¬ inRange (W.task.th.pc.toNat + 4 * (0xF0000 : BitVec 20).toInt)
      ∧ (let far := W.mem.rs 4 + BitVec.ofInt 64 (imm36 W.mem 8); far.toNat % 4 = 0 ∧ far.toNat < 2 ^ 48)
      ∧ (W.mem.rs 4 + BitVec.ofInt 64 (imm36 W.mem 1)).toNat % 4 ≠ 0
      ∧ (let far := W.mem.rs 0 + BitVec.ofInt 64 (imm36 W.mem 0x3FFC); far.toNat % 4 = 0 ∧ 2 ^ 48 ≤ far.toNat) := by
  unfold inRange; decide +kernel

/-- The small machine in `n` loops around the pc, the inner two with one last word. -/
def W.loops (n : Nat) : State :=
  W.by W.mem fun t => { t with ldepth := BitVec.ofNat 64 n, lb := Vector.replicate 4 0x10000,
                               le := #v[0x10040, 0x10040, 0x10010, 0x10000], ln := Vector.replicate 4 3 }

theorem witness_LoopsOpenAndBreak :
    (let s := W.loops 0; (0 : BitVec 6).toNat = s.th.depth ∧ s.rs 4 ≠ 0 ∧ s.rs 5 = 0 ∧ s.th.pc.toNat % 4 = 0 ∧ s.th.pc.toNat < 2 ^ 47)
      ∧ (let s := W.loops 1; (1 : BitVec 6).toNat = s.th.depth ∧ (s.th.pc + 4 * 15).toNat ≤ (loopAddr (four s.th.le 0)).toNat
          ∧ ¬ (s.th.pc + 4 * 17).toNat ≤ (loopAddr (four s.th.le 0)).toNat)
      ∧ (let s := W.loops 4; 0 < s.th.depth ∧ s.th.depth ≤ 4 ∧ s.th.pfx = none
          ∧ ∀ j, j < 3 → loopAddr (four s.th.le j) ≠ loopAddr (four s.th.le 3))
      ∧ (W.loops 0).th.depth = 0 := by decide +kernel

theorem witness_RetirementMovesOn :
    (W.mem.th.pfx = none ∧ W.mem.th.depth = 0)
      ∧ (let t := (W.loops 4).th; t.pfx = none ∧ 0 < t.depth ∧ t.depth ≤ 4 ∧ t.pc = loopAddr (four t.le (t.depth - 1))
          ∧ four t.ln (t.depth - 1) ≠ 1)
      ∧ (let t := { (W.loops 1).th with pc := 0x10040, ln := Vector.replicate 4 1 }
        t.pfx = none ∧ t.depth = 1 ∧ t.pc = loopAddr (four t.le 0) ∧ four t.ln 0 = 1)
      ∧ (let p : Pfx := ⟨0x10000, some 0xC92480, none, none, true⟩
        (∃ t : Thread, t.pfx = some p ∧ 1 < t.repleft.toNat) ∧ ∃ t : Thread, t.pfx = some p ∧ t.repleft.toNat ≤ 1 ∧ t.depth = 0) := by
  refine ⟨?_, ?_, ?_,
    ⟨{ W.mem.th with pfx := some ⟨0x10000, some 0xC92480, none, none, true⟩, repleft := 2 }, rfl, ?_⟩,
    ⟨{ W.mem.th with pfx := some ⟨0x10000, some 0xC92480, none, none, true⟩, repleft := 1 }, rfl, ?_⟩⟩ <;> decide +kernel

theorem witness_ControlRegisterAccess :
    plain W.task.th ∧ isB W.high.th.hwid = true ∧ W.high.th.priv = false
      ∧ (let s := W.by W.high fun t => { t with priv := true }; isB s.th.hwid = true ∧ s.th.priv = true)
      ∧ W.task.readCtl 0x002 = none
      ∧ (let s := W.by (W.put W.task [(5, 2)]) fun t => { t with le := #v[0, 0x20000, 0x10000, 0] }
        ¬ 4 < ((s.rs 5).extractLsb' 0 3).toNat ∧ s.th.pfx = none ∧ 0 < ((s.rs 5 &&& 7).extractLsb' 0 3).toNat
          ∧ s.th.pc ≠ loopAddr (four s.th.le (((s.rs 5 &&& 7).extractLsb' 0 3).toNat - 1)))
      ∧ (let s := W.put W.task [(5, 5)]; 4 < ((s.rs 5).extractLsb' 0 3).toNat ∧ s.th.pfx = none ∧ (s.th.ldepth.extractLsb' 0 3).toNat = 0)
      ∧ (∃ p ∈ writables W.task.th 5, p.1 ≠ 0x01C ∧ p.1 ≠ 0x025 ∧ (p.1.toNat < 0x018 ∨ 0x01B < p.1.toNat))
      ∧ (0x040, BitVec.ofNat 64 W.task.th.hwid.toNat) ∈ ownRegisters W.task.th ∧ (∀ q ∈ writables W.task.th 5, q.1 ≠ 0x040) := by
  unfold plain
  refine ⟨?_, ?_, ?_, ?_, ?_, ?_, ?_,
    ?_, by simp [ownRegisters], by simp [writables]⟩ <;> decide +kernel

/-- A second thread of the small machine's gang, running. -/
def W.mate : Thread := { W.task.th with hwid := 1 }

theorem witness_HintsJoinTheirGroup :
    (W.task.th.live = true ∧ W.task.others = [])
      ∧ (let s := { W.task with others := [{ W.mate with wait := .realign 0x10000 7 1 }] }
        s.th.live = true ∧ (∃ m ∈ s.others, m.live = true ∧ gangMates s.th m = true ∧ m.wait ≠ .none)
          ∧ ∀ m ∈ s.others, m.live = true → gangMates s.th m = true → m.realigned s.th.pc = true)
      ∧ (let s := { W.task with others := [W.mate] }
        s.th.live = true ∧ (∃ m ∈ s.others, m.live = true ∧ gangMates s.th m = true ∧ m.wait = .none)
          ∧ ∀ m ∈ s.others, ∀ p c c', m.wait ≠ .realign p c c') := by
  refine ⟨?_, ?_, ?_, ?_, ?mates⟩
  case mates =>
   intro m h p c c'
   have : m = W.mate := by simpa using h
   subst this
   have : W.mate.wait = .none := by decide +kernel
   rw [this]; simp
  all_goals decide +kernel

/-- The small machine's thread with a trap-capable operation in flight: in shadow. -/
def W.shadow : State := W.by W.mem fun t => { t with ops := [W.capOp] }

theorem witness_TrapsEnterAndReturn :
    handles W.task ∧ (0x01 : BitVec 7) ∉ fatalCodes ∧ W.shadow.th.inShadow = true := by unfold handles; decide +kernel

theorem witness_FatalCauseEndsTheTask :
    (let s := W.task; s.th.live = true ∧ s.th.inShadow = false ∧ s.th.fork = none ∧ s.th.ops = []
      ∧ s.launch? s.th.lrec = some W.launch ∧ (0x10 : BitVec 7) ∈ fatalCodes ∧ W.launch.faults.length < 64)
    ∧ (let r := { W.launch with fcount := 0xFFFFFF, faults := List.replicate 64 [0, 0, 0, 0] }
      let s := W.by { W.task with launches := [r] } fun t => { t with tvec := 3 }
      s.th.live = true ∧ s.th.inShadow = false ∧ s.th.fork = none ∧ s.th.ops = [] ∧ s.launch? s.th.lrec = some r
        ∧ s.th.tvec &&& 0xFFFFFFFFFFFC = 0 ∧ 64 ≤ r.faults.length ∧ r.fcount = 0xFFFFFF) := by decide +kernel

/-- The small machine's task with a preemption request pending. -/
def W.asked : State := { W.task with launches := [{ W.launch with gangs := [⟨0, .claimed 0, [], some 0, some 0⟩] }] }

theorem witness_ThreadControlCompletes :
    W.task.preemptPending W.task.th = false
      ∧ (let s := W.asked; s.preemptPending s.th = true ∧ s.th.depth = 0 ∧ s.th.anyPending = false ∧ s.th.fork = none
          ∧ s.th.repleft = 0)
      ∧ (let s := W.task; s.th.live = true ∧ s.others = [] ∧ s.th.ops = [] ∧ s.th.held = [] ∧ s.bellOut s.th.hwid 5 = false
            ∧ s.th.buf = [] ∧ s.th.refused = [] ∧ s.th.fork = none)
      ∧ (W.by W.task fun t => { t with buf := [⟨0, [], 0, 0, 0, false, 0⟩] }).th.storesOut = true ∧ W.task.th.storesOut = false
      ∧ W.task.beatsOut W.task.th.hwid = false
      ∧ (let s := { W.task with queues := { W.task.queues with bellQ := [⟨0, 0, [⟨0, 0, 0, 0, 0, 0, 0⟩]⟩] } };
        s.beatsOut s.th.hwid = true) := by
  decide +kernel

/-- The small machine's task in a fork of five, its last participant. -/
def W.forked : State :=
  { W.by W.task (fun t => { t with fork := some ⟨0, 0, 2, 0⟩ }) with
    counters := { W.task.counters with joins := [⟨0, 0, 2, 1, 5, 0x1A⟩] } }

theorem witness_ForksAndJoinsComplete :
    (let s := W.put W.task [(4, 100), (5, 10)]
      let want := min (((s.rs 4).toNat + max 1 (s.rs 5).toNat - 1) / max 1 (s.rs 5).toNat - 1) 63
      let hs := s.recruit s.th want ((recruitTree s.th.hwid).filter (· != s.th.hwid)) []
      s.th.inShadow = false ∧ s.th.anyPending = false ∧ s.th.live = true ∧ s.th.fork = none
        ∧ (s.freeJoin (dieOf s.th.hwid) (poolOf s.th.hwid)).isSome ∧ hs ≠ [] ∧ Memory.wf s.mem = true ∧ s.caches.stashLines = [])
    ∧ (let s := { W.task with counters := { W.task.counters with joins := (List.range 16).map fun k => ⟨0, 0, BitVec.ofNat 4 k, 1, 1, 0⟩ } }
      s.th.inShadow = false ∧ s.th.anyPending = false ∧ s.th.fork = none
        ∧ s.freeJoin (dieOf s.th.hwid) (poolOf s.th.hwid) = none)
    ∧ (let s := W.forked; s.th.fork.isSome ∧ s.th.innerFork ≠ 0xFFFF ∧ s.th.ops = [] ∧ s.th.held = [] ∧ s.th.buf = [] ∧ s.th.live = true
        ∧ s.th.innerFork = 0 ∧ s.th.fork = some ⟨0, 0, 2, 0⟩
        ∧ (s.counters.joins.find? (fun x => x.die == 0 && x.pool == 0 && x.cell == 2)) = some ⟨0, 0, 2, 1, 5, 0x1A⟩)
    ∧ (let s := W.by W.forked fun t => { t with innerFork := 2 }; s.th.innerFork ≠ 0 ∧ s.th.ops = [] ∧ s.th.held = [] ∧ s.th.buf = [])
    ∧ W.task.th.innerFork = 0 := by decide +kernel

/-- The small machine with a store to 0x2_0000 that waits behind its thread. -/
def W.lagging : State := W.by W.mem fun t => { t with buf := [⟨0, [(⟨0x20000, 8, 0, 0, 0, 0x20000⟩, bytesOfNat 8 7)], 0x10000, 0, 0, false, 0⟩] }

/-- The small machine with a transaction under way on the line at 0x2_0000. -/
def W.busy : State := { W.mem with caches := { W.mem.caches with dir := [⟨0x20000, 1, 0, 0, 0⟩] } }

theorem witness_ScalarMemoryAccess :
    (let s := W.mem; let x := s.rs 4 + BitVec.ofInt 64 (8 * s.th.imm 10 3)
      calm s ∧ x.toNat % 8 = 0 ∧ onNormal s x 8 true false W.page ∧ onNormal s x 8 false true W.page ∧ s.th.inShadow = false
        ∧ s.orderWaits 1 x = false ∧ s.orderWaits 2 x = false)
    ∧ (W.put W.mem [(4, 0x20001)]).rs 4 % 2 ≠ 0
    ∧ (W.lagging.orderWaits 2 0x20000 = true)
    ∧ (let s := W.mem; ∃ ps, s.checkAccess s.th 0x20000 8 8 .load 0 = .ok ps
        ∧ (((s.dataCheck s.th.agent ps false).toOption == some ()) && !s.loadWaits s.th ps && !s.deviceWaits ps) = true)
    ∧ (let s := W.busy; ∃ ps, s.checkAccess s.th 0x20000 8 8 .load 0 = .ok ps
        ∧ (((s.dataCheck s.th.agent ps false).toOption == some ()) && s.loadWaits s.th ps) = true)
    ∧ (let s := W.shadow; s.th.inShadow = true ∧ s.orderWaits 0 0x20000 = false
        ∧ ∃ ps, s.checkAccess s.th 0x20000 8 8 .store 0 = .ok ps ∧ (!ps.isEmpty) = true)
    ∧ (let s := W.mem; ∃ ps, s.checkAccess s.th 0x20000 8 8 .store 0 = .ok ps
        ∧ (((s.dataCheck s.th.agent ps true).toOption == some ()) && !s.storeLags s.th (spread ps (bytesOfNat 8 5))) = true)
    ∧ (let s := W.lagging; ∃ ps, s.checkAccess s.th 0x20000 8 8 .store 0 = .ok ps
        ∧ (((s.dataCheck s.th.agent ps true).toOption == some ()) && s.storeLags s.th (spread ps (bytesOfNat 8 5))) = true)
    ∧ (∃ c v, W.mem.checkAccess W.mem.th 0x30000 8 8 .load 0 = .error (c, v))
    ∧ ∃ c v, W.mem.checkAccess W.mem.th 0x30000 8 8 .store 0 = .error (c, v) :=
  ⟨⟨W.calmOf (by decide +kernel), by unfold onNormal onNormalOf; decide +kernel⟩, by decide +kernel, by decide +kernel,
    W.okWith (by decide +kernel), W.okWith (by decide +kernel),
    ⟨by decide +kernel, by decide +kernel, W.okWith (by decide +kernel)⟩, W.okWith (by decide +kernel), W.okWith (by decide +kernel),
    W.refusedAs (by decide +kernel), W.refusedAs (by decide +kernel)⟩

theorem witness_FormatAndTailMemoryAccess :
    calm W.mem
    ∧ (let s := W.mem; s.th.inShadow = false ∧ onNormal s (s.rs 4) 40 true false W.page
      ∧ onNormal s (s.rs 4) 40 false true W.page ∧ onNormal s (s.rs 4) 16 true false W.page ∧ onNormal s (s.rs 4 + BitVec.ofInt 64 (s.th.imm 14 16)) 16 false true W.page
      ∧ (s.rs 4 + BitVec.ofInt 64 (s.th.imm 14 16)).toNat % 16 = 0
      ∧ Instr.check (.fld 3 4 1 0 2) = none ∧ (s.rs 4 + BitVec.ofInt 64 (fmtBytes 1 * s.th.imm 8 2)).toNat % fmtBytes 1 = 0
      ∧ Instr.check (.fst 0 4 4 0 2) = none
      ∧ ((fmtOf 4).roundImg (rmOf 0 s.th.rm) (imgS (s.th.getS 0)).1 (imgS (s.th.getS 0)).2).2 &&& s.th.enables = 0)
    ∧ (let s := W.by W.mem fun t => { t with fcsr := 0x3E0, s := t.s.set 5 ⟨0x38, 3⟩ }
      ((fmtOf 4).roundImg (rmOf 0 s.th.rm) (imgS (s.th.getS 5)).1 (imgS (s.th.getS 5)).2).2 &&& s.th.enables ≠ 0) :=
  ⟨W.calmOf (by decide +kernel), by unfold onNormal onNormalOf; decide +kernel⟩

/-- The small machine with the slot offsets 0, 4, … 28 in v7. -/
def W.slots : State :=
  W.by W.mem fun t => { t with v := t.v.set 7 ⟨0x0000001C0000001800000014000000100000000C000000080000000400000000, 0⟩ }

/-- The same with a tail on the one of slot 1. -/
def W.tailed : State := W.by W.slots fun t => { t with v := t.v.set 7 ⟨0x0000001C0000001800000014000000100000000C000000083F80000000000000, 0x0100⟩ }

theorem witness_VectorMemoryAccess :
    calm W.slots ∧ W.slots.th.inShadow = false ∧ (W.slots.th.getV 7).tail = 0
      ∧ (∀ p ∈ vectorLoads W.slots 6 4 7 0 0 0 0, ∀ j, j < 8 → W.slots.th.active 0 32 j = true
          ∧ (p.2 j).toNat % 4 = 0 ∧ onNormal W.slots (p.2 j) 4 true false W.page)
      ∧ (∀ p ∈ vectorStores W.slots 7 4 7 0 0 0, ∀ j, j < 8 → W.slots.th.active 0 32 j = true
          ∧ (p.2 j).toNat % 4 = 0 ∧ onNormal W.slots (p.2 j) 4 false true W.page)
      ∧ (let v := W.tailed.th.getV 7; W.tailed.th.inShadow = false ∧ v.tail ≠ 0 ∧ storedFlags W.tailed v 0 ≠ 0
        ∧ storedFlags W.tailed v 0 &&& W.tailed.th.enables = 0)
      ∧ (let s := W.by W.tailed fun t => { t with fcsr := 0x3E0 }; storedFlags s (s.th.getV 7) 0 &&& s.th.enables ≠ 0) := by
  unfold onNormal onNormalOf
  refine ⟨W.calmOf (by decide +kernel), by decide +kernel, by decide +kernel, ?_, ?_, by decide +kernel, by decide +kernel⟩
  · simp only [vectorLoads, List.forall_mem_cons]; exact ⟨by decide +kernel, by decide +kernel, by decide +kernel, by simp⟩
  · simp only [vectorStores, List.forall_mem_cons]; exact ⟨by decide +kernel, by decide +kernel, by decide +kernel, by simp⟩

theorem witness_AtomicsTakeTheOldValue :
    onNormal W.mem (W.mem.rs 4) 8 true true W.page ∧ calm W.mem ∧ (W.mem.rs 4).toNat % 8 = 0
      ∧ W.mem.coveredOut W.mem.th (some (objOf (W.mem.rs 4))) = false
      ∧ ((W.put W.mem [(4, 0x20004)]).rs 4).toNat % 8 ≠ 0
      ∧ (let s := W.lagging; ∃ ps, s.checkAccess s.th 0x20000 8 8 .amo s.th.hrq = .ok ps
          ∧ (((s.dataCheck s.th.agent ps false).toOption == some ())
            && s.atomWaits s.th (ps.map (fun p => p.atomic (dieOf s.th.hwid))) 5 0x20000) = true)
      ∧ ∃ c v, W.mem.checkAccess W.mem.th 0x30000 8 8 .amo W.mem.th.hrq = .error (c, v) := by
  refine ⟨by unfold onNormal onNormalOf; decide +kernel, W.calmOf (by decide +kernel), ?_, ?_, ?_,
    W.okWith (by decide +kernel), W.refusedAs (by decide +kernel)⟩ <;> decide +kernel

/-- The small machine's memory before a thread of a B-core. -/
def W.native : State := W.by W.mem fun t => { t with hwid := 0x10104 }

theorem witness_WideAtomicsShipOrPerform :
    isB W.mem.th.hwid = false ∧ (∀ p ∈ wides 6 4 8 5, Instr.check p.1 = none) ∧ calm W.native
      ∧ (let s := W.native; let x := s.rs 4
        isB s.th.hwid = true ∧ s.coveredOut s.th (some (objOf x)) = false ∧ x.toNat % 32 = 0 ∧ onNormal s x 32 true true W.page
          ∧ onNormal s x 16 true true W.page ∧ onNormal s x 8 true true W.page ∧ onNormal s x 4 true true W.page
          ∧ (faddaSum F32 s.th.rm (numberAt s (paOf W.page x) 4) (imgS (s.th.getS 5))).2 &&& s.th.enables = 0)
      ∧ (let s := W.by (W.put W.native [(5, 0x3F800001)]) fun t => { t with fcsr := 0x3E0 }
        (faddaSum F32 s.th.rm (numberAt s (paOf W.page (s.rs 4)) 4) (imgS (s.th.getS 5))).2 &&& s.th.enables ≠ 0)
      ∧ ((W.put W.native [(4, 0x20002)]).rs 4).toNat % 4 ≠ 0 :=
  ⟨by decide +kernel, by simp only [wides, List.forall_mem_cons]; decide +kernel, W.calmOf (by decide +kernel),
    by unfold onNormal onNormalOf; decide +kernel, by decide +kernel, by decide +kernel⟩

theorem witness_AppendSealAndFreeStart :
    (let s := W.paged 2; (∃ ps, s.checkUnit s.th (s.rs 4) 1 .append 0 = .ok ps ∧ ((ps.length : Nat) == 1) = true)
      ∧ (∃ ps, s.checkUnit s.th (s.rs 4) 1 .sealing 0 = .ok ps ∧ ((ps.length : Nat) == 1) = true)
      ∧ (∃ ps, s.checkUnit s.th (s.rs 4) 1 .tailq 0 = .ok ps
          ∧ (pageNo (ps.headD ⟨0, 0, 0, 0, 0, 0⟩).key == 2 && !s.appendsOut s.th 2
            && !s.homeHolds (some (.core 0)) false (lineOf (ps.headD ⟨0, 0, 0, 0, 0, 0⟩).key) (s.homeOf 0x20000)) = true))
    ∧ (let s := { W.by (W.paged 2) (fun t => { t with ops := [W.op (.s 6) (.append 0x20000 2 [1])] }) with pending := [.appendArrival 0 0] }
      (∃ ps, s.checkUnit s.th (s.rs 4) 1 .tailq 0 = .ok ps ∧ s.appendsOut s.th 2 = true))
    ∧ (let s := { W.paged 2 with caches := { (W.paged 2).caches with appendPages := [⟨2, 0, 0, false, some 0, 0x3810, [], [], [], []⟩] } }
      (∃ ps, s.checkUnit s.th (s.rs 4) 1 .tailq 0 = .ok ps ∧ (!s.appendsOut s.th 2
        && s.homeHolds (some (.core 0)) false (lineOf (ps.headD ⟨0, 0, 0, 0, 0, 0⟩).key) (s.homeOf 0x20000)) = true))
    ∧ (let s := W.paged 0; (∃ c v, s.checkUnit s.th (s.rs 4) 1 .append 0 = .error (c, v))
      ∧ (∃ c v, s.checkUnit s.th (s.rs 4) 1 .sealing 0 = .error (c, v)) ∧ ∃ c v, s.checkUnit s.th (s.rs 4) 1 .tailq 0 = .error (c, v))
    ∧ (let s := W.paged 3; let x := s.rs 4; x.toNat % 65536 = 0 ∧ x.toNat < 0x800000000000
        ∧ leased s.th.leases x.toNat true true = true ∧ ∃ l, s.leaf? s.th x.toNat = some l
          ∧ (l.cls == 3 && s.awake l.home && !(State.awake { s with layers := [⟨l.home, .asleep⟩] } l.home)) = true) := by
  refine ⟨⟨W.okWith (by decide +kernel), W.okWith (by decide +kernel), W.okWith (by decide +kernel)⟩,
    W.okWith (by decide +kernel), W.okWith (by decide +kernel),
    ⟨W.refusedAs (by decide +kernel), W.refusedAs (by decide +kernel), W.refusedAs (by decide +kernel)⟩,
    ?_, ?_, ?_,
    W.someWith (by decide +kernel)⟩ <;> decide +kernel

/-- The small machine with copies in the die caches, an address in s4 and a length in s5. -/
def W.dirty (n x : Word) : State :=
  let s := W.put W.mem [(4, x), (5, n)]
  { s with caches := { s.caches with dieCopies := [⟨0, 0x20000, 0x0123456789ABCDEF, 0x81⟩, ⟨0, 0x20040, 0, 0⟩, ⟨1, 0x20000, 0, 0xFF⟩] } }

theorem witness_RangesReachTheDieCopies :
    (let s := W.dirty 128 0x20000; let x := s.rs 4
      calm s ∧ s.putbIn s.th x.toNat 128 = false ∧ (s.rs 5).toNat ≠ 0 ∧ s.th.buf = []
        ∧ s.rangeCheck s.th true true (fun _ => none) x.toNat 128 = .ok ()
        ∧ s.rangeCheck s.th true false (fun _ => none) x.toNat 128 = .ok () ∧ (∃ c ∈ s.caches.dieCopies, inRangeOf s 128 x c ∧ c.dirty ≠ 0)
        ∧ x.toNat % 64 = 0 ∧ onNormal s x 128 false true W.page ∧ (∀ j, j < 128 → s.leaf? s.th (x.toNat + j) = some W.page)
        ∧ W.page.size % 65536 = 0
        ∧ onNormal s x 1 true false W.page ∧ (s.rs 5).getLsbD 0 = false ∧ s.th.agent.l1 = false)
    ∧ (let s := W.dirty 64 0x20040; s.rangeCheck s.th true true (fun _ => none) (s.rs 4).toNat 64 = .ok ()
        ∧ s.putbIn s.th (s.rs 4).toNat 64 = false ∧ (∀ c ∈ s.caches.dieCopies, ¬ (inRangeOf s 64 (s.rs 4) c ∧ c.dirty ≠ 0))
        ∧ ∃ c ∈ s.caches.dieCopies, inRangeOf s 64 (s.rs 4) c)
    ∧ (let s := { W.dirty 128 0x20000 with pending := [.putb ⟨0x20000, 0, 0, 1, 0⟩ 1 7] }
      s.rangeCheck s.th true true (fun _ => none) (s.rs 4).toNat 128 = .ok () ∧ s.putbIn s.th (s.rs 4).toNat 128 = true)
    ∧ (let o := W.op (.s 6) (.range [(0x20000, 0x20000)]); let s := W.by W.mem fun t => { t with ops := [o] }
      s.th.live = true ∧ s.th.hwid ≠ orphanId ∧ s.th.wait = .none ∧ dieOf s.th.hwid = 0 ∧ s.putbOut 0 0x20000 = false
        ∧ s.rangesOn 0 0x20000 = [(s.th, o)] ∧ s.caches.homeQ = [])
    ∧ (let s := W.by (W.dirty 0 0x20000) fun t => { t with poolb3 := 0x2000 }; s.th.agent.l1 = true
        ∧ onNormal s (s.rs 4) 1 true false W.page ∧ s.poolServes s.th.agent (lineOf (paOf W.page (s.rs 4))) 2 false = false)
    ∧ ((W.dirty 0 0x20000).rs 5).toNat = 0 ∧ ((W.dirty 0 0x20020).rs 4).toNat % 64 ≠ 0
    ∧ (let s := W.dirty 30 0x30000; (s.rs 4).toNat % 64 = 0 ∧ (s.rs 5).toNat % 64 ≠ 0
        ∧ leased s.th.leases (s.rs 4).toNat true false = false
        ∧ (∃ c v, s.rangeCheck s.th true false (fun _ => none) (s.rs 4).toNat (s.rs 5).toNat = .error (c, v))
        ∧ ∃ c v, s.rangeCheck s.th true true (fun _ => none) (s.rs 4).toNat (s.rs 5).toNat = .error (c, v)) := by
  refine ⟨⟨W.calmOf (by decide +kernel), ?_, ?_, ?_, W.okAs (by decide +kernel),
      W.okAs (by decide +kernel), by unfold inRangeOf; decide +kernel, ?_, by unfold onNormal onNormalOf; decide +kernel,
      ?_, ?_, by unfold onNormal onNormalOf; decide +kernel, ?_, ?_⟩,
    ⟨W.okAs (by decide +kernel), by unfold inRangeOf; decide +kernel⟩, ⟨W.okAs (by decide +kernel), ?_⟩,
    ?_, by unfold onNormal onNormalOf; decide +kernel,
    ?_, ?_, ?_, ?_, ?_,
    W.refusedAs (by decide +kernel), W.refusedAs (by decide +kernel)⟩ <;> decide +kernel

/-- The small machine with two KiB of stash in its pool, an address in s4 and what s5 says of the stash. -/
def W.stash (x y : Word) : State := W.by (W.put W.mem [(4, x), (5, y)]) fun t => { t with poolb1 := 0x2000 }

/-- The same with a mapped line, dirty. -/
def W.mapped (x y : Word) : State :=
  let s := W.stash x y
  { s with mem := Memory.write64 s.mem (2 ^ 52 + 0x100) 0x55,
           caches := { s.caches with stashMaps := [⟨0, 0, 0x100, 0x20000, 0x80, 0⟩], stashLines := [⟨0, 0, 0x100, true⟩] } }

theorem witness_StashMapsAndFlushes :
    (let s := W.stash 0x20000 (0x40 * 2 ^ 32 + 0x1FC0);
      (s.rs 5).extractLsb' 20 12 = 0 ∧ ((s.rs 5).extractLsb' 32 32).toNat = 0x40 ∧ 0x1FC0 + 0x40 ≤ poolB s.th.poolb1
        ∧ s.mapClash s.th 0x1FC0 0x40 0x20000 = false ∧ s.caches.stashMaps.length < 32 ∧ Memory.wf s.mem = true
        ∧ s.th.buf = [] ∧ s.rangeCheck s.th true true (fun c => if c = 0 then none else some 0x05) 0x20000 0x40 = .ok ())
    ∧ (let s := W.mapped 0x20000 0x100; (s.rs 5).extractLsb' 20 12 = 0 ∧ ((s.rs 5).extractLsb' 32 32).toNat = 0
        ∧ (∃ m ∈ s.caches.stashMaps, m.off.toNat = 0x100) ∧ s.th.buf = [] ∧ ∀ l : BitVec 52, s.homeHolds none false l.toNat (s.homeOf l) = false)
    ∧ ((W.stash 0x20000 0x100140).rs 5).extractLsb' 20 12 ≠ 0
    ∧ (let s := W.stash 0x20020 (0x40 * 2 ^ 32); ((s.rs 5).extractLsb' 32 32).toNat ≠ 0 ∧ (s.rs 4).toNat % 64 ≠ 0)
    ∧ (let s := W.mapped 0x800000000000 0x2000; 0x800000000000 ≤ (s.rs 4).toNat
        ∧ (s.rs 4).toNat + (s.rs 5).toNat ≤ 0x800000000000 + poolB s.th.poolb1 ∧ Memory.wf s.mem = true
        ∧ s.caches.stashLines = [⟨0, 0, 0x100, true⟩] ∧ flushed s (s.rs 4).toNat (s.rs 5).toNat ⟨0, 0, 0x100, true⟩
        ∧ s.stashGlobal 0 0 0x100 = some 0x20000 ∧ s.th.buf = [] ∧ ∀ l : BitVec 52, s.homeHolds none false l.toNat (s.homeOf l) = false)
    ∧ (let s := W.stash 0x800000000000 0x2001; 0x800000000000 + poolB s.th.poolb1 < (s.rs 4).toNat + (s.rs 5).toNat)
    ∧ ((W.stash 0x7FFFFFFFFFFF 1).rs 4).toNat < 0x800000000000 := by
  refine ⟨⟨?_, ?_, ?_, ?_, ?_, ?_,
      ?_, W.okAs (by decide +kernel)⟩,
    ⟨?_, ?_, ?_, ?_, fun _ => W.homesTake (by decide +kernel) _ _⟩, ?_, ?_,
    ⟨?_, ?_, ?_, ?_, by unfold flushed; decide +kernel, ?_,
      ?_, fun _ => W.homesTake (by decide +kernel) _ _⟩, ?_, ?_⟩ <;> decide +kernel

theorem witness_FencesAndBindingsComplete :
    (W.lagging.coreOut W.lagging.th = true ∧ W.lagging.coveredOut W.lagging.th (some 0x20000) = true)
    ∧ (W.task.coreOut W.task.th = false ∧ W.task.coveredOut W.task.th (some 0x20000) = false)
    ∧ (let s := { W.task with queues := { W.task.queues with bellQ := [⟨0, 0, [⟨0, 0, 0, 0, 0, 0, 0⟩]⟩] } };
      s.bellOut s.th.hwid 0 = true)
    ∧ W.task.bellOut W.task.th.hwid 5 = false ∧ calm W.mem
    ∧ (let s := W.mem; let x := s.rs 4; x.toNat % 8 = 0 ∧ onNormal s x 8 true false W.page ∧ onNormal s x 8 false true W.page
        ∧ s.coveredOut s.th (some x) = false ∧ s.th.inShadow = false)
    ∧ ((W.put W.mem [(4, 0x20001)]).rs 4).toNat % 8 ≠ 0
    ∧ (let y : Word := 0x0001000000020000; y.toNat % 512 = 0 ∧ y.extractLsb' 48 16 ≠ 0 ∧ W.task.th.bindings.length < 8)
    ∧ (0x20100 : Word).toNat % 512 ≠ 0 ∧ ((0x20000 : Word).toNat % 512 = 0 ∧ (0x20000 : Word).extractLsb' 48 16 = 0)
    ∧ (let s := W.by W.task fun t => { t with bindings := List.replicate 8 ⟨1, 0x200, 3⟩ };
        8 ≤ (s.th.bindings.filter (fun r => !(r.obj == 0x20000 && r.base == 0x20000))).length) := by
  refine ⟨?_, ?_, ?_, ?_, W.calmOf (by decide +kernel),
    by unfold onNormal onNormalOf; decide +kernel⟩ <;> decide +kernel

/-- The small machine before a doorbell page whose frame gives its partition a slot. -/
def W.bell : State :=
  let s := W.by (W.put (W.paged 4) [(5, 77)]) fun t => { t with part := 1 }
  { s with tables := { s.tables with belltab := [(0, 3, 0x4001)] } }

/-- The same with its send queue full. -/
def W.bellFull : State := { W.bell with queues := { W.bell.queues with bellQ := [⟨0, 1, List.replicate 64 ⟨0, 0, 0, 0, 0, 0, 0⟩⟩] } }

theorem witness_BellWritesEnterTheirQueue :
    (let s := W.bell; (∃ ps, s.checkAccess s.th (s.rs 4) 8 8 .bst 0 = .ok ps ∧ (ps.length == 8 || ps.length == 1) = true)
      ∧ (∃ ps, s.checkAccess s.th (s.rs 4) 8 8 .bamo 0 = .ok ps ∧ (ps.length == 8 || ps.length == 1) = true)
      ∧ s.ownsBellSlot (dieOf s.th.hwid) s.th.part = true ∧ s.bellFull = false)
    ∧ (let s := W.bellFull; (∃ ps, s.checkAccess s.th (s.rs 4) 8 8 .bst 0 = .ok ps ∧ (ps.length == 8 || ps.length == 1) = true)
      ∧ (∃ ps, s.checkAccess s.th (s.rs 4) 8 8 .bamo 0 = .ok ps ∧ (ps.length == 8 || ps.length == 1) = true)
      ∧ s.ownsBellSlot (dieOf s.th.hwid) s.th.part = true ∧ s.bellFull = true)
    ∧ (let s := W.by W.bell fun t => { t with part := 2 }; (∃ ps, s.checkAccess s.th (s.rs 4) 8 8 .bst 0 = .ok ps ∧ (ps.length == 8 || ps.length == 1) = true)
      ∧ s.ownsBellSlot (dieOf s.th.hwid) s.th.part = false)
    ∧ ((W.put W.bell [(4, 0x20004)]).rs 4).toNat % 8 ≠ 0 :=
  ⟨⟨W.okWith (by decide +kernel), W.okWith (by decide +kernel), by decide +kernel, by decide +kernel⟩,
    ⟨W.okWith (by decide +kernel), W.okWith (by decide +kernel), by decide +kernel, by decide +kernel⟩,
    ⟨W.okWith (by decide +kernel), by decide +kernel⟩, by decide +kernel⟩

/-- The small machine's thread in a group whose HMOD sets the element width `e` and, with `sat`, saturation; v1 is a mask. -/
def W.lanes (e : Nat) (sat : Bool) : State :=
  (W.by W.mem (fun t => { t with pfx := some ⟨0x10000, none, none, some (BitVec.ofNat 22 (e * 2 ^ 20 + if sat then 2 ^ 10 else 0)), false⟩ })).wv 1
    ⟨0x0000000100000000000000010101010000000001000000010001000000000101, 0⟩

theorem witness_VectorLanesCompute :
    (10 : BitVec 6).toNat < 48 ∧ (W.lanes 0 true).th.ew = 32 ∧ (W.lanes 0 true).th.sat = true ∧ (W.lanes 2 false).th.ew = 8
      ∧ (W.lanes 3 false).th.ew = 64 ∧ (W.lanes 0 true).th.active 1 32 0 = true ∧ (W.lanes 0 true).th.active 1 32 6 = false := by
  decide +kernel

theorem witness_VectorReductionsCompute : (47 : BitVec 6).toNat < 48 ∧ (7 : BitVec 6).toNat < 8 := by decide +kernel

theorem witness_VectorElementsAndPermutations :
    (47 : BitVec 6).toNat < 48
      ∧ (let s := W.put (W.lanes 0 false) [(5, 7)]; (s.rs 5).toNat < 256 / s.th.ew ∧ s.th.active 1 s.th.ew 7 = true)
      ∧ (let s := W.put (W.lanes 0 false) [(5, 6)]; (s.rs 5).toNat < 256 / s.th.ew ∧ s.th.active 1 s.th.ew 6 = false)
      ∧ (let s := W.put (W.lanes 0 false) [(5, 8)]; 256 / s.th.ew ≤ (s.rs 5).toNat) := by decide +kernel

/-- Two F32 values in s4 and s5, and every trap enable. -/
def W.floats (en : Word) : State := W.by (W.put W.mem [(4, 0x3F800000), (5, 0x33800001), (6, 0x7F800001)]) fun t => { t with fcsr := en }

theorem witness_ScalarFloatsComputeOrShip :
    (let s := W.floats 0x3E0; isB s.th.hwid = false ∧ ¬ shipsFloat 0 1 ∧ shipsFloat 3 1
      ∧ (fpsScalar 0 (fmt2 1) s.th.rm false (s.th.getS 4) (s.th.getS 5) (s.th.getS 3)).2 &&& s.th.enables ≠ 0
      ∧ (fpsScalar 0 (fmt2 1) s.th.rm false (s.th.getS 4) (s.th.getS 4) (s.th.getS 3)).2 &&& s.th.enables = 0)
    ∧ isB W.native.th.hwid = true := by unfold shipsFloat; decide +kernel

theorem witness_ScalarFloatBitsAndOrder :
    let s := W.floats 0; (1 : BitVec 2) ≠ 0 ∧ (s.th.getS 4).tail = 0 ∧ (s.th.getS 5).tail = 0
      ∧ ¬ nanBits (fmt2 1) ((s.rs 4).toNat % 2 ^ (fmt2 1).w) ∧ ¬ nanBits (fmt2 1) ((s.rs 5).toNat % 2 ^ (fmt2 1).w)
      ∧ (nanBits (fmt2 1) ((s.rs 6).toNat % 2 ^ (fmt2 1).w) ∧ ¬ quietBits (fmt2 1) ((s.rs 6).toNat % 2 ^ (fmt2 1).w))
      ∧ (quietBits (fmt2 1) 0x7FC00000 ∧ quietBits (fmt2 1) 0xFFFFFFFF ∧ (fmt2 1).num 0x7F800000 = .inf false)
      ∧ (fmt2 1).num ((s.rs 4).toNat % 2 ^ (fmt2 1).w) = .fin false 0x800000 (-23) ∧ s.th.rm.toNat ≤ 4 := by
  unfold quietBits nanBits; decide +kernel

theorem witness_ConversionsComputeOrShip :
    isB W.mem.th.hwid = false ∧ isB W.native.th.hwid = true
      ∧ (let s := W.floats 0x3E0; (convert 1 3 1 s.th.rm (s.rs 5).toNat 0).2.2 &&& s.th.enables ≠ 0
          ∧ (convert 1 3 1 s.th.rm (s.rs 4).toNat 0).2.2 &&& s.th.enables = 0) := by decide +kernel

theorem witness_VectorFloatsComputeOrShip :
    (47 : BitVec 6).toNat < 48 ∧ isB W.mem.th.hwid = false ∧ isB W.native.th.hwid = true ∧ shipsFloat 3 1 ∧ ¬ shipsFloat 0 1
      ∧ (let s := (W.by W.mem fun t => { t with fcsr := 0x3E0 }).wv 8 ⟨0x3F800000, 0⟩
        laneFlags s 0 32 (fun i => (floatLane s 3 (fmt2 1) 10 8 9 i).2.2) &&& s.th.enables ≠ 0
          ∧ laneFlags s 0 32 (fun i => (floatLane s 0 (fmt2 1) 10 8 9 i).2.2) &&& s.th.enables = 0) := by
  unfold shipsFloat; decide +kernel

/-- The small machine with tiles 3, 4 and 5 configured as 4 by 32 elements, on a B-core, a base in s4 and a stride in s5. -/
def W.tiles (d a b x y : Word) (f : Thread → Thread) : State :=
  W.by (W.put W.native [(4, x), (5, y)]) fun t => f (((t.setTile 3 ⟨d, 0, 0⟩).setTile 4 ⟨a, 0x3F, 0⟩).setTile 5 ⟨b, 0x21, 0⟩)

theorem witness_TilesCheckAndShip :
    (let s := W.mem; matCheck (some s.th.grant.toNat) (fun n => (s.th.tile n).tc) 8 3 4 0 0 0 = some 1)
      ∧ (let s := W.by W.mem fun t => { t with grant := 5, tileTC := t.tileTC.set 4 0xE2004 }
        isB s.th.hwid = false ∧ matCheck (some s.th.grant.toNat) (fun n => (s.th.tile n).tc) 8 3 4 0 0 0 = none) := by
  decide +kernel

theorem witness_TileRegistersMove :
    (let s := W.tiles 0xE2004 0xE2004 0 0xE2004 33 id;
      isB s.th.hwid = true ∧ tcValid (s.rs 4) = true ∧ (s.th.tile 4).tc ≠ 0 ∧ (s.th.tile 5).tc = 0 ∧ (s.th.tile 3).tc ≠ 0
        ∧ tcValid (s.th.tile 3).tc = true ∧ cellFlags (s.th.tile 3) (fun _ _ => 0) &&& s.th.enables = 0)
    ∧ tcValid (W.mem.rs 4) = false
    ∧ (let s := W.tiles 0x10404 0xE2004 0 0x20000 0 fun t => { (t.setV 8 ⟨0x3F800000, 3⟩) with fcsr := 0x3E0 };
      ((fmtOf 1).roundImg s.th.rm 0x3F800000 3).2 &&& s.th.enables ≠ 0) := by decide +kernel

theorem witness_TilesLoadAndStore :
    calm (W.tiles 0xE2004 0 0 0x20000 32 id)
    ∧ (let s := W.tiles 0xE2004 0 0 0x20000 32 id;
      isB s.th.hwid = true ∧ (s.th.tile 3).tc ≠ 0 ∧ tcValid (s.th.tile 3).tc = true ∧ (s.rs 4).toNat % 16 = 0
        ∧ (s.rs 5).toNat % 16 = 0 ∧ ∀ r, r < tcRows (s.th.tile 3).tc →
            onNormal s (s.rs 4 + BitVec.ofInt 64 (r * (s.rs 5).toInt)) 32 true false W.page
              ∧ onNormal s (s.rs 4 + BitVec.ofInt 64 (r * (s.rs 5).toInt)) 32 false true W.page)
    ∧ ((W.tiles 0xE2004 0 0 0x20008 32 id).rs 4).toNat % 16 ≠ 0 ∧ ((W.tiles 0xE2004 0 0 0x20000 40 id).rs 5).toNat % 16 ≠ 0
    ∧ calm (W.tiles 0xE2004 0 0 0x20000 2 id)
    ∧ (let s := W.tiles 0xE2004 0 0 0x20000 2 id;
      tcFmt (s.th.tile 3).tc = 14 ∧ tcMx (s.th.tile 3).tc = false ∧ tcCols (s.th.tile 3).tc % 32 = 0 ∧ 2 ≤ (s.rs 5).toNat ∧ (s.rs 5).toNat ≤ 8 ∧ (s.rs 4).toNat % 128 = 0
        ∧ ∀ i, i < tcCols (s.th.tile 3).tc / 32 * (s.rs 5).toNat → onNormal s (s.rs 4 + BitVec.ofNat 64 (1024 * (i / 2) + 128 * (i % 2))) 128
            true false W.page)
    ∧ ((W.tiles 0xE2004 0 0 0x20040 2 id).rs 4).toNat % 128 ≠ 0
    ∧ calm (W.tiles 0x142004 0 0 0x20000 16 id)
    ∧ (let s := W.tiles 0x142004 0 0 0x20000 16 id; tcMx (s.th.tile 3).tc = true ∧ tcValid (s.th.tile 3).tc = true
        ∧ ∀ r, r < tcRows (s.th.tile 3).tc → onNormal s (s.rs 4 + BitVec.ofInt 64 (r * (s.rs 5).toInt)) 1 true false W.page) := by
  unfold onNormal onNormalOf
  refine ⟨W.calmOf (by decide +kernel), ?_, ?_, ?_, W.calmOf (by decide +kernel),
    ?_, ?_, W.calmOf (by decide +kernel), ?_⟩ <;> decide +kernel

theorem witness_TilesMultiplyAndConvert :
    (let s := W.tiles 0x90404 0xE2004 0xE2004 0 0 id; let D := s.th.tile 3; let A := s.th.tile 4; let B := s.th.tile 5
      isB s.th.hwid = true ∧ D.tc ≠ 0 ∧ A.tc ≠ 0 ∧ B.tc ≠ 0 ∧ tcValid D.tc = true ∧ tcRows A.tc = tcRows D.tc ∧ tcRows B.tc = tcCols D.tc
        ∧ tcCols B.tc = tcCols A.tc ∧ tcMx D.tc = false ∧ matD (tcFmt A.tc) (tcFmt B.tc) = some (tcFmt D.tc) ∧ tcFmt A.tc = 14)
    ∧ (let s := W.tiles 0x90504 0xE2004 0xE2004 0 0 id; tcRows (s.th.tile 5).tc ≠ tcCols (s.th.tile 3).tc)
    ∧ (let s := W.tiles 0x32004 0x12004 0 0 0 id; let D := s.th.tile 3; let A := s.th.tile 4
      D.tc ≠ 0 ∧ A.tc ≠ 0 ∧ tcValid D.tc = true ∧ tcMx D.tc = false ∧ tcMx A.tc = false ∧ tcRows A.tc = tcRows D.tc
        ∧ tcCols A.tc = tcCols D.tc ∧ pairOk (tcFmt A.tc) (tcFmt D.tc) = true)
    ∧ (let s := W.tiles 0xE2004 0xE2004 0 0 0 id; pairOk (tcFmt (s.th.tile 4).tc) (tcFmt (s.th.tile 3).tc) = false) := by
  decide +kernel

/-- A command block at 0x2_0100 with its last word `p`, on a B-core. -/
def W.command (p : Word) (en : Word) : State :=
  let ws : List Word := [0x0001000000021000, 0x0001000000022000, 0, 0x0001000000023000, 0, 0, 0x0000000400020003, p]
  W.by (W.put { W.mem with mem := ws.zipIdx.foldl (fun m p => Memory.writeNat m (0x20100 + 8 * p.2) 8 p.1.toNat) W.mem.mem } [(4, 0x20100)])
    fun t => { t with hwid := 0x10000, fcsr := en, poolb1 := 0x2000 }

/-- A matrix command that waits. -/
def W.idleCommand : McqEntry := ⟨0, 0, 0, true, 0, 0, [], 0, 0, 0, 0, 0, 0, 0, [], [], false, false, false, none, false, false, 0, 0⟩

theorem witness_MatrixCommandsEnterTheirQueue :
    isB W.mem.th.hwid = false ∧ isB (W.command 0x5000EE 0).th.hwid = true
      ∧ (let s := W.command 0x5000EE 0; let r := s.mmsCheck s.th 0x20100
        (∃ b, r.2 = some (.ok b) ∧ (b.length == 9) = true) ∧ (r.1.bcore 0).mcq.length < 16 ∧ s.th.enables = 0)
      ∧ (let s := W.command 0x5000EE 0x3E0; let r := s.mmsCheck s.th 0x20100
        (∃ b, r.2 = some (.ok b) ∧ (b.length == 9) = true) ∧ s.th.enables ≠ 0)
      ∧ (let s := W.command 0x5000EF 0; (match (s.mmsCheck s.th 0x20100).2 with | some (.error (.perm _)) => true | _ => false) = true)
      ∧ (let s := W.by (W.command 0x5000EE 0) fun t => { t with leases := [] }
        (match (s.mmsCheck s.th 0x20100).2 with | some (.error (.trap c _)) => c == 0x04 | _ => false) = true)
      ∧ (let s := W.command 0x5000EE 0; (({ s with caches := { s.caches with dir := [⟨0x20000, 0x10, 0, 0, 0⟩] } } : State).mmsCheck s.th 0x20100).2 = none)
      ∧ (0x20120 : Word).toNat % 64 ≠ 0
      ∧ (let s := W.command 0x5000EE 0
        let s := s.putBCore 0 { s.bcore 0 with mcq := List.replicate 16 W.idleCommand };
        let r := s.mmsCheck s.th 0x20100; (∃ b, r.2 = some (.ok b) ∧ (b.length == 9) = true) ∧ 16 ≤ (r.1.bcore 0).mcq.length) := by
  refine ⟨?_, ?_, ⟨W.passes (by decide +kernel), ?_, ?_⟩,
    ⟨W.passes (by decide +kernel), ?_⟩, ?_, ?_, ?_, ?_,
    W.passes (by decide +kernel), ?_⟩ <;> decide +kernel

/-- The small machine's thread with outstanding operations of generations 3, 4 and on. -/
def W.ops (l : List (Dst × OpKind)) : State :=
  W.by W.mem fun t => { t with ops := l.zipIdx.map (fun p => { W.op p.1.1 p.1.2 with gen := BitVec.ofNat 64 (p.2 + 3) }) }

theorem witness_FuturesAnswer :
    (let s := W.mem; s.th.ops.find? (fun o => o.dst.hasS 7) = none ∧ s.rs 5 = 0)
    ∧ (let s := W.ops [(.s 7, .evwait 1 3), (.v 5, .bamo), (.s 4, .ccnt 1 false)]
      s.th.ops.find? (fun o => o.dst.hasS 7) = s.th.ops.head? ∧ s.th.ops.head?.isSome ∧ (s.th.ops.find? (fun o => o.dst.hasV 5)).isSome
        ∧ (s.th.ops.find? (fun o => o.dst.hasV 5)).all (fun o => decide (o.kind = .bamo)) = true
        ∧ s.th.live = true ∧ s.th.hwid ≠ orphanId ∧ s.th.wait = .none ∧ (∀ p ∈ s.th.ops, ∀ o ∈ s.th.ops, p.gen = o.gen → p = o))
    ∧ ((∃ k, goesOn k) ∧ ∃ k, stopsWith k 0) ∧ (let s := W.ops [(.s 7, .chsend 1 0 none), (.s 8, .chsend 1 0 (some 3))]
      (s.th.ops.find? (fun o => o.dst.hasS 7)).any (fun o => o.gen == 3) && (s.th.ops.find? (fun o => o.dst.hasS 8)).any (fun o => o.gen == 4)) = true
    ∧ (let s := W.ops [(.s 7, .evwait 1 3)]; let x := tokenOf s.th.asid 3 7 0 s.th.hwid
      x ≠ 0 ∧ x.extractLsb' 56 8 = 0 ∧ x.extractLsb' 40 16 = s.th.asid ∧ hwidOk (x.extractLsb' 0 17) = true ∧ (s.tokenOp x).isSome
        ∧ s.tokenOp (tokenOf s.th.asid 4 7 0 s.th.hwid) = none)
    ∧ (tokenOf 99 3 7 0 0).extractLsb' 40 16 ≠ W.mem.th.asid ∧ tokenOf 99 3 7 0 0 ≠ 0 := by
  refine ⟨?_, ?_,
    ⟨⟨.bamo, .inr (.inr (.inr (.inr (.inl rfl))))⟩, ⟨.ccnt 0 false, .inr ⟨rfl, 0, false, rfl⟩⟩⟩,
    ?_, ?_, ?_, ?_⟩ <;> decide +kernel

/-- A copy descriptor: destination, source, and four words more. -/
def W.copyDesc (dst src l4 l5 l6 l7 : Nat) : VReg :=
  ⟨BitVec.ofNat 256 (dst + src * 2 ^ 64 + l4 * 2 ^ 128 + l5 * 2 ^ 160 + l6 * 2 ^ 192 + l7 * 2 ^ 224), 0⟩

/-- The small machine with a stash and a copy descriptor in v4. -/
def W.copies (x : VReg) : State := (W.by W.mem fun t => { t with poolb1 := 0x2000 }).wv 4 x

theorem witness_CopiesTakeAnEntry :
    (let s := W.copies (W.copyDesc 0x24000 0x20000 64 5 0 0); s.copyFull s.th.hwid = false ∧ s.copyBad 0 (s.th.getV 4) = none
        ∧ copySrcs 0 (s.th.getV 4) ≠ [])
    ∧ (let s := W.copies (W.copyDesc 0x24000 0x20000 0 5 0 0); s.copyBad 0 (s.th.getV 4) = none ∧ copySrcs 0 (s.th.getV 4) = []
        ∧ s.th.live = true ∧ s.th.hwid ≠ orphanId ∧ s.th.ops = [] ∧ s.th.wait = .none)
    ∧ (let s := W.copies (W.copyDesc 0x800000000100 0x20000 64 5 0 0); s.copyBad 2 (s.th.getV 4) = none ∧ maskPools (s.th.getV 4) = [])
    ∧ (let s := W.copies (W.copyDesc 0x24000 0x50000 64 5 0 0)
      (match s.copyBad 0 (s.th.getV 4) with | some (.trap _ _) => true | _ => false) = true)
    ∧ (let s := W.copies (W.copyDesc 0x24000 0x20000 64 0x15 0 0)
      (match s.copyBad 0 (s.th.getV 4) with | some (.perm _) => true | _ => false) = true)
    ∧ (let e : CopyEntry := ⟨0, 9, 0, 0, none, ⟨0, 0⟩, none, false⟩
      let s := { W.mem with queues := { W.mem.queues with copyQ := [(coreOf 0, e), (coreOf 0, { e with gen := 10 })] } }
      s.copyFull s.th.hwid = true) := by decide +kernel

/-- The small machine with `k` records in event queue `q` of its pool. -/
def W.events (k : Nat) (q : BitVec 3) : State :=
  W.mem.putEvq 0 0 q ((List.range k).map fun n => ⟨BitVec.ofNat 64 (n * 77), 0x10, 0, BitVec.ofNat 16 n, 2⟩)

theorem witness_EventQueuesAnswer :
    (let s := W.events 3 1; (s.evq 0 0 1).length = 3 ∧ dieOf s.th.hwid = 0 ∧ poolOf s.th.hwid = 0 ∧ s.th.live = true
      ∧ s.th.hwid ≠ orphanId ∧ s.th.ops = [] ∧ s.others = [] ∧ s.th.wait = .none)
    ∧ noEvwait (W.events 3 1) ∧ freshGen (W.events 3 1) ∧ (W.events 3 1).coveredOut (W.events 3 1).th none = false
    ∧ W.lagging.coveredOut W.lagging.th none = true
    ∧ (W.events 32 1).evq 0 0 1 ≠ [] ∧ 32 ≤ ((W.events 32 1).evq 0 0 1).length ∧ W.mem.evq 0 0 1 = []
    ∧ (0x50001 : Word).extractLsb' 3 13 = 0 ∧ (0x50001 : Word).extractLsb' 32 32 = 0 ∧ (9 : Word).extractLsb' 3 13 ≠ 0 := by
  refine ⟨?_, ?idle, ?fresh, ?_, ?_, ?_, ?_, ?_, ?_⟩
  case idle =>
    intro t ht o ho
    have h : ∀ t ∈ (W.events 3 1).threads, t.ops = [] := by decide +kernel
    simp [h t ht] at ho
  case fresh => unfold freshGen; decide +kernel
  all_goals decide +kernel

/-- The small machine with a channel of four 16-byte slots, `fl` filled and `rd` read, in its launch. -/
def W.chans (fl rd : Nat) (x y : Word) : State :=
  let p : List Word := [0x1022, 0x10000, 0x1000001001, 0x1000000000005, 0x24000, 0x100004] ++ List.replicate 26 0
  W.put { W.mem with launches := [{ W.launch with packet := p }],
                     queues := { W.mem.queues with channels := [⟨0, 0, BitVec.ofNat 32 fl, BitVec.ofNat 32 fl, BitVec.ofNat 32 rd, [], []⟩] } }
    [(4, x), (5, y)]

/-- The small machine with queue 3 of two slots at 0x3_0000, its indices, and a packet of two blocks at 0x2_0040. -/
def W.submits (rsv ridx : Word) (first : Nat) (y : Word) : State :=
  let m := Memory.write64 (Memory.write64 (Memory.writeNat W.mem.mem 0x20040 8 first) 0x30000 rsv) 0x30008 ridx
  W.put (W.by { W.mem with mem := m, tables := { W.mem.tables with queues := [(3, 0xC000000000030001, 0)] } }
    fun t => { t with poolb1 := 0x2000 }) [(4, 0x20040), (5, y)]

theorem witness_ChannelAndQueueRequests :
    (let s := W.chans 3 1 0x20008 0x10000; s.chanDecl 0 0 = some ⟨0, 0x24000, 4, 16⟩ ∧ (s.channel 0 0).fl - (s.channel 0 0).rd = 2
        ∧ s.layers = [] ∧ (s.rs 5).extractLsb' 48 16 = 0 ∧ (s.rs 5).extractLsb' 2 14 = 0 ∧ ((s.rs 5).extractLsb' 16 32).toNat = 1
        ∧ s.rangesBad s.th true [] [((s.rs 4).toNat, 16)] = none ∧ s.rangesBad s.th true [((s.rs 4).toNat, 16)] [] = none
        ∧ fillable s ∧ (∀ t ∈ s.threads, t.ops = [])
        ∧ (match s.chanCopy s.th ((⟨0, 0x24000, 4, 16⟩ : Chan).slot 2) (s.rs 4).toNat 16 with | .done _ => true | _ => false) = true)
    ∧ (0x10004 : Word).extractLsb' 2 14 ≠ 0 ∧ (W.chans 3 1 0 1).chanDecl 0 1 = none
    ∧ (let s := W.submits 0 0 0x22 3; let x := s.rs 4; let ag := s.th.engine; let ps := s.engPlaces ag false x.toNat 8
      let u := (s.reserveSlot 3).1
      (s.rs 5).toNat < 256 ∧ x.toNat % 16 = 0 ∧ s.rangesBad s.th true [(x.toNat, 16)] [] = none
        ∧ s.dataCheck ag ps false = .ok () ∧ s.engWaits ag false [(x.toNat, 8)] [] = false ∧ s.coveredOut s.th none = false
        ∧ s.queueShut 0x30000 16 = false ∧ queueBase (s.queueEntry 3).1 = 0x30000 ∧ noStash s
        ∧ u.queueShut (slotAt (s.queueEntry 3).1 (s.reserveSlot 3).2) 32 = false
        ∧ natOfBytes (s.engRead ag [] ps).2 % 32 = 2 ∧ s.rangesBad s.th true [(x.toNat, 32)] [] = none
        ∧ s.queueAdmits 3 s.th.asid = true ∧ s.queueAdmits 4 s.th.asid = false ∧ fillable s
        ∧ u.slotFree 3 (s.reserveSlot 3).2 = true ∧ u.engRefused ag .engRead x.toNat 32 = false
        ∧ u.engWaits ag false [(x.toNat, 32)] [] = false
        ∧ u.dataCheck ag (u.engPlaces ag false x.toNat 32) false = .ok ())
    ∧ (let s := W.submits 2 0 0x21 3; (s.reserveSlot 3).1.slotFree 3 (s.reserveSlot 3).2 = false
        ∧ natOfBytes (s.engRead s.th.engine [] (s.engPlaces s.th.engine false 0x20040 8)).2 % 32 = 1)
    ∧ (let s := W.by (W.submits 0 0 0x22 3) fun t => { t with buf := W.lagging.th.buf }; s.coveredOut s.th none = true)
    ∧ (let s := { W.submits 0 0 0x22 3 with layers := [⟨0, .asleep⟩] }; s.queueShut 0x30000 16 = true)
    ∧ (let s := W.by (W.put W.mem [(4, 0x800000001FFC), (5, 256), (6, 0x20042)]) fun t => { t with poolb1 := 0x2000 };
      (s.rs 4).toNat % 4 = 0 ∧ 0x800000000000 ≤ (s.rs 4).toNat ∧ (s.rs 4).toNat - 0x800000000000 + 4 ≤ poolB s.th.poolb1
        ∧ 256 ≤ (s.rs 5).toNat ∧ (s.rs 6).toNat % 4 ≠ 0 ∧ (s.rs 6).toNat % 16 ≠ 0) := by
  unfold fillable
  refine ⟨⟨?_, ?_, ?_, ?_, ?_, ?_,
      ?_, ?_, ?_, ?_, ?_⟩, ?_, ?_,
    ⟨?_, ?_, ?_, W.okAs (by decide +kernel), ?_, ?_,
      ?_, ?_, by unfold noStash; decide +kernel, ?_, ?_, ?_,
      ?_, ?_, ?_, ?_, ?_, ?_,
      W.okAs (by decide +kernel)⟩,
    ?_, ?_, ?_, ?_⟩ <;> decide +kernel

/-- The small machine with a barrier cell and two more threads of its class that wait at it. -/
def W.cells (l : List Cell) : State :=
  { W.mem with counters := { W.mem.counters with cells := l },
               others := [{ W.mate with wait := .barr (.cls 0 0 3) 7 8 }, { W.mate with hwid := 2, wait := .barr (.cls 0 0 3) 7 9 }] }

theorem witness_BarriersArrive :
    (let s := W.cells []; let c : CellId := .cls 0 0 3; cellOf s.th.hwid 3 = .ok c ∧ s.cell? c = none ∧ 3 ≤ c.slots
        ∧ (200 : Word).extractLsb' 24 40 = 0 ∧ c.slots < 200 ∧ s.th.live = true ∧ s.th.wait = .none)
    ∧ (let s := W.cells [⟨.cls 0 0 3, W.mem.th.owner, 3, 1, 0, 7, []⟩]; ∃ z, s.cell? (.cls 0 0 3) = some z
        ∧ (z.owner == s.th.owner && z.expect != 0 && !z.drop.contains ((CellId.cls 0 0 3).me s.th.hwid) && z.arrived + 1 != z.expect
            && !s.coveredOut s.th none
            && (W.by s fun t => { t with buf := W.lagging.th.buf }).coveredOut { s.th with buf := W.lagging.th.buf } none) = true)
    ∧ (let s := W.cells [⟨.cls 0 0 3, W.mem.th.owner, 3, 2, 1, 7, [77]⟩]; ∃ z, s.cell? (.cls 0 0 3) = some z
        ∧ (z.owner == s.th.owner && z.expect != 0 && !z.drop.contains ((CellId.cls 0 0 3).me s.th.hwid) && z.arrived + 1 == z.expect) = true)
    ∧ (let s := W.cells [⟨.cls 0 0 3, W.mem.th.owner, 3, 1, 1, 7, [(CellId.cls 0 0 3).me 0]⟩]; ∃ z, s.cell? (.cls 0 0 3) = some z
        ∧ (z.owner == s.th.owner && z.drop.contains ((CellId.cls 0 0 3).me s.th.hwid)) = true)
    ∧ (let s := W.cells [⟨.cls 0 0 3, W.mem.th.owner + 1, 3, 1, 1, 7, []⟩]; ∃ z, s.cell? (.cls 0 0 3) = some z
        ∧ (z.owner != s.th.owner) = true)
    ∧ (0x400 : Word).extractLsb' 10 54 ≠ 0
    ∧ (∃ c, cellOf W.bell.th.hwid 0x203 = .ok c ∧ (match c with | .stack _ _ => true | _ => false) = true)
    ∧ W.bell.ownsBellSlot (dieOf W.bell.th.hwid) W.bell.th.part = true ∧ W.bell.bellFull = false
    ∧ W.bell.coveredOut W.bell.th none = false := by
  refine ⟨⟨W.okAs (by decide +kernel), ?_, ?_, ?_, ?_, ?_,
      ?_⟩, W.someWith (by decide +kernel), W.someWith (by decide +kernel), W.someWith (by decide +kernel),
    W.someWith (by decide +kernel), ?_, W.okWith (by decide +kernel), ?_, ?_,
    ?_⟩ <;> decide +kernel

/-- The small machine with one counter, number 5, in a state. -/
def W.counter (w1 : Word) : State := { W.mem with counters := { W.mem.counters with done := [⟨5, 77, w1, 3, 0⟩] } }

theorem witness_CountersAnswer :
    (let s := W.counter 0x8000000000000000; (s.ctr 5).valid = true ∧ (s.ctr 5).asid = s.th.asid ∧ (s.ctr 5).state = 0
        ∧ ∀ u ∈ s.threads, u.ops = [])
    ∧ (let s := { W.counter 0x8400000000000000 with launches := [] }; (s.ctr 5).valid = true ∧ (s.ctr 5).asid = s.th.asid
        ∧ (s.ctr 5).state = 1 ∧ ∀ r ∈ s.launches, r.live = true → r.countedAt (s.ctr 5) = false)
    ∧ (let s := W.counter 0x8800000000000000; (s.ctr 5).valid = true ∧ (s.ctr 5).asid = s.th.asid ∧ (s.ctr 5).state = 2 ∧ fillable s)
    ∧ (W.mem.ctr 5).valid = false ∧ (3 : Word).getLsbD 0 = true ∧ (2 : Word).getLsbD 0 = false ∧ 4096 ≤ (4096 : Word).toNat := by
  unfold fillable; decide +kernel

/-- The small machine running, with a packet at the head of queue 3, an ASID that is valid, and counters. -/
def W.queue (r : Reader) (p : List Word) (c : List Counter) : State :=
  let m := p.zipIdx.foldl (fun m x => Memory.write64 m (0x30100 + 8 * x.2) x.1) W.task.mem
  { W.task with mem := m, launches := [{ W.launch with q := 3 }],
                tables := { W.task.tables with queues := [(3, 0xC000000000030001, 0)], asids := [(0, 0x1000, 0x8000000000000000)] },
                queues := { W.task.queues with readers := [r] },
                boundary := { W.task.boundary with ready := true }, counters := { W.task.counters with done := c } }

/-- The same with a packet's word at 0x2_0010 that a handle names. -/
def W.released (w : Word) : State :=
  { W.queue ⟨3, true, 0, 0, false⟩ [] [] with mem := Memory.write64 W.task.mem 0x20010 w }

theorem witness_QueueReadersAndSuccessors :
    (let s := W.queue ⟨3, true, 0, 0, false⟩ [0x22, 0x10000, 0x1000001001, 0x1000000000005] [⟨5, 0, 0x8000000000000000, 0, 0⟩];
      noneWaits s ∧ Memory.wf s.mem = true ∧ s.gated 3 = false ∧ s.readerWaits 3 = false ∧ s.freeLrec = some 1
        ∧ ∃ p, s.headPacket 3 = some p ∧ (pkKind p == 1 && s.packetOk 3 p && !pkDoomed p) = true)
    ∧ (let s := W.queue ⟨3, true, 0, 0, false⟩ [0x21, 0x10000, 0x1000001001, 0x1000000000005] [⟨5, 0, 0x8000000000000000, 0, 0⟩];
      noneWaits s ∧ Memory.wf s.mem = true ∧ s.gated 3 = false ∧ s.readerWaits 3 = false
        ∧ ∃ p, s.headPacket 3 = some p ∧ (pkKind p == 1 && !s.packetOk 3 p && rejectedSuccs p == [] && pkLaunch p == 5
            && (s.ctr 5).valid && (s.ctr 5).asid == s.queueAsid 3 && (s.ctr 5).level == 0 && (s.ctr 5).state != 1) = true)
    ∧ (let s := W.queue ⟨3, true, 0, 0, false⟩ [0x22, 0x10000, 0x1000001001, 0x1000000000005] [];
      (∃ p, s.headPacket 3 = some p ∧ (pkKind p == 1 && !s.packetOk 3 p && !(s.ctr (pkLaunch p)).valid) = true))
    ∧ (let s := W.queue ⟨3, true, 4, 0, true⟩ [0x22, 0x10000, 0x1000001001, 0x1000000000005] [];
      s.gated 3 = true ∧ s.readerWaits 3 = false ∧ ∃ p, s.headPacket 3 = some p ∧ (pkKind p == 1) = true)
    ∧ (let s := W.queue ⟨3, true, 4, 0, false⟩ [0x42, 0, 0, 0x7000000] [⟨7, 0, 0xC000000000000000, 0, 0⟩, ⟨4, 0, 0xC400000000000000, 0, 0⟩];
      noneWaits s ∧ Memory.wf s.mem = true ∧ s.gated 3 = false ∧ s.readerWaits 3 = false
        ∧ ∃ p, s.headPacket 3 = some p ∧ (pkKind p == 2 && s.phaseMarkOk 3 p) = true)
    ∧ (let s := W.queue ⟨3, true, 0, 0, false⟩ [0x42, 0, 0, 0x7000000] [];
      s.gated 3 = false ∧ s.readerWaits 3 = false ∧ ∃ p, s.headPacket 3 = some p ∧ (pkKind p == 2 && !s.phaseMarkOk 3 p) = true)
    ∧ ((W.queue ⟨3, true, 0, 0, false⟩ [] []).headPacket 3 = none ∧ (W.queue ⟨3, true, 0, 0, false⟩ [] []).readerWaits 3 = false)
    ∧ (let s := { W.queue ⟨3, true, 0, 0, false⟩ [] [] with layers := [⟨0, .asleep⟩] }; noneWaits s ∧ s.readerWaits 3 = true)
    ∧ (let s := W.released 0x0020000000000009; let h : Word := 0x0003000000020000
      calm s ∧ s.walk 0 ((h.extractLsb' 0 48).toNat + 16) = some W.page
        ∧ W.page.pa + ((h.extractLsb' 0 48).toNat + 16) % W.page.size = 0x20010
        ∧ 2 ≤ ((Memory.read64 s.mem 0x20010).extractLsb' 52 11).toNat)
    ∧ (let s := W.released 0x0010000000000009; let w0 := (s.queueEntry 3).1;
      calm s ∧ ((Memory.read64 s.mem 0x20010).extractLsb' 52 11).toNat = 1 ∧ w0.getLsbD 63 = true ∧ 0x20010 + 8 ≤ queueBase w0
        ∧ ((s.queueIdx w0).1 - (s.queueIdx w0).2).toNat < queueSlots w0)
    ∧ (let s := { W.released 0x0010000000000009 with mem := Memory.write64 (W.released 0x0010000000000009).mem 0x30000 2 }
      let w0 := (s.queueEntry 3).1;
      calm s ∧ ((Memory.read64 s.mem 0x20010).extractLsb' 52 11).toNat = 1 ∧ w0.getLsbD 63 = true ∧ 0x20010 + 8 ≤ queueBase w0
        ∧ queueSlots w0 ≤ ((s.queueIdx w0).1 - (s.queueIdx w0).2).toNat)
    ∧ (let s := { W.released 0 with layers := [⟨0, .asleep⟩] }
      s.queues.succs = [] ∧ s.walk 0 0x20010 = some W.page ∧ s.succWaits 0 0x0003000000020000 false = true)
    ∧ (let s := W.released 0x0010000000000009; noStash s ∧ ∀ i, i < 32 → s.walk 0 (0x20000 + 8 * i) = some W.page
        ∧ (0x20000 + 8 * i) % W.page.size = 0x20000 % W.page.size + 8 * i)
    ∧ (W.counter 0x8800000000000000).ctr 5 ≠ ⟨5, 0, 0, 0, 0⟩ ∧ 2 ≤ ((W.counter 0x8800000000000000).ctr 5).state.toNat
    ∧ (let s := W.counter 0x8000000000000000; (s.ctr 5).valid = true ∧ (s.ctr 5).state = 0 ∧ noneWaits s) := by
  refine ⟨⟨W.noneWaitsOf (by decide +kernel) (by decide +kernel), ?_, ?_, ?_, ?_,
      W.someWith (by decide +kernel)⟩,
    ⟨W.noneWaitsOf (by decide +kernel) (by decide +kernel), ?_, ?_, ?_, W.someWith (by decide +kernel)⟩,
    W.someWith (by decide +kernel), ⟨?_, ?_, W.someWith (by decide +kernel)⟩,
    ⟨W.noneWaitsOf (by decide +kernel) (by decide +kernel), ?_, ?_, ?_, W.someWith (by decide +kernel)⟩,
    ⟨?_, ?_, W.someWith (by decide +kernel)⟩, ?_,
    ⟨W.noneWaitsOf (by decide +kernel) (by decide +kernel), ?_⟩,
    ⟨W.calmOf (by decide +kernel), ?_⟩,
    ⟨W.calmOf (by decide +kernel), ?_⟩, ⟨W.calmOf (by decide +kernel), ?_⟩, ?_,
    by unfold noStash; decide +kernel,
    ?_, ?_, ?_, ?_, W.noneWaitsOf (by decide +kernel) (by decide +kernel)⟩ <;> decide +kernel

/-- A launch of two gangs of two tasks with a slice of 64 µs, and threads 0, 1, … of its first gang in given waits. -/
def W.gang (g : List Gang) (c : Nat) (ws : List Wait) : State :=
  let r := { W.launch with gangs := g, packet := [0x22, 0x40000000010000, 0x1000002002, 0x1000000000005] ++ List.replicate 28 0 }
  let t (n : Nat) (w : Wait) : Thread := { W.mem.th with hwid := BitVec.ofNat 17 n, wait := w, fcsr := 3, resumeFlags := 4 }
  { W.mem with launches := [r], cycle := c, th := t 0 (ws.headD .none), others := ws.tail.zipIdx.map (fun p => t (p.2 + 1) p.1) }

/-- The same launch with nothing running and its gangs ended. -/
def W.done : State :=
  W.by (W.gang [⟨0, .ended, [], none, none⟩, ⟨1, .dropped, [], none, none⟩] 5 []) fun t => { t with live := false }

theorem witness_ReportsReachTheLaunchCounter :
    (let s := W.gang [⟨0, .claimed 0, [], none, some 0⟩] 9 [.exiting, .faulted 77, .cancelled 78];
      (∃ t, s.thread? 0 = some t ∧ (t.wait == .exiting && t.buf == [] && t.ops == [] && !s.beatsOut 0) = true)
        ∧ (∃ t, s.thread? 1 = some t ∧ (t.wait == .faulted 77 && t.buf == [] && t.ops == []) = true)
        ∧ (∃ t, s.thread? 2 = some t ∧ (t.wait == .cancelled 78 && t.buf == [] && t.ops == []) = true) ∧ s.caches.stashLines = []
        ∧ s.nodeReady 0 (.core 0) = false)
    ∧ (let s := W.by (W.gang [] 9 [.exiting]) fun t => { t with ops := [{ W.op .none .bamo with dst := .none }] }
      ∃ t, s.thread? 0 = some t ∧ (t.wait == .exiting && t.buf == [] && t.ops != []) = true)
    ∧ (let s := W.gang [] 9 [.exiting]; let s := { s with queues := { s.queues with mirrorQ := [⟨3, ⟨0, 0, 0, 0, 0, 0, 0⟩⟩] } }
      ∃ t, s.thread? 0 = some t ∧ (t.wait == .exiting && t.buf == [] && s.beatsOut 0) = true)
    ∧ (let s := { W.done with counters := { W.done.counters with roll := [⟨0, .group 0, wordOf36 0xFFFFFF 0xFFFF 5 8 0, [0]⟩, ⟨1, .core 0, 5, []⟩] } };
      s.nodeReady 0 (.group 0) = true ∧ (∀ a ∈ s.counters.roll, a.lrec = 0 → a.node = .group 0)
        ∧ ∃ r, s.launch? 0 = some r ∧ (r.live && r.gangs.any (fun g => g.state == .ended && s.counters.roll.any (fun x => x.lrec == 0 && x.gangs.contains g.idx))
          && decide (r.endedGangs ≤ (pkNGang r.packet).toNat)) = true)
    ∧ (let s := W.gang [⟨0, .ended, [], none, none⟩] 9 [.none]; lastWord s 0 7 ∧ (∃ u ∈ s.threads, u.lrec = 0)
        ∧ ∃ r, s.launch? 0 = some r ∧ (r.live && r.endedGangs != (pkNGang r.packet).toNat) = true)
    ∧ (let s := { W.done with counters := { W.done.counters with rollSent := [⟨0, .launch, 7, [0, 1]⟩] } }; lastWord s 0 7 ∧ noneWaits s
        ∧ (∀ u ∈ s.threads, u.lrec ≠ 0)
        ∧ ∃ r, s.launch? 0 = some r ∧ (r.live && r.endedGangs == (pkNGang r.packet).toNat && pkSuccs r.packet == []
            && [pkGraph r.packet, pkPhase r.packet, pkJob r.packet].all (fun x => x == 0 || x != pkLaunch r.packet)) = true) :=
  ⟨⟨W.someWith (by decide +kernel), W.someWith (by decide +kernel), W.someWith (by decide +kernel), by decide +kernel,
      by decide +kernel⟩, W.someWith (by decide +kernel), W.someWith (by decide +kernel),
    ⟨by decide +kernel, by decide +kernel, W.someWith (by decide +kernel)⟩,
    ⟨⟨by decide +kernel, by decide +kernel, .inl (by decide +kernel)⟩, by decide +kernel, W.someWith (by decide +kernel)⟩,
    ⟨by decide +kernel, by decide +kernel, .inr ⟨[0, 1], by decide +kernel⟩⟩, W.noneWaitsOf (by decide +kernel) (by decide +kernel),
    by decide +kernel, W.someWith (by decide +kernel)⟩

theorem witness_GangsStopAndRestart :
    (let s := W.gang [⟨0, .claimed 0, [], none, some 0⟩] 172799 [.none]; ∃ r, s.launch? 0 = some r
        ∧ ((r.gang 0).started == some 0 && pkSlice r.packet != 0 && decide (s.cycle < pkSlice r.packet * 2700)) = true)
    ∧ (let s := W.gang [⟨0, .claimed 0, [], none, some 0⟩] 172800 [.none, .realign 5 5 5]; s.gangThreads 0 0 ≠ [] ∧ ∃ r, s.launch? 0 = some r
        ∧ ((r.gang 0).started == some 0 && pkSlice r.packet != 0 && decide (pkSlice r.packet * 2700 ≤ s.cycle) && (r.gang 0).preempt == none) = true)
    ∧ (let s := W.gang [⟨0, .claimed 0, [⟨1, 2, 0, 0⟩], some 4, none⟩] 9 [.stopping 66, .realign 2 3 4];
      ∃ t, s.thread? 0 = some t ∧ (t.wait == .stopping 66 && t.ops == [] && t.held == [] && t.buf == [] && !s.bellOut 0 5 && t.refused == [] && (s.launch? t.lrec).isSome
        && (s.gangThreads t.lrec t.gangIdx).any (fun x => x.hwid != 0 && x.wait != .stopped)) = true)
    ∧ (let s := W.gang [⟨0, .claimed 0, [], some 4, none⟩] 9 [.stopping 66];
      ∃ t, s.thread? 0 = some t ∧ (t.wait == .stopping 66 && t.ops == [] && t.held == [] && t.buf == [] && !s.bellOut 0 5 && t.refused == []
        && s.gangThreads t.lrec t.gangIdx == [t]) = true)
    ∧ (let s := W.gang [⟨0, .claimed 0, [], some 4, none⟩] 1000000000 [.none]; (∃ r, s.launch? 0 = some r
        ∧ ((r.gang 0).preempt == some 4 && decide (graceEnd r 4 ≤ s.cycle)) = true)
        ∧ s.gangThreads 0 0 = [s.th] ∧ s.th.fork = none ∧ s.th.boundaryReached = false)
    ∧ (let s := W.gang [⟨0, .claimed 0, [], some 4, none⟩] 1000000000 [.stopped, .exiting]
      ∀ x ∈ s.gangThreads 0 0, x.boundaryReached = true)
    ∧ (let s := W.gang [] 11 [.realign 5 5 6]; ∃ t, s.thread? 0 = some t ∧ (t.wait == .realign 5 5 6 && decide (6 + 5 ≤ s.cycle)) = true)
    ∧ (let s := W.gang [] 10 [.realign 5 5 6]; ∃ t, s.thread? 0 = some t ∧ (t.wait == .realign 5 5 6 && decide (s.cycle < 6 + 5)) = true) := by
  refine ⟨W.someWith (by decide +kernel), ⟨?_, W.someWith (by decide +kernel)⟩, W.someWith (by decide +kernel),
    W.someWith (by decide +kernel),
    ⟨W.someWith (by decide +kernel), ?_, ?_, ?_⟩, ?_,
    W.someWith (by decide +kernel), W.someWith (by decide +kernel)⟩ <;> decide +kernel

/-- The small machine's launch area with entry 2 of die 0 open for it and one gang in a state, every core running. -/
def W.table (g : List Gang) : State :=
  let r := { W.launch with gangs := g }
  { W.task with th := { Thread.idle 0 with live := false }, launches := [r],
                tables := { W.task.tables with launchE := [⟨0, 2, 0⟩] }, boundary := { W.task.boundary with ready := true } }

theorem witness_TimetableCommandsAct :
    (let s := W.table [⟨0, .fresh, [], none, none⟩]; s.coreRuns 0 = true ∧ (s.launch? 7).isNone = true ∧ (∃ e ∈ s.tables.launchE, e.die = 0 ∧ e.lent = 2)
        ∧ (s.launch? 0).isSome = true ∧ (∀ e ∈ s.tables.launchE, e.die = 0 → e.lent ≠ 3) ∧ s.entryBusy 0 2 = false
        ∧ ∃ r, s.openLaunch 0 2 = some r ∧ (r.nextClaim.isSome && r.gangs.all (fun g => g.state != .claimed 0)) = true)
    ∧ (∃ r, (W.table [⟨0, .ended, [], none, none⟩]).openLaunch 0 2 = some r ∧ r.nextClaim.isNone = true)
    ∧ (let s := { W.table [⟨0, .claimed 0, [], none, none⟩] with tables := { (W.table []).tables with slots := [⟨0, 4, 0x8400000000000000, 0, 0, 0, .running, 0⟩] } };
      s.entryBusy 0 2 = true)
    ∧ (let s := W.table [⟨0, .claimed 0, [], none, none⟩]; s.gangThreads 0 0 = [] ∧ s.tables.slots = []
        ∧ ∃ r, s.openLaunch 0 2 = some r ∧ ((r.gang 0).state == .claimed 0) = true)
    ∧ (let s := { W.table [⟨0, .claimed 0, [], none, none⟩] with th := W.task.th }; s.gangThreads 0 0 ≠ []
        ∧ ∃ r, s.openLaunch 0 2 = some r ∧ ((r.gang 0).state == .claimed 0 && (r.gang 0).preempt == none) = true)
    ∧ (let s := W.table []; (s.leaseEntry 0 1).state = 0 ∧ leaseEntryOk 0x20000 0x10000 0x300000000000 = true
        ∧ (s.putLease ⟨0, 1, 0, 0x10000, 0, 4⟩).leaseEntry 0 1 = ⟨0, 1, 0, 0x10000, 0, 4⟩
        ∧ ((s.putLease ⟨0, 1, 0, 0x10000, 0, 3⟩).leaseEntry 0 1).state = 3 ∧ (s.putLease ⟨0, 1, 0, 0x10000, 0, 3⟩).leaseUsers 0 1 = 0)
    ∧ (let s := W.table []; (1 : BitVec 8) ≠ 0 ∧ (s.belltab (stackOf 0) 1).extractLsb' 14 2 = 1 ∧ (s.belltab (stackOf 0) 1).extractLsb' 11 3 = layerOf 0)
    ∧ (let s := (W.table []).putLease ⟨0, 1, 0, 0x10000, 0, 4⟩; (s.leaseEntry 0 1).state = 4)
    ∧ (let s := W.table []; ∃ k, FilterRule.mail k ∉ s.boundary.filter ∧ s.boundary.fwSend = [])
    ∧ (let s := { W.table [] with boundary := { (W.table []).boundary with filter := [.mail 1] } };
      FilterRule.mail 1 ∈ s.boundary.filter) := by
  refine ⟨⟨?_, ?_, ?_, ?_, ?_, ?_,
      W.someWith (by decide +kernel)⟩, W.someWith (by decide +kernel), ?_,
    ⟨?_, ?_, W.someWith (by decide +kernel)⟩, ⟨?_, W.someWith (by decide +kernel)⟩,
    ?_, ?_, ?_, ⟨1, ?_, ?_⟩, ?_⟩ <;> decide +kernel

theorem witness_BindRecordsStartGangs :
    (let s := { W.table [⟨0, .claimed 0, [], none, none⟩] with tables := { (W.table []).tables with launchE := [] } };
      s.coreRuns 0 = true ∧ (s.slot 0 4).state = .free ∧ (0x8400000000000000 : Word).getLsbD 63 = true ∧ s.openLaunch 0 2 = none)
    ∧ (let s := W.table [⟨0, .claimed 0, [], none, none⟩]; let k : TSlot := ⟨0, 4, 0x8400000000000000, 0, 0, 0, .pending, 0⟩;
      let u := s.putSlot k;
      s.coreRuns 0 = true ∧ (s.slot 0 4).state = .free ∧ k.lent = 2 ∧ k.tig = 0 ∧ s.thread? k.hwid = none
        ∧ (u.tables.slots.filter (fun x => x.die == 0 && x.state == .pending && x.lent == k.lent && x.gang == k.gang)) = [k]
        ∧ ∃ r, s.openLaunch 0 2 = some r ∧ (r.live && pkGang r.packet == 1 && (r.gang k.gang).resume == [] && u.gangReason r k.gang [k] == 0) = true)
    ∧ (let s := (W.table []).putSlot ⟨0, 4, 0, 0, 0, 0, .rejected, 1⟩; (s.slot 0 4).state = .rejected ∧ (4 : BitVec 11).toNat < 1056
        ∧ 1056 ≤ (1056 : BitVec 11).toNat)
    ∧ (let s := (W.table []).putLease ⟨0, 1, 0x20000, 0x10000, 0, 1⟩; let x := s.leaseEntry 0 1;
      x.state = 1 ∧ s.rangeStop x.asid x.base x.len = none ∧ s.rangeMapped x.asid x.base x.len = true
        ∧ (State.rangeStop { s with layers := [⟨0, .asleep⟩] } x.asid x.base x.len).isSome)
    ∧ (let s := (W.table []).putLease ⟨0, 1, 0x40000000, 0x10000, 0, 1⟩; let x := s.leaseEntry 0 1;
      x.state = 1 ∧ s.rangeStop x.asid x.base x.len = none ∧ s.rangeMapped x.asid x.base x.len = false)
    ∧ ((W.table []).putLease ⟨0, 1, 0, 0x10000, 0, 2⟩).leaseEntry 0 1 = ⟨0, 1, 0, 0x10000, 0, 2⟩ := by
  refine ⟨?_, ⟨?_, ?_, ?_, ?_, ?_,
      ?_, W.someWith (by decide +kernel)⟩, ?_, ?_, ?_, ?_⟩ <;> decide +kernel

/-- A guest packet of the small machine's thread with an instruction word. -/
def W.guest (w : BitVec 32) : GuestPkt := ⟨0, w, false, 0, false, 0, false, false, 0, 0, 0, 9, 0, [.scalar ⟨0x40000000, 0⟩, .scalar ⟨0x40000000, 0⟩], []⟩

/-- The small machine's thread with a shipped operation of ship sequence 9. -/
def W.sender (p : GuestPkt) : State := W.by W.mem fun t => { t with ops := [{ W.waitOp (.ship p) with seq := 9 }] }

/-- The same with the packet alone at B-core 0. -/
def W.alone (p : GuestPkt) : State := (W.sender p).putBCore 0 { (W.sender p).bcore 0 with guests := [⟨p, 0, 0⟩] }

/-- The same for an instruction word. -/
def W.shipped (w : BitVec 32) : State := W.alone (W.guest w)

/-- A packet of a wide atomic at `x`, with its other operand and trap enables. -/
def W.atomic (k : BitVec 32) (x : Word) (y : Slot) (en : BitVec 5) : GuestPkt :=
  { W.guest (0x90000000 + k) with slots := [.scalar ⟨x, 0⟩, y], enables := en }

/-- A packet of a tile instruction on slot 1 with a base and a stride, and the machine whose slot 1 has 4 by 32 elements. -/
def W.tilePkt (k : BitVec 32) (x y : Word) : GuestPkt := { W.guest (0xCC100000 + k) with slots := [.scalar ⟨x, 0⟩, .scalar ⟨y, 0⟩] }

def W.tiled (p : GuestPkt) : State :=
  { W.alone p with queues := { (W.alone p).queues with guestTiles := [⟨0, 1, 0xE2004, 5, 0⟩] } }

theorem W.aloneOf {p : GuestPkt} {s : State} (h : (s.bcore 0).guests = [⟨p, 0, 0⟩] ∧ s.thread? p.hwid = some (W.sender p).th
    ∧ (W.sender p).th.opOfSeq p.seq = some { W.waitOp (.ship p) with seq := 9 }
    ∧ s.mayIssue (W.sender p).th { W.waitOp (.ship p) with seq := 9 } p = true) :
    guestAlone s 0 p (W.sender p).th { W.waitOp (.ship p) with seq := 9 } := ⟨⟨0, 0, h.1⟩, h.2.1, h.2.2.1, h.2.2.2⟩

theorem witness_ShippedAtomics :
    (∀ k ∈ ([0, 1, 4] : List Nat), let p := W.atomic (BitVec.ofNat 32 k) 0x20000 (.wide ⟨7, 0⟩) 0; wMajor p.insn = 0x24 ∧ wFn p.insn % 16 = k
        ∧ (0x20000 : Word).toNat % wamoSize k = 0 ∧ onNormalOf (W.alone p) (W.sender p).th 0x20000 (wamoSize k) true true W.page)
    ∧ (∀ k ∈ ([2, 3] : List Nat), let p := W.atomic (BitVec.ofNat 32 k) 0x20000 (.scalar ⟨0x3F800000, 0⟩) 0; wMajor p.insn = 0x24
        ∧ wFn p.insn % 16 = k ∧ onNormalOf (W.alone p) (W.sender p).th 0x20000 (wamoSize k) true true W.page)
    ∧ (let p := W.atomic 4 0x20000 (.wide ⟨7, 0⟩) 0; guestAlone (W.alone p) 0 p (W.sender p).th { W.waitOp (.ship p) with seq := 9 } ∧ calm (W.alone p))
    ∧ (let p := W.atomic 2 0x20000 (.scalar ⟨0x3F800000, 0⟩) 31
      guestAlone (W.alone p) 0 p (W.sender p).th { W.waitOp (.ship p) with seq := 9 } ∧ calm (W.alone p)
        ∧ (faddaSum F32 p.rm (numberAt (W.alone p) 0x20000 4) (imgS ⟨0x3F800000, 0⟩)).2 &&& p.enables ≠ 0
        ∧ (faddaSum F32 p.rm (numberAt (W.alone p) 0x20000 4) (imgS ⟨0x3F800000, 0⟩)).2 &&& 0 = 0)
    ∧ (let p := W.atomic 0 0x20008 (.wide ⟨7, 0⟩) 0; (0x20008 : Word).toNat % wamoSize (wFn p.insn % 16) ≠ 0) :=
  ⟨by unfold onNormalOf; decide +kernel, by unfold onNormalOf; decide +kernel, ⟨W.aloneOf (by decide +kernel), W.calmOf (by decide +kernel)⟩,
    ⟨W.aloneOf (by decide +kernel), W.calmOf (by decide +kernel), by decide +kernel⟩, by decide +kernel⟩

theorem witness_ShippedTiles :
    (∀ k ∈ ([1, 2, 3] : List Nat), let p := W.tilePkt (BitVec.ofNat 32 k) 0x20000 32; let s := W.tiled p
      wMajor p.insn = 0x33 ∧ (wD p.insn).toNat < 8 ∧ wFn p.insn = k ∧ (s.guestTile 0 (wD p.insn)).tc ≠ 0
        ∧ tcValid (s.guestTile 0 (wD p.insn)).tc = true ∧ (0x20000 : Word).toNat % 16 = 0 ∧ (32 : Word).toNat % 16 = 0
        ∧ ∀ r, r < tcRows (s.guestTile 0 (wD p.insn)).tc →
            onNormalOf s (W.sender p).th (0x20000 + BitVec.ofInt 64 (r * (32 : Word).toInt)) 32 true false W.page
              ∧ onNormalOf s (W.sender p).th (0x20000 + BitVec.ofInt 64 (r * (32 : Word).toInt)) 32 false true W.page)
    ∧ (let p := W.tilePkt 2 0x20000 32; guestAlone (W.tiled p) 0 p (W.sender p).th { W.waitOp (.ship p) with seq := 9 } ∧ calm (W.tiled p))
    ∧ (let p := W.tilePkt 3 0x20008 32; guestAlone (W.tiled p) 0 p (W.sender p).th { W.waitOp (.ship p) with seq := 9 }
        ∧ (0x20008 : Word).toNat % 16 ≠ 0) :=
  ⟨by unfold onNormalOf; decide +kernel, ⟨W.aloneOf (by decide +kernel), W.calmOf (by decide +kernel)⟩,
    ⟨W.aloneOf (by decide +kernel), by decide +kernel⟩⟩

/-- The small machine's sender with registers that younger instructions have written in its shadow. -/
def W.undone : State :=
  W.by (W.sender (W.guest 0xC4310140)) fun t => { t with undo := [⟨9, .s 7 ⟨1, 0⟩⟩, ⟨9, .v 3 ⟨2, 0⟩⟩, ⟨9, .s 7 ⟨3, 0⟩⟩], heldRes := [⟨0, 10, 0, 0, 0, none⟩] }

theorem witness_RemoteTrapUndoes :
    ∃ t, W.undone.thread? 0 = some t ∧ ((t.opOfSeq 9).isSome && !t.ended && loopAddr t.tvec != 0 && t.ops.all (fun x => !x.trapcap)
      && t.undo.all (fun u => match u.old with | .ctl n _ => n != 0x020 | _ => true) && rolledS t 7 == ⟨1, 0⟩ && rolledV t 3 == ⟨2, 0⟩
      && rolledS t 4 == t.getS 4) = true ∧ (0x09 : BitVec 7) ∉ fatalCodes := by
  obtain ⟨t, a, b⟩ := W.someWith (x := W.undone.thread? 0) (f := fun t => (t.opOfSeq 9).isSome && !t.ended && loopAddr t.tvec != 0
      && t.ops.all (fun x => !x.trapcap) && t.undo.all (fun u => match u.old with | .ctl n _ => n != 0x020 | _ => true)
      && rolledS t 7 == ⟨1, 0⟩ && rolledV t 3 == ⟨2, 0⟩ && rolledS t 4 == t.getS 4) (by decide +kernel)
  exact ⟨t, a, b, by decide⟩

theorem witness_GuestsExecuteAndAnswer :
    (let s := W.shipped 0xC4310140; (s.bcore 0).guests.length < 64 ∧ wMajor (W.guest 0xC4310140).insn ≠ 0x24
        ∧ wMajor (W.guest 0xC4310140).insn ≠ 0x33 ∧ (s.bcore 0).guests = [⟨W.guest 0xC4310140, 0, 0⟩]
        ∧ ∃ t, s.thread? 0 = some t ∧ ((t.opOfSeq 9).isSome && (0 : BitVec 17) != orphanId && t.undo == [] && t.heldRes == [] && !t.ended && loopAddr t.tvec != 0
            && (t.opOfSeq 9).all (fun o => t.ops.find? (fun x => x.gen == o.gen) == some o && o.dst == .s 6)
            && t.ops.all (fun x => !x.trapcap)) = true)
    ∧ nobodyWaits (W.shipped 0xC4310140) 0 5
    ∧ (let s := W.mem.putBCore 0 { W.mem.bcore 0 with guests := List.replicate 64 ⟨W.guest 0, 0, 0⟩ }; 64 ≤ (s.bcore 0).guests.length) := by
  refine ⟨⟨?_, ?_, ?_, ?_, W.someWith (by decide +kernel)⟩, ?awake, ?_⟩
  case awake =>
    intro u hu d r
    have h : ∀ u ∈ (W.shipped 0xC4310140).threads, u.wait = .none := by decide +kernel
    simp [h u hu]
  all_goals decide +kernel

/-- A matrix command of the small machine's thread with level `l` and a last word of its block. -/
def W.mcq (l : BitVec 2) (last : Word) (since : Nat) : McqEntry :=
  ⟨0, 5, 0, false, 0, 0, [0x21000, 0x22000, 0, 0x23000, 0, 0, 0x4000020003, last, 0x20100], 0, 0, 0, l, 0, since, 0, [], [], false, false, false, none, false, false, 0, 0⟩

/-- The small machine with a matrix unit's command running and others queued. -/
def W.matrix (r : Option McqEntry) (q : List McqEntry) : State :=
  let s := { W.waiting (.mms false) with cycle := 70000 }
  s.putBCore 0 { s.bcore 0 with running := r, mcq := q, migrate := true }

theorem witness_MatrixCommandsRun :
    (let s := W.matrix none [W.mcq 0 0x5000EE 4]; (s.bcore 0).running = none ∧ (s.bcore 0).mcq = [W.mcq 0 0x5000EE 4]
        ∧ s.mcqReady (s.bcore 0).mcq = (s.bcore 0).mcq ∧ s.olderCommand (W.mcq 0 0x5000EE 4) = false
        ∧ (∀ k ∈ s.queues.bcores, k.1 ≠ 0 → ∀ x ∈ k.2.mcq, x.hwid ≠ 0) ∧ (W.matrix none []).mcqReady ((W.matrix none []).bcore 0).mcq = []
        ∧ (s.bcore 0).migrate = true ∧ (s.bcore 1).mcq = [] ∧ (s.bcore 1).running = none
        ∧ (s.mcqmig 0 0).toNat ≠ 0 ∧ (s.mcqmig 0 0).toNat < 0 + (s.cycle - 4) ∧ (W.mcq 0 0x5000EE 4).moved = false ∧ (0 : BitVec 9).toNat / 8 = (1 : BitVec 9).toNat / 8)
    ∧ (let s := W.matrix (some (W.mcq 0 0x5000EE 4)) [W.mcq 3 0x5000EE 4]; (s.bcore 0).running = some (W.mcq 0 0x5000EE 4)
        ∧ (W.mcq 0 0x5000EE 4).level ≠ 3 ∧ s.mcqReady ((s.bcore 0).mcq.filter (fun e => e.level == 3)) ≠ [] ∧ ((s.bcore 0).mcq.filterMap (·.overtaken)).length < 2)
    ∧ (∃ last, blkSplit (W.mcq 0 last 4).block = true ∧ (W.mcq 0 last 4).half = false ∧ (W.mcq 0 last 4).sent = false
        ∧ { W.mcq 0 last 4 with half := true }.half = true ∧ { W.mcq 0 last 4 with half := true }.waitsHalf = false
        ∧ W.mem.windowOpen { W.mcq 0 last 4 with half := true } = false ∧ { W.mcq 0 last 4 with sent := true }.waitsHalf = true)
    ∧ (let s := W.matrix (some (W.mcq 0 0x5000EE 4)) []; let e := W.mcq 0 0x5000EE 4
      let u := (s.putBCore 0 { s.bcore 0 with running := none }).send (.matrixCommandStart 0); let r := u.mmsRun 0 e
      e.half = false ∧ e.waitsHalf = false ∧ s.windowOpen e = false ∧ s.mmsWaits e = false
        ∧ (W.by s fun t => { t with ops := [{ W.waitOp (.ship (W.guest 0)) with trapcap := true }] }).windowOpen e = true ∧ e.dead = false ∧ e.enables = 0 ∧ awaited s 0 5 s.th (W.waitOp (.mms false)) 6
        ∧ r.bad.isNone = true ∧ r.refused = false) := by
  refine ⟨?_, ?_, ⟨0x5800EE, ?_⟩, ?_, ?_, ?_,
    ?_, ?_, ?_, ?_,
    W.awaits (by decide +kernel) (by decide +kernel) (by decide +kernel) (by decide +kernel), ?_, ?_⟩ <;> decide +kernel

/-- The small machine with a copy of 64 bytes to `d` outstanding. -/
def W.copying (d : VReg) (fn : BitVec 2) (status : Option Word) (acks : Option Nat) : State :=
  let s := W.waiting (.copy fn d 0 0)
  { s with queues := { s.queues with copyQ := [(coreOf 0, ⟨0, 5, 0, fn, status, d, acks, false⟩)] } }

/-- The small machine with a channel and a send of it outstanding. -/
def W.sending (r : Option (BitVec 32)) (fl wr : BitVec 32) (w : List (BitVec 17 × OpId)) : State :=
  let s := W.chans 0 0 0 0
  W.by { s with queues := { s.queues with channels := [⟨0, 0, wr, fl, 0, [], w⟩] } }
    fun t => { t with ops := [W.waitOp (.chsend 0 0x20000 r)] }

theorem witness_EnginesComplete :
    (let d := W.copyDesc 0x24000 0x20000 64 5 0 0; let s := W.copying d 0 none none; let e : CopyEntry := ⟨0, 5, 0, 0, none, d, none, false⟩
      copyReady s 0 5 e ∧ awaited s 0 5 s.th (W.waitOp (.copy 0 d 0 0)) 6 ∧ (s.copyWork s.th 0 d).bad.isNone = true
        ∧ s.copyWaits s.th 0 d = false ∧ (s.copyWork s.th 0 d).filtered = false ∧ (s.copyWork s.th 0 d).refused = false
        ∧ descFabric d = false)
    ∧ (let d := W.copyDesc 0x24000 0x20000 64 13 0 0; let s := W.copying d 0 none none
      (s.copyWork s.th 0 d).bad.isNone = true ∧ s.copyWaits s.th 0 d = false ∧ (s.copyWork s.th 0 d).filtered = false
        ∧ (s.copyWork s.th 0 d).refused = false ∧ descFabric d = true
        ∧ s.fabricReaches s.th.part ((descDst d).extractLsb' 48 12) = false)
    ∧ (let d := W.copyDesc 0x24000 0x20000 64 5 0 0
      let s := { W.copying d 0 none none with mem := Memory.write64 (W.paged 0).mem 0x3810 0x8000000000003, tables := (W.paged 0).tables }
      s.copyWaits s.th 0 d = false ∧ (s.copyWork s.th 0 d).bad.isNone = true ∧ (s.copyWork s.th 0 d).filtered = true)
    ∧ (let d := W.copyDesc 0x24000 0x20000 64 13 0 0
      let s := { W.copying d 0 none none with mem := Memory.write64 (W.paged 0).mem 0x3810 0, tables := (W.paged 0).tables }
      s.copyWaits s.th 0 d = false ∧ (s.copyWork s.th 0 d).bad.isNone = true ∧ (s.copyWork s.th 0 d).filtered = false
        ∧ (s.copyWork s.th 0 d).refused = true ∧ descFabric d = true
        ∧ ({ s with boundary := { s.boundary with routes := [(0, 1)], filter := [.dest 0 0] } } : State).fabricReaches s.th.part
          ((descDst d).extractLsb' 48 12) = true)
    ∧ (let d := W.copyDesc 0x24000 0x20000 64 13 0 0; let s := W.copying d 0 none none
      ({ s with boundary := { s.boundary with routes := [(0, 1)], filter := [.dest 0 0] } } : State).fabricReaches s.th.part
        ((descDst d).extractLsb' 48 12) = true)
    ∧ (let d := W.copyDesc 0x24000 0x20000 64 13 0 0; let e (k : Nat) : CopyEntry := ⟨0, 5, 0, 0, none, d, some k, false⟩
      copyReady (W.copying d 0 none (some 1)) 0 5 (e 1) ∧ copyReady (W.copying d 0 none (some 2)) 0 5 (e 2))
    ∧ (let d := W.copyDesc 0x24000 0x20000 64 0x205 0 0; let s := W.copying d 0 (some 0) none
      s.copyEntry 0 5 = some ⟨0, 5, 0, 0, some 0, d, none, false⟩ ∧ (s.evq 0 0 (descEvq d)).length < 32)
    ∧ 32 ≤ ((W.events 32 0).evq 0 0 0).length
    ∧ (let s := W.sending none 0 0 [(0, 5)]; s.chanDecl 0 0 = some ⟨0, 0x24000, 4, 16⟩ ∧ (s.channel 0 0).waiting = [(0, 5)]
        ∧ s.layers = [] ∧ (∀ t ∈ s.threads, ∀ o ∈ t.ops, o = W.waitOp (.chsend 0 0x20000 none))
        ∧ s.op? 0 5 = some (s.th, W.waitOp (.chsend 0 0x20000 none)) ∧ ((s.channel 0 0).wr - (s.channel 0 0).rd).toNat < 4)
    ∧ (let s := W.sending (some 0) 0 1 []; awaited s 0 5 s.th (W.waitOp (.chsend 0 0x20000 (some 0))) 6
        ∧ s.sender 0 0 0 = some (0, s.th, W.waitOp (.chsend 0 0x20000 (some 0))) ∧ (s.channel 0 0).filled = [] ∧ (s.channel 0 0).fl = 0
        ∧ (∀ t ∈ s.threads, ∀ o ∈ t.ops, o = W.waitOp (.chsend 0 0x20000 (some 0)))
        ∧ (match s.chanCopy s.th 0x20000 ((⟨0, 0x24000, 4, 16⟩ : Chan).slot 0) 16 with | .done _ => true | _ => false) = true)
    ∧ (let s := W.waiting (.wdq 0x800000000104); awaited s 0 5 s.th (W.waitOp (.wdq 0x800000000104)) 6
        ∧ (s.launch? s.th.lrec).isSome = true ∧ s.layers = [] ∧ s.caches.stashMaps = [] ∧ Memory.wf s.mem = true
        ∧ 0x800000000000 ≤ (0x800000000104 : Word).toNat ∧ (0x800000000104 : Word).toNat < 0x800000100000 - 3)
    ∧ (let d := W.copyDesc 0x24000 0x20000 64 5 2 0; let s := W.copying d 3 none none
      s.op? 0 5 = some (s.th, W.waitOp (.copy 3 d 0 0))
        ∧ s.dataCheck s.th.engine (s.engPlaces s.th.engine false (descSrc d).toNat (descLen d)) false = .ok ()
        ∧ s.filterRefuses s.th (descSrc d).toNat (descLen d) = false
        ∧ s.engWaits s.th.engine false [((descSrc d).toNat, descLen d)] [] = false
        ∧ s.engRefused s.th.engine .engRead (descSrc d).toNat (descLen d) = false ∧ s.engineLoad (engineOf 0) + descLen d ≤ 65536
        ∧ s.queues.groups = [] ∧ descLane d 6 ≠ 1)
    ∧ (let s := W.waiting (.hostev 7); awaited s 0 5 s.th (W.waitOp (.hostev 7)) 6 ∧ s.queues.lastHostev = []) := by
  refine ⟨⟨by unfold copyReady; decide +kernel, W.awaits (by decide +kernel) (by decide +kernel) (by decide +kernel) (by decide +kernel),
      ?_, ?_, ?_, ?_, ?_⟩, ?_,
    ?_, ?_, ?_, by unfold copyReady; decide +kernel, ?_, ?_, ?_,
    ⟨W.awaits (by decide +kernel) (by decide +kernel) (by decide +kernel) (by decide +kernel), ?_, ?_,
      ?_, ?_, ?_⟩,
    ⟨W.awaits (by decide +kernel) (by decide +kernel) (by decide +kernel) (by decide +kernel), ?_⟩,
    ⟨?_, W.okAs (by decide +kernel), ?_, ?_, ?_, ?_,
      ?_, ?_⟩,
    W.awaits (by decide +kernel) (by decide +kernel) (by decide +kernel) (by decide +kernel), ?_⟩ <;> decide +kernel

/-- The small machine with an operation on the page at 0x2_0000, whose home holds a record. -/
def W.home (k : OpKind) (g : AppendPage) : State :=
  let s := W.waiting k
  { s with caches := { s.caches with appendPages := [g] } }

theorem witness_HomesAppendAndSeal :
    (let s := W.home (.append 0x20000 2 [1, 2, 3, 4]) ⟨2, 10, 8, false, none, 0x3810, [], [], [], []⟩; let g := s.pageRec 2 0
      awaited s 0 5 s.th (W.waitOp (.append 0x20000 2 [1, 2, 3, 4])) 6 ∧ served s 0 5 2 ∧ g.isSealed = false ∧ g.seals = []
        ∧ (g.reserve.toNat + 3) / 4 * 4 + 4 ≤ 65536 ∧ Memory.wf s.mem = true)
    ∧ (let s := W.home (.append 0x20000 2 [1, 2, 3, 4]) ⟨2, 65533, 8, false, none, 0x3810, [], [], [], []⟩; let g := s.pageRec 2 0
      served s 0 5 2 ∧ g.isSealed = false ∧ 65536 < (g.reserve.toNat + 3) / 4 * 4 + 4)
    ∧ (let s := W.home (.append 0x20000 2 [1, 2, 3, 4]) ⟨2, 8, 8, true, none, 0x3810, [], [], [], []⟩
      served s 0 5 2 ∧ (s.pageRec 2 0).isSealed = true)
    ∧ (let s := W.home (.append 0x20000 2 [1, 2, 3, 4]) ⟨2, 12, 8, false, none, 0x3810, [⟨8, 4, false, 0, 5⟩], [], [], []⟩
      awaited s 0 5 s.th (W.waitOp (.append 0x20000 2 [1, 2, 3, 4])) 6 ∧ (s.pageRec 2 0).writes = [⟨8, 4, false, 0, 5⟩]
        ∧ (s.pageRec 2 0).seals = [] ∧ Memory.wf s.mem = true ∧ s.pageAsleep 2 = false
        ∧ State.pageAsleep { s with layers := [⟨0, .asleep⟩] } 2 = true)
    ∧ (let s := W.home (.sealOp 0x20000 2 0x3810) ⟨2, 12, 12, false, none, 0x3810, [], [], [], []⟩
      awaited s 0 5 s.th (W.waitOp (.sealOp 0x20000 2 0x3810)) 6 ∧ served s 0 5 2 ∧ (s.pageRec 2 0).writes = []
        ∧ (s.pageRec 2 0).isSealed = false ∧ Memory.wf s.mem = true) := by
  unfold served
  refine ⟨⟨W.awaits (by decide +kernel) (by decide +kernel) (by decide +kernel) (by decide +kernel), ?_⟩,
    ?_, ?_,
    ⟨W.awaits (by decide +kernel) (by decide +kernel) (by decide +kernel) (by decide +kernel), ?_⟩,
    W.awaits (by decide +kernel) (by decide +kernel) (by decide +kernel) (by decide +kernel), ?_⟩ <;> decide +kernel

/-- A message about the line at 0x2_0040 from pool 0 of die 1. -/
def W.msg : CohMsg := ⟨0x20040, 1, 0, 0, 0⟩

theorem witness_PagesMoveAndAreFreed :
    (let s := W.paged 0; (∃ l, s.walk 0 0x20000 = some l
        ∧ (s.movable l 0x50000 && !s.movable l 0x50001 && !s.moveWaits l && !s.moveBusy l 0x50000 5 && l.cls != 3
          && State.moveWaits { s with pending := [.lostMsg ⟨0x20040, 1, 0, 0, 0⟩] } l
          && !State.moveBusy { s with pending := [.lostMsg ⟨0x20040, 1, 0, 0, 0⟩] } l 0x50000 5) = true)
        ∧ s.walkStop 0 0x20000 = none ∧ s.caches.migrations = [] ∧ s.pending = [] ∧ s.caches.stashLines = [] ∧ Memory.wf s.mem = true)
    ∧ (let m : Migration := ⟨2, 5, 1, 0, [⟨.gets W.msg, none⟩], true⟩; let s := { W.task with caches := { W.task.caches with migrations := [m] } };
      s.caches.migrations.find? (fun x => x.page == 2 && x.moved && !x.queued.isEmpty) = some m)
    ∧ (let s := W.paged 3; s.walkStop 0 0x20000 = none ∧ ∃ l, s.walk 0 0x20000 = some l
        ∧ (l.cls == 3 && (s.pageRec (pageNo l.pa) l.pte).freeing.isNone && isHbm (BitVec.ofNat 52 l.pa) && s.awake l.home) = true)
    ∧ (let s := W.home .bamo ⟨2, 12, 12, true, some 0, 0x3810, [], [], [], []⟩; (s.pageRec 2 0).freeing = some 0 ∧ s.pageAsleep 2 = false
        ∧ (0 : BitVec 64) ||| BitVec.ofNat 64 (2 ^ 63) ≠ BitVec.allOnes 64)
    ∧ (let s := W.home .bamo ⟨2, 12, 12, true, some 0x7FFFFFFFFFFFFFFF, 0x3810, [], [], [], []⟩; let g := s.pageRec 2 0
      g.freeing = some 0x7FFFFFFFFFFFFFFF ∧ s.pageAsleep 2 = false ∧ (0x7FFFFFFFFFFFFFFF : BitVec 64) ||| BitVec.ofNat 64 (2 ^ 63) = BitVec.allOnes 64
        ∧ g.frees = [] ∧ g.queued = [] ∧ Memory.wf s.mem = true ∧ g.pte.toNat + 8 ≤ 2 * 65536) := by
  refine ⟨⟨W.someWith (by decide +kernel), ?_, ?_, ?_, ?_, ?_⟩,
    ?_, ⟨?_, W.someWith (by decide +kernel)⟩, ?_, ?_⟩ <;> decide +kernel

/-- The small machine with a directory entry for that line's region, poisoned lines, filters and transactions. -/
def W.directory (e : DirEntry) (p : List (BitVec 52)) (f : List ClassFilter) (x : List LineTx) : State :=
  { W.mem with caches := { W.mem.caches with dir := [e], poison := p, classF := f, dieF := [⟨1, 0x20000, 0, false, 0, 0⟩], txs := x } }

/-- R299's table: of requests at ports 1 and 3, with the pointer at port 2, the one at port 3 is served first. -/
theorem test_port_order : portOrder 2 [(1, Instr.gets { W.msg with die := 5 }), (3, .gets { W.msg with die := 40 })]
    = [.gets { W.msg with die := 40 }, .gets { W.msg with die := 5 }] := by decide

/-- A line with an empty queue before its home. -/
theorem W.unqueued {s : State} {l : BitVec 52} (h : s.caches.homeQ = []) : noneQueued s l := by simp [noneQueued, h]

theorem witness_CoherenceMessagesAct :
    (let s := W.mem; atRest s W.msg.line ∧ s.lineState W.msg.line = 0 ∧ Memory.wf s.mem = true ∧ s.caches.stashLines = []
        ∧ s.dieEntry W.msg.die W.msg.line = none ∧ s.probeWaits W.msg = false ∧ s.poolKeeps 1 0 = true
        ∧ s.dieOwns W.msg.line W.msg.die = false ∧ s.rangesOn W.msg.die W.msg.line = [] ∧ s.caches.badSectors = []
        ∧ 24 ≤ ({ W.msg with pool := 31 } : CohMsg).pool.toNat ∧ ∀ x, .recallMsg x ∉ s.pending ∧ .downMsg x ∉ s.pending)
    ∧ (let s := W.directory ⟨0x20000, 0, 0, 4, 0⟩ [] [] []; atRest s W.msg.line ∧ s.lineState W.msg.line = 1 ∧ (s.dirOf W.msg.line).dv = 0)
    ∧ (physOf 0x8000000000000 = .host ∧ (0x8000000000000 : BitVec 52).toNat % 64 = 0)
    ∧ (let s := W.directory ⟨0x20000, 0, 0, 0, 0⟩ [0x20040] [] []; atRest s W.msg.line ∧ s.lineState W.msg.line = 3)
    ∧ (let s := W.directory ⟨0x20000, 0, 0x40, 8, 2⟩ [] [⟨1, 0, 0x20040, false, true, 2, 0⟩] []
      atRest s W.msg.line ∧ s.lineState W.msg.line = 2 ∧ s.lineOwner W.msg.line = W.msg.die ∧ s.ownedOn W.msg.die W.msg.line = true
        ∧ s.dieEntry W.msg.die W.msg.line ≠ none ∧ W.msg.rq = 0 ∧ s.caches.stashLines = [] ∧ s.probeWaits W.msg = false
        ∧ s.lineBusy W.msg.line = false ∧ s.dieOwns W.msg.line W.msg.die = true ∧ W.msg.pool.toNat < 24
        ∧ (∀ c ∈ s.caches.classF, c.die = W.msg.die → c.line = W.msg.line → c.pool ≠ W.msg.pool → c.state ≠ 2)
        ∧ ∀ x, .recallMsg x ∉ s.pending ∧ .downMsg x ∉ s.pending)
    ∧ (let s := W.directory ⟨0x20000, 0, 0, 4, 6⟩ [] [] []; atRest s W.msg.line ∧ s.lineState W.msg.line = 1 ∧ (s.dirOf W.msg.line).dv ≠ 0)
    ∧ (let s := W.directory ⟨0x20000, 2, 0, 0, 0⟩ [] [] []
      arrives s W.msg.line ∧ s.lineFree W.msg.line = false ∧ (s.sliceQueue W.msg.line).length < 64
        ∧ 64 ≤ (({ s with caches := { s.caches with homeQ := List.replicate 64 ⟨.gets W.msg, none⟩ } } : State).sliceQueue W.msg.line).length)
    ∧ (let s := { W.mem with layers := [⟨0, .asleep⟩] }; isHbm (pageNo W.msg.line.toNat ++ 0#16) = true
        ∧ s.awake (s.homeOf (pageNo W.msg.line.toNat ++ 0#16)) = false)
    ∧ ({ W.mem with pending := [.lostMsg W.msg] } : State).probeWaits W.msg = true
    ∧ (let s := W.directory ⟨0x20000, 0, 0x40, 8, 2⟩ [] [] []
      noneQueued s W.msg.line ∧ s.poolKeeps W.msg.die W.msg.pool = true ∧ s.lineState W.msg.line = 2 ∧ s.lineOwner W.msg.line = W.msg.die
        ∧ s.classEntry W.msg.die W.msg.pool W.msg.line = none ∧ s.dieCopyOf W.msg.die W.msg.line.toNat = none)
    ∧ (let s := W.directory ⟨0x20000, 0, 0, 4, 2⟩ [] [] []
      noneQueued s W.msg.line ∧ s.poolKeeps W.msg.die W.msg.pool = true ∧ s.lineState W.msg.line = 1
        ∧ (s.dirOf W.msg.line).dv.getLsbD W.msg.die.toNat = true)
    ∧ (let x : LineTx := ⟨0x20040, .gets W.msg, BitVec.ofNat 64 (2 ^ 3)⟩; let s := W.directory ⟨0x20000, 2, 0xC0, 8, 8⟩ [] [] [x]
      s.caches.txs = [x] ∧ x.line = W.msg.line ∧ x.need = BitVec.ofNat 64 (2 ^ (3 : BitVec 6).toNat) ∧ s.caches.homeQ = []
        ∧ s.lineState W.msg.line = 2 ∧ s.lineOwner W.msg.line = 3 ∧ Memory.wf s.mem = true)
    ∧ ((∀ i ∈ [Instr.gets W.msg, .geto W.msg false], ∃ x, requestMsg i = some x ∧ x.line = W.msg.line)
      ∧ (let ptr := (lookup? W.mem.caches.ports (W.mem.sliceOf W.msg.line)).getD 0; ((1 : BitVec 2) - ptr).ult (3 - ptr)) = true) := by
  unfold atRest arrives
  refine ⟨⟨⟨?_, ?_, W.unqueued (by decide +kernel)⟩, ?_, ?_, ?_,
      ?_, ?_, ?_, ?_, ?_, ?_, ?_,
      fun _ => ⟨List.not_mem_nil, List.not_mem_nil⟩⟩,
    ⟨⟨?_, ?_, W.unqueued (by decide +kernel)⟩, ?_⟩, ?_,
    ⟨⟨?_, ?_, W.unqueued (by decide +kernel)⟩, ?_⟩,
    ⟨⟨?_, ?_, W.unqueued (by decide +kernel)⟩, ?_, ?_, ?_,
      ?_, ?_, ?_, ?_, ?_, ?_, ?_,
      ?_, fun _ => ⟨List.not_mem_nil, List.not_mem_nil⟩⟩,
    ⟨⟨?_, ?_, W.unqueued (by decide +kernel)⟩, ?_⟩, ?_, ?_,
    ?_, ⟨W.unqueued (by decide +kernel), ?_⟩, ⟨W.unqueued (by decide +kernel), ?_⟩,
    ?_, by simp [requestMsg], ?_⟩ <;> decide +kernel

theorem witness_HostAndFabricWrites :
    calm W.mem
    ∧ ((5 : Word).extractLsb' 16 48 = 0 ∧ (0x10000 : Word).extractLsb' 16 48 ≠ 0)
    ∧ (let v : Word := 0x8000000000030001; v.extractLsb' 52 4 = 0 ∧ v.extractLsb' 5 7 = 0 ∧ v.getLsbD 63 = true
        ∧ 1 ≤ (v.extractLsb' 0 5).toNat ∧ (v.extractLsb' 0 5).toNat ≤ 16 ∧ queueBaseOk v = true
        ∧ (W.mem.queueIdx (W.mem.queueEntry 3).1).1 = (W.mem.queueIdx (W.mem.queueEntry 3).1).2)
    ∧ (let s := W.submits 1 0 0x22 3; let e := s.queueEntry 3; (s.queueIdx e.1).1 ≠ (s.queueIdx e.1).2 ∧ e.1.extractLsb' 0 5 ≠ 0
        ∧ (0x8000000000040001 : Word).extractLsb' 12 40 ≠ e.1.extractLsb' 12 40 ∧ queueBaseOk 0x8000000000040001 = true)
    ∧ (W.mem.ctr 5).valid = false
    ∧ (let s := W.counter 0x8400000000000000; (s.ctr 5).valid = true ∧ (s.ctr 5).state = 1 ∧ (s.ctr 5).level = 0)
    ∧ (let s := W.counter 0xC400000000000003; (s.ctr 5).valid = true ∧ (s.ctr 5).state = 1 ∧ 2 ≤ (s.ctr 5).level.toNat ∧ noneWaits s)
    ∧ (0x1000000000000000 : Word).getLsbD 60 = true ∧ (0x8000000000000000 : Word).getLsbD 60 = false
    ∧ (0x4870 : BitVec 16).toNat % 16 = 0 ∧ (0x4870 : BitVec 16).toNat < 0x4880
    ∧ (let s := W.mem; let u := { s with tables := { s.tables with asids := assoc s.tables.asids 7 (0x3000, 0) } }
      s.breaksPin u = false ∧ u.classPages 2 = [] ∧ u.classPages 3 = [])
    ∧ (let s := W.mem.putLease ⟨0, 1, 0x20000, 0x10000, 0, 3⟩
      s.breaksPin { s with tables := { s.tables with asids := assoc s.tables.asids 0 (0x3000, 0) } } = true)
    ∧ (let s := { W.mem with tables := { W.mem.tables with asids := [] } }; physOf (0x2003F : BitVec 52).toNat = .hbm
        ∧ (0x2003F : BitVec 52).toNat % 64 + (1 : BitVec 7).toNat ≤ 64 ∧ s.tables.leaseE = [] ∧ s.tables.asids = [])
    ∧ calm { W.mem with tables := { W.mem.tables with asids := [] } }
    ∧ (let s := W.busy; s.homeHolds (some (.event (.hostMemAccess 0x2003F true 1 0))) false (lineOf 0x2003F)
        (s.homeOf (BitVec.ofNat 52 (lineOf 0x2003F))) = true)
    ∧ W.mem.importOf 7 0x20000 256 = none
    ∧ (let e := Instr.fabricWrite 7 0x20000 256 5 ⟨0, 0⟩; let ag := outsideAgent 0 e
      let s := { W.mem with boundary := { W.mem.boundary with imports := [(7, 0, 0x20000, 0x10000)] } }
      s.importOf 7 0x20000 256 = some 0 ∧ s.engWalk ag [(0x20000, 256)] = none ∧ s.engRefused ag .engWrite 0x20000 256 = false
        ∧ (∀ p ∈ s.engPlaces ag false 0x20000 256, physOf p.key ≠ .host) ∧ s.engWaits ag false [] [(0x20000, 256)] = false
        ∧ State.engWaits { s with caches := W.busy.caches } ag false [] [(0x20000, 256)] = true
        ∧ s.dataCheck ag (s.engPlaces ag false 0x20000 256) true = .ok ())
    ∧ (let e := Instr.fabricWrite 7 0x20000 256 5 ⟨0, 0⟩
      W.mem.engWalk (outsideAgent 9 e) [(0x20000, 256)] = none ∧ W.mem.engRefused (outsideAgent 9 e) .engWrite 0x20000 256 = true)
    ∧ (let e := Instr.fabricWrite 7 0x20000 256 5 ⟨0, 0⟩; let ag := outsideAgent 0 e
      let s := { W.paged 0 with mem := Memory.write64 (W.paged 0).mem 0x3810 0x8000000000003 }
      s.engWalk ag [(0x20000, 256)] = none ∧ ∃ p ∈ s.engPlaces ag false 0x20000 256, physOf p.key = .host ∧ 0 < p.n
        ∧ s.hostAllowed ((s.asidEntry 0).2.extractLsb' 0 4) p.key = false) := by
  refine ⟨W.calmOf (by decide +kernel), ?_, ?_, ?_, ?_, ?_,
    ⟨?_, ?_, ?_, W.noneWaitsOf (by decide +kernel) (by decide +kernel)⟩,
    ?_, ?_, ?_, ?_, ?_, ?_, ?_,
    W.calmOf (by decide +kernel), ?_, ?_,
    ⟨?_, ?_, ?_, ?_, ?_, ?_,
      W.okAs (by decide +kernel)⟩, ?_, ?_⟩ <;> decide +kernel

/-- The small machine at slot 9 of its stack's frame, which layer 0 owns for partition 1, with a beat to send. -/
def W.beat (e : BitVec 16) (l : List Layer) : State :=
  let s := W.waiting .bamo
  { s with tables := { s.tables with belltab := [(0, 9, e)] }, layers := l,
           queues := { s.queues with bellSlot := s.queues.bellSlot.set! 0 9, bellQ := [⟨0, 1, [⟨1, 0, 3, 7, 0, 5, 0⟩]⟩] } }

theorem witness_BellAndLayersAct :
    (let s := W.beat 0x4001 [⟨5, .asleep⟩]; let b : Beat := ⟨1, 0, 3, 7, 0, 5, 0⟩
      s.queues.bellSlot[(0 : BitVec 3).toNat]?.getD 0 = 9 ∧ (s.belltab 0 9).extractLsb' 14 2 = 1 ∧ s.bellQueue 0 ((s.belltab 0 9).extractLsb' 0 4) = [b]
        ∧ s.awake 0 = true ∧ b.op.toNat ≤ 4 ∧ b.die = 0 ∧ Memory.wf s.mem = true ∧ b.op ≠ 0 ∧ s.queues.lagging = [] ∧ awaited s b.hwid b.gen s.th (W.waitOp .bamo) 6)
    ∧ (W.beat 0 []).belltab 0 9 = 0
    ∧ (let s := { W.mem with tables := { W.mem.tables with bellPend := [(0, 7, 0x4805, true)] } }
      s.queues.bellSlot[(0 : BitVec 3).toNat]?.getD 0 = 0 ∧ s.layers = [] ∧ s.tables.bellPend = [(0, 7, 0x4805, true)])
    ∧ (let s := { State.reset with layers := [⟨5, .asleep⟩] }; s.layers = [⟨5, .asleep⟩] ∧ Memory.wf s.mem = true
        ∧ s.queues.bellSlot[(stackOf 5).toNat]?.getD 0 = 0 ∧ s.mem = [] ∧ ∀ k, Memory.get s.mem k = 0)
    ∧ (let s := W.dirty 0 0; s.maySleep 3 = true ∧ ∀ c ∈ s.caches.dieCopies, c.die = 3 → c.dirty = 0 ∨ s.lineHeld 3 c.line = false) := by
  refine ⟨⟨?_, ?_, ?_, ?_, ?_, ?_, ?_, ?_, ?_,
      W.awaits (by decide +kernel) (by decide +kernel) (by decide +kernel) (by decide +kernel)⟩,
    ?_, ?_, ⟨?_, ?_, ?_, ?_, fun _ => rfl⟩, ?_⟩ <;> decide +kernel

theorem witness_StartsAttestationPowerAndErrors :
    (let r : StartRun := ⟨true, true, true, true, true, ⟨⟨0, true⟩, ⟨0, true⟩⟩, ⟨⟨0, true⟩, ⟨0, false⟩⟩, true, 1, 4, []⟩
      let f := State.reset.boundary.fuses
      f.accept r.image = true ∧ f.accept r.config = false ∧ f.accept ⟨⟨1, true⟩, ⟨0, true⟩⟩ = false
        ∧ r.fuses = true ∧ r.training = true ∧ r.bist = true ∧ r.hbm = true ∧ r.bell = true ∧ r.inTime = true)
    ∧ (let b := State.reset.boundary; b.shutdown = false ∧ b.ready = true ∧ b.recovery = false ∧ b.restart = false ∧ b.trained = true
        ∧ b.badLinks = [] ∧ b.attempts.toNat < 2 ∧ Memory.wf State.reset.mem = true ∧ (5 : BitVec 16).toNat < 1600
        ∧ 1600 ≤ (1700 : BitVec 16).toNat ∧ (1700 : BitVec 16).toNat ≤ b.fuses.moduleCeil.toNat
        ∧ b.fuses.moduleCeil.toNat < (5000 : BitVec 16).toNat ∧ (500 : BitVec 16).toNat ≤ b.fuses.stackCeil.toNat
        ∧ b.fuses.stackCeil.toNat < (521 : BitVec 16).toNat ∧ 12 ≤ (12 : BitVec 16).toNat
        ∧ (27 : BitVec 16).toNat ≤ b.fuses.clockCeil.toNat ∧ b.fuses.clockCeil.toNat < (28 : BitVec 16).toNat)
    ∧ (let s := { State.reset with boundary := { State.reset.boundary with attempts := 2, starting := true, recovery := true, measurements := [1, 2, 3, 4] } };
      s.boundary.attempts = 2 ∧ s.boundary.starting = true ∧ s.boundary.recovery = true ∧ s.boundary.shutdown = false
        ∧ s.boundary.restart = false ∧ s.boundary.measurements[(4 : BitVec 8).toNat - 1]? = some 4)
    ∧ State.reset.boundary.stackClock[(7 : BitVec 3).toNat]?.isSome = true
    ∧ State.reset.dieCopyOf 3 0x20000 = none ∧ State.reset.boundary.mcLog.length < 4096 ∧ State.reset.caches.stashLines = []
    ∧ 100 ≤ (100 : BitVec 10).toNat ∧ (94 : BitVec 10).toNat < 95 ∧ 115 ≤ (115 : BitVec 10).toNat := by decide +kernel

/-- A word that the small machine fetches at 0x1_0000. -/
theorem W.fetched {s : State} {w : BitVec 32}
    (h : s.tape = [] ∧ s.th.ready = true ∧ s.th.buf = [] ∧ s.th.parked = [] ∧ s.caches.iblocks = [] ∧ s.caches.stashLines = []
      ∧ s.noTickets = true ∧ s.fetchHeld s.th = false ∧ s.fetchError s.th = none ∧ s.fetchPA s.th s.th.pc.toNat = some 0x10000
      ∧ s.th.stepped (BitVec.ofNat 32 (numberAt s 0x10000 4)) = some w) : fetches s w := by
  obtain ⟨a, b, c, p, d, e, n, f, g, i, j⟩ := h
  exact ⟨a, b, c, p, d, e, n, f, g, 0x10000, i, j⟩

theorem witness_StepRunsDecoded :
    (let s := W.word 0x04310501; fetches s 0x04310501 ∧ decodeWord 0x04310501 = .ok (.sub 3 4 5) ∧ s.noCtl 0x04310501 = false
        ∧ s.hintmis 0x04310501 = false
        ∧ s.th.parks 0x04310501 = false ∧ s.th.mustWait 0x04310501 = false ∧ s.th.observed 0x04310501 = none ∧ s.th.unseen = [] ∧ s.th.inShadow = false
        ∧ s.th.ops.length ≤ 32
        ∧ ∃ t, exec (.sub 3 4 5) s = .next t ∧ (!s.th.sameSpot t.th && t.th.ops.length ≤ 32 && t.counters.perf == [] && t.noTickets) = true)
    ∧ (let s := W.by (W.word 0x04318501) fun t => { t with ops := [W.waitOp .bamo] }
      fetches s 0x04318501 ∧ decodeWord 0x04318501 = .ok (.sub 3 6 5) ∧ s.noCtl 0x04318501 = false ∧ s.hintmis 0x04318501 = false
        ∧ s.th.parks 0x04318501 = false ∧ s.th.mustWait 0x04318501 = true)
    ∧ (let s := W.by (W.word 0x04318501) fun t => { t with hwid := 0x10000, ops := [W.waitOp .bamo] }
      fetches s 0x04318501 ∧ decodeWord 0x04318501 = .ok (.sub 3 6 5) ∧ s.noCtl 0x04318501 = false ∧ s.hintmis 0x04318501 = false
        ∧ s.th.parks 0x04318501 = true)
    ∧ (let s := W.by (W.word 0x3C000001) fun t => { t with pfx := some ⟨0xFFFC, none, some 5, none, false⟩ }
      fetches s 0x3C000001 ∧ decodeWord 0x3C000001 = .ok .exitTask ∧ s.noCtl 0x3C000001 = false ∧ s.hintmis 0x3C000001 = true)
    ∧ (let s := W.word 0; fetches s 0 ∧ (decodeWord 0).toOption = none ∧ s.th.pfx = none)
    ∧ (let s := W.word 0xD8300002; fetches s 0xD8300002 ∧ s.noCtl 0xD8300002 = true ∧ s.th.pfx = none)
    ∧ (let s := W.by W.task fun t => { t with pc := 0x7FFFFFFC0000 }; s.tape = [] ∧ s.th.buf = [] ∧ s.th.ready = true
        ∧ s.th.parked = [] ∧ s.fetchPA s.th s.th.pc.toNat = none ∧ s.walkWaits s.th.fetchTlbs s.th.asid s.th.pc.toNat = false)
    ∧ (State.reset.tape = [] ∧ State.reset.th.buf = [] ∧ State.reset.th.parked = [] ∧ State.reset.th.ready = false ∧ State.reset.pending = [] ∧ State.reset.others = [])
    ∧ (let s := { W.task with pending := [.guestAgeing 0] }; s.pending = [.guestAgeing 0] ∧ s.th.buf = []
        ∧ ∃ t, exec (.guestAgeing 0) { s with pending := [] } = .next t ∧ (t.pending == [] && t.noTickets) = true)
    ∧ (let s := W.lagging; s.th.live = true ∧ s.th.buf = [⟨0, [(⟨0x20000, 8, 0, 0, 0, 0x20000⟩, bytesOfNat 8 7)], 0x10000, 0, 0, false, 0⟩]
        ∧ s.homeWaits s.th.storer [⟨0x20000, 8, 0, 0, 0, 0x20000⟩] true = false)
    ∧ (let s := { W.task with tape := [.event (.guestAgeing 0), .run 0, .race 0 [], .tick 3] }
      s.tape = [.event (.guestAgeing 0), .run 0, .race 0 [], .tick 3]
        ∧ encodeNat (.guestAgeing 0) = none ∧ s.counters.perf = [] ∧ s.boundary.shutdown = false)
    ∧ (let s := { State.reset with tape := [.run 0], boundary := { State.reset.boundary with shutdown := true } }
      s.boundary.shutdown = true ∧ s.tape = [.run 0] ∧ (Input.run 0).afterShutdown = false) := by
  refine ⟨⟨W.fetched (by decide +kernel), W.okAs (by decide +kernel), ?_, ?_, ?_,
      ?_, ?_, ?_, ?_, ?_, W.goesTo (by decide +kernel)⟩,
    ⟨W.fetched (by decide +kernel), W.okAs (by decide +kernel), ?_, ?_, ?_⟩,
    ⟨W.fetched (by decide +kernel), W.okAs (by decide +kernel), ?_, ?_, ?_⟩,
    ⟨W.fetched (by decide +kernel), W.okAs (by decide +kernel), ?_⟩,
    ⟨W.fetched (by decide +kernel), ?_, ?_⟩, ⟨W.fetched (by decide +kernel), ?_⟩,
    ?_, ?_, ⟨rfl, ?_, W.goesTo (by decide +kernel)⟩, ?_,
    ⟨rfl, ?_⟩, ?_⟩ <;> decide +kernel

theorem witness_DecodeInvertsEncode :
    (Instr.add 63 63 63).check = none ∧ encodeNat (.add 63 63 63) = some 0x07FFFF00
      ∧ (Instr.fst 63 63 5 6 127).check = none ∧ (encodeNat (.fst 63 63 5 6 127)).isSome = true := by decide +kernel

theorem witness_StepKeepsMemoryCanonical :
    (W.word 0x04310501).MemoryCanonical ∧ ∃ t, step (W.word 0x04310501) = .next t ∧ (t.th.pc == 0x10004) = true :=
  ⟨by unfold State.MemoryCanonical; decide +kernel, W.goesTo (by decide +kernel)⟩

theorem witness_StepStopsOnlyAtReserved :
    physOf (0x10000000000 : BitVec 52).toNat = .reserved ∧ physOf (0x4000100000000 : BitVec 52).toNat = .reserved
      ∧ let s := { State.reset with tape := [.event (.hostMemAccess 0x10000000000 false 1 0)] }
        .event (.hostMemAccess 0x10000000000 false 1 0) ∈ s.tape
          ∧ (match step s with | .fault f => decide (f = .reservedPhysical 0x10000000000) | _ => false) = true := by
  refine ⟨by decide +kernel, by decide +kernel, by simp, by decide +kernel⟩

/-! Single steps. The expected values are worked out by hand from the rules named. -/

/-- The small machine with s4 and s5 set. -/
def W.two (x y : Word) : State := W.put W.mem [(4, x), (5, y)]

/-- What an instruction leaves in a scalar register of the small machine. -/
def W.leaves (i : Instr) (s : State) (n : BitVec 6) (x : Word) : Bool := W.goes (exec i s) fun t => t.th.getS n == ⟨x, 0⟩

/-- R126: subtraction wraps. -/
theorem test_sub_wraps : W.leaves (.sub 3 4 5) (W.two 0 1) 3 0xFFFFFFFFFFFFFFFF = true := by decide +kernel

/-- R126: a source that is also the destination; the upper half of a product, signed and unsigned. -/
theorem test_mulh : W.leaves (.mulh 4 4 5) (W.two 0xFFFFFFFFFFFFFFFF 3) 4 0xFFFFFFFFFFFFFFFF = true
    ∧ W.leaves (.mulhu 4 4 5) (W.two 0xFFFFFFFFFFFFFFFF 3) 4 2 = true := by decide +kernel

/-- R127: division corners give values and no trap. -/
theorem test_div_corners : W.leaves (.div 3 4 5) (W.two 0x8000000000000000 0xFFFFFFFFFFFFFFFF) 3 0x8000000000000000 = true
    ∧ W.leaves (.divu 3 4 5) (W.two 7 0) 3 0xFFFFFFFFFFFFFFFF = true ∧ W.leaves (.rem 3 4 5) (W.two 0xFFFFFFFFFFFFFFF9 4) 3 0xFFFFFFFFFFFFFFFD = true := by
  decide +kernel

/-- R126, R128: shift amounts take their low bits; extensions read the low bits. -/
theorem test_shift_extend : W.leaves (.sra 3 4 5) (W.two 0x8000000000000000 65) 3 0xC000000000000000 = true
    ∧ W.leaves (.sext 3 4 1) (W.two 0x18000 0) 3 0xFFFFFFFFFFFF8000 = true
    ∧ W.leaves (.addw 3 4 5) (W.two 0x7FFFFFFF 1) 3 0xFFFFFFFF80000000 = true := by decide +kernel

/-- R106: a result for s0 is discarded. -/
theorem test_s0_discards : W.leaves (.add 0 4 5) (W.two 3 4) 0 0 = true := by decide +kernel

/-- R129: the 14-bit immediate is signed. -/
theorem test_immediate_signed : W.leaves (.addi 3 4 0x3FFF) (W.two 0 0) 3 0xFFFFFFFFFFFFFFFF = true
    ∧ W.leaves (.sltiu 3 4 0x3FFF) (W.two 7 0) 3 1 = true := by decide +kernel

/-- R132: a taken branch counts from its own word, in words. -/
theorem test_branch : W.goes (exec (.bne 4 5 0x7FF) (W.two 1 2)) (fun t => t.th.pc == 0xFFFC) = true
    ∧ W.goes (exec (.bltu 4 5 2) (W.two 0xFFFFFFFFFFFFFFFF 2)) (fun t => t.th.pc == 0x10004) = true := by decide +kernel

/-- R133, R394: a jump to a misaligned address raises ALIGN (0x03) with it, and enters the handler. -/
theorem test_jalr_align : W.goes (exec (.jalr 62 4 2) (W.two 0x20000 0)) (fun t => t.th.pc == 0x8000 && t.th.tcause == 3
    && t.th.tval == 0x20002 && t.th.tpc == 0x10000 && t.th.getS 62 == ⟨0, 0⟩) = true := by decide +kernel

/-- R134: a count of zero skips the body. -/
theorem test_loop_skips : W.goes (exec (.loop 0 5 3) (W.two 0 0)) (fun t => t.th.pc == 0x10010 && t.th.ldepth == 0) = true := by
  decide +kernel

/-- R396: ERET goes on at TPC, its two low bits zero. -/
theorem test_eret : W.goes (exec .eret (W.by W.mem fun t => { t with tpc := 0x20006 })) (fun t => t.th.pc == 0x20004) = true := by
  decide +kernel

/-- R389: TRAP takes cause 0x0E with s[a]. -/
theorem test_trap : W.goes (exec (.trap 4) (W.two 0x1234 0)) (fun t => t.th.tcause == 0x0E && t.th.tval == 0x1234 && t.th.pc == 0x8000) = true := by
  decide +kernel

/-- R5, R243: memory is little-endian; LDB extends by the sign, LDBU by zeros. The byte at 0x2_0000 is 0xA8, the next 0xA7. -/
theorem test_loads : W.leaves (.ldh 3 4 0 0 0) W.mem 3 0xFFFFFFFFFFFFA7A8 = true ∧ W.leaves (.ldbu 3 4 0 0 1) W.mem 3 0xA7 = true := by
  decide +kernel

/-- R243: a store writes its low bytes, the lowest first, and no other. -/
theorem test_store : W.goes (exec (.stw 5 4 0 0 1) (W.put W.mem [(5, 0x1122334455667788)])) (fun t =>
    (List.range 6).map (fun i => Memory.get t.mem (0x20003 + i)) == [0xA5, 0x88, 0x77, 0x66, 0x55, 0xA0]) = true := by decide +kernel

/-- R238: an address its size does not divide raises ALIGN with the address. -/
theorem test_load_align : W.goes (exec (.ldd 3 4 0 0 0) (W.put W.mem [(4, 0x20004)])) (fun t => t.th.tcause == 3 && t.th.tval == 0x20004) = true := by
  decide +kernel

/-- R249: AMOADD gives the old word, sign-extended, and leaves the sum modulo 2^32. -/
theorem test_amoadd : W.goes (exec (.amoadd 3 4 5 0 0) (W.put W.mem [(5, 0x7B5A5958)])) (fun t =>
    t.th.getS 3 == ⟨0xFFFFFFFFA5A6A7A8, 0⟩ && (List.range 4).map (fun i => Memory.get t.mem (0x20000 + i)) == [0, 1, 1, 0x21]) = true := by
  decide +kernel

/-- R246: a vector load puts word j in slot j. -/
theorem test_vld : W.goes (exec (.vld 6 4 0 0 0 0) W.mem) (fun t => (t.th.getV 6).elem 32 1 == 0xA1A2A3A4 && (t.th.getV 6).tail == 0) = true := by
  decide +kernel

/-- R150, R151: a lane's sum wraps, and with saturation stops at the largest number; a masked lane keeps its value. -/
theorem test_vadd : let v : VReg := ⟨0x7FFFFFFF, 0⟩; let one : VReg := ⟨1, 0⟩
    W.goes (exec (.vadd 6 4 5 0 0 0 0) ((W.mem.wv 4 v).wv 5 one)) (fun t => (t.th.getV 6).elem 32 0 == 0x80000000) = true
      ∧ W.goes (exec (.vadd 6 4 5 0 0 0 0) (((W.lanes 0 true).wv 4 v).wv 5 one)) (fun t => (t.th.getV 6).elem 32 0 == 0x7FFFFFFF) = true
      ∧ W.goes (exec (.vadd 6 4 5 1 0 0 0) (((W.lanes 0 false).wv 4 v).wv 6 ⟨BitVec.allOnes 256, 0⟩)) (fun t =>
          (t.th.getV 6).elem 32 0 == 0x7FFFFFFF && (t.th.getV 6).elem 32 6 == 0xFFFFFFFF) = true := by decide +kernel

/-- R159: a sum over eight lanes of 5 in lane 0; R155: an element that is not there gives 0 and VALID 0. -/
theorem test_vred_vext : let v : VReg := ⟨0x0000000500000005000000050000000500000005000000050000000500000005, 0⟩
    W.goes (exec (.vred 6 4 0 0 0) (W.mem.wv 4 v)) (fun t => (t.th.getV 6).val == 40) = true
      ∧ W.goes (exec (.vext 3 4 5 0) ((W.two 0 8).wv 4 v)) (fun t => t.th.getS 3 == ⟨0, 0⟩ && t.th.valid == 0) = true := by decide +kernel

/-- R78, R112: 1 + (2^-24 + 2^-47) rounds up to the next number with NX; 1 + 1 is 2 with no flag. -/
theorem test_fadd : W.goes (exec (.fadd 3 4 5 1) (W.two 0x3F800000 0x33800001)) (fun t => t.th.getS 3 == ⟨0x3F800001, 0⟩ && t.th.fcsr == 1) = true
    ∧ W.goes (exec (.fadd 3 4 4 1) (W.two 0x3F800000 0)) (fun t => t.th.getS 3 == ⟨0x40000000, 0⟩ && t.th.fcsr == 0) = true := by
  decide +kernel

/-- R167: on a B-core 1 / 0 is an infinity with DZ; R182: an L-core ships the division. -/
theorem test_fdiv : W.goes (exec (.fdiv 3 4 5 1) (W.by (W.two 0x3F800000 0) fun t => { t with hwid := 0x10000 })) (fun t =>
      t.th.getS 3 == ⟨0x7F800000, 0⟩ && t.th.fcsr == 8) = true
    ∧ W.goes (exec (.fdiv 3 4 5 1) (W.two 0x3F800000 0)) (fun t => t.th.pendS 3 && t.pending.length == 1) = true := by decide +kernel

/-- R113, R165: an enabled flag raises FPTRAP (0x09) with nothing written. -/
theorem test_fptrap : W.goes (exec (.fadd 3 4 5 1) (W.floats 0x20)) (fun t => t.th.tcause == 9 && t.th.tval == 1 && t.th.getS 3 == ⟨0, 0⟩
    && t.th.fcsr == 0x20) = true := by decide +kernel

/-- R175: 1.5 converts to BF16 exactly. -/
theorem test_fcvt : W.leaves (.fcvt 3 4 1 3 1) (W.two 0x3FC00000 0) 3 0x3FC0 = true := by decide +kernel

/-- R200: an integer MMA adds the product of rows of A and B: here 3 × 2 at row 0, column 0 of D. -/
theorem test_mma : W.goes (exec (.mma 3 4 5) (W.by (W.tiles 0x90404 0xE2004 0xE2004 0 0 id) fun t =>
      (t.setTile 4 ⟨0xE2004, 3, 0⟩).setTile 5 ⟨0xE2004, 2, 0⟩)) (fun t => (t.th.tile 3).elem 0 0 == 6 && (t.th.tile 3).elem 0 1 == 0) = true := by
  decide +kernel

/-- R203: an extent of 100 in blocks of 32 falls to one task whole, with 4 elements in its last block. -/
theorem test_geom : W.goes (exec (.geom 8 4 5) (W.by (W.two 0x2000000064 0) fun t => { t with geomdim := 0x100010001, geompos := 0 })) (fun t =>
    t.th.getS 8 == ⟨0, 0⟩ && t.th.getS 9 == ⟨100, 0⟩ && t.th.getS 10 == ⟨100, 0⟩ && t.th.getS 11 == ⟨0xF, 0⟩) = true := by decide +kernel

/-- R337, R345: nothing is pending, and an empty event queue gives a record of zeros. -/
theorem test_ftest_evpop : W.leaves (.ftest 3 7 0) W.mem 3 0 = true ∧ W.leaves (.ftest 3 6 0) (W.waiting .bamo) 3 1 = true
    ∧ W.goes (exec (.evpop 6 5) (W.mem.wv 6 ⟨9, 0⟩)) (fun t => (t.th.getV 6).val == 0) = true := by decide +kernel

/-- R346: CHADV frees a slot and gives RD; beyond the filled ones it raises CHANNEL (0x0D). -/
theorem test_chadv : W.leaves (.chadv 6 5) (W.chans 3 1 0 0x20000) 6 3 = true
    ∧ W.goes (exec (.chadv 6 5) (W.chans 3 1 0 0x30000)) (fun t => t.th.tcause == 0x0D && t.th.tval == 2) = true := by decide +kernel

/-- R379: the last arrival starts phase 8 and wakes the two that wait. -/
theorem test_barrier : W.goes (exec (.barr 6 5) (W.put (W.cells [⟨.cls 0 0 3, W.mem.th.owner, 3, 2, 0, 7, []⟩]) [(5, 3)])) (fun t =>
    t.th.getS 6 == ⟨8, 0⟩ && (t.others.map (fun u => u.wait)) == [.none, .none] && (t.others.map (fun u => (u.getS 8).val)) == [8, 0]) = true := by
  decide +kernel

/-- R383: CCNT gives the status word of a counter of the job. -/
theorem test_ccnt : W.leaves (.ccnt 3 4 0) (W.put (W.counter 0x8000000000000000) [(4, 5)]) 3 77 = true := by decide +kernel

/-- R65: REP sets REPLEFT to its count and the group goes on; R63: a HIMM gives the upper bits of an immediate. -/
theorem test_hints : W.goes (exec (.rep 7 1 1 1) W.mem) (fun t => t.th.repleft == 8 && t.th.pc == 0x10004) = true
    ∧ W.leaves (.addi 3 0 0x0001) (W.by W.mem fun t => { t with pfx := some ⟨0x10000, none, some 1, none, false⟩ }) 3 0x4001 = true := by
  decide +kernel

/-- The first step after reset with a word placed: LHI shifts its field by 13 (R131), then the pc moves on. -/
theorem test_first_step : W.goes (step (State.reset.withFetchWord 32 0x24600012)) (fun t => t.th.getS 6 == ⟨0x24000, 0⟩ && t.th.pc == 0x10004) = true := by
  decide +kernel

/-- R307, R418: the header of the example's guest packet and its two flits; the check of the second example's sector. -/
theorem test_wire : (let p : GuestPkt := ⟨0x5766, 0xC4310503, false, 0, false, 1, true, false, 8, 0, 0x21, 0x12, 0, [.scalar ⟨1, 0⟩, .scalar ⟨2, 0⟩], []⟩
      guestWord0 p == 0x00005766C4310503 && guestWord1 p == 0x0002064000210012 && (guestBytes p).length == 64) = true
    ∧ sectorCheck (List.replicate 31 0 ++ [1]) = 0x8BB7 := by decide +kernel

/-- R407: a doorbell write wakes its reader; R420: a soft error that is corrected is counted. -/
theorem test_events : W.goes (exec (.doorbellWrite 3) W.mem) (fun t => (t.reader 3).awake && t.pending == [.launchPacket 3]) = true
    ∧ W.goes (exec (.softErrorCorrected (.cleanCopy 4 0 0 0)) W.mem) (fun t => t.boundary.soft.length == 1) = true := by decide +kernel

end Sys2Proof.Tests
end

/-! Frames of the register and control instructions: retirement and a taken transfer move only what `bare` leaves out, and
a write of a scalar register moves that register. -/

namespace Sys2Proof.Machine

open Sys2Proof.Claims

@[simp] theorem Thread.retire_getS (t : Thread) (n : BitVec 6) : t.retire.getS n = t.getS n := by
  simp [Thread.getS]

@[simp] theorem Thread.retire_getV (t : Thread) (n : BitVec 6) : t.retire.getV n = t.getV n := by
  simp [Thread.getV]

@[simp] theorem bare_retire (t : Thread) : bare t.retire = bare t := by
  obtain ⟨_, _, _, _, _, _, e⟩ := t.retire_form
  rw [e]; rfl

@[simp] theorem bare_setS (t : Thread) (d : BitVec 6) (r : SReg) : bare (t.setS d r) = bare t := by
  unfold Thread.setS
  split <;> rfl

/-- A transfer writes pc, INSTRET, REPLEFT and what is left of its group, and nothing else (R135). -/
theorem Thread.jump_form (t : Thread) (x : Word) : ∃ i g r,
    t.jump x = { t with pc := x, instret := i, pfx := g, repleft := r } := by
  unfold Thread.jump Thread.endGroup Thread.count
  split <;> exact ⟨_, _, _, rfl⟩

@[simp] theorem bare_jump (t : Thread) (x : Word) : bare (t.jump x) = bare t := by
  obtain ⟨_, _, _, e⟩ := t.jump_form x
  rw [e]; rfl

@[simp] theorem Thread.jump_getS (t : Thread) (x : Word) (n : BitVec 6) : (t.jump x).getS n = t.getS n := by
  obtain ⟨_, _, _, e⟩ := t.jump_form x
  rw [e]; rfl

@[simp] theorem Thread.jump_getV (t : Thread) (x : Word) (n : BitVec 6) : (t.jump x).getV n = t.getV n := by
  obtain ⟨_, _, _, e⟩ := t.jump_form x
  rw [e]; rfl

/-- A write of scalar register `d` reads back as R105 to R107 say, and leaves the vector registers. -/
theorem scalarRegs_setS (t : Thread) (d : BitVec 6) (r : SReg) : scalarRegs t (t.setS d r) d r :=
  ⟨fun n => t.getS_setS d n r, fun n => t.getV_setS d n r⟩

/-- Whatever keeps the registers and the bare thread may follow the write of a scalar register. -/
theorem scalarOnly_of_setS {s : State} {u : Thread} {d : BitVec 6} {r : SReg} (hb : bare u = bare (s.th.setS d r))
    (hs : ∀ n, u.getS n = (s.th.setS d r).getS n) (hv : ∀ n, u.getV n = (s.th.setS d r).getV n) :
    scalarOnly s { s with th := u } d r := by
  obtain ⟨ks, kv⟩ := scalarRegs_setS s.th d r
  exact ⟨rfl, hb.trans (bare_setS ..), fun n => (hs n).trans (ks n), fun n => (hv n).trans (kv n)⟩

/-- A scalar image written, then retirement (R88, R125). -/
theorem wsImg_retire_scalarOnly (s : State) (d : BitVec 6) (r : SReg) :
    ∃ t, (s.wsImg d r).retire = .next t ∧ scalarOnly s t d r :=
  ⟨_, State.retire_next _, scalarOnly_of_setS (bare_retire _) (Thread.retire_getS _) (Thread.retire_getV _)⟩

/-- A value written with tail 00, then retirement (R125). -/
theorem ws_retire_scalarOnly (s : State) (d : BitVec 6) {v w : Word} (h : v = w) :
    ∃ t, (s.ws d v).retire = .next t ∧ scalarOnly s t d ⟨w, 0⟩ :=
  h ▸ wsImg_retire_scalarOnly s d ⟨v, 0⟩

/-- Retirement alone writes no register. -/
theorem retire_nothing (s : State) : nothing s { s with th := s.th.retire } :=
  ⟨rfl, bare_retire _, Thread.retire_getS _, Thread.retire_getV _⟩

/-- A taken transfer writes no register and goes on at its target. -/
theorem jump_goesTo (s : State) (x : Word) : goesTo s { s with th := s.th.jump x } x :=
  ⟨⟨rfl, bare_jump .., s.th.jump_getS x, s.th.jump_getV x⟩, rfl⟩

/-- A jump that links writes its link register and goes on at its target (R133). -/
theorem link_jump_scalarOnly (s : State) (d : BitVec 6) (x : Word) :
    scalarOnly s { s with th := (s.th.link d).jump x } d ⟨s.th.pc + 4, 0⟩ :=
  scalarOnly_of_setS (bare_jump ..) (Thread.jump_getS _ x) (Thread.jump_getV _ x)

end Sys2Proof.Machine

/-! Values of the INT instructions as numbers (R126 to R130): the model computes on words, the statements on naturals and
integers. -/

namespace Sys2Proof.Machine

open Sys2Proof.Claims

theorem sh6_eq_mod (y : Word) : sh6 y = y.toNat % 64 := by simp [sh6]

theorem sh5_eq_mod (y : Word) : sh5 y = y.toNat % 32 := by simp [sh5]

theorem sub_eq_ofInt (x y : Word) : x - y = BitVec.ofInt 64 (x.toInt - y.toInt) := by
  rw [Int.sub_eq_add_neg, BitVec.ofInt_add, BitVec.ofInt_neg, BitVec.ofInt_toInt, BitVec.ofInt_toInt, BitVec.sub_eq_add_neg]

theorem mul_eq_ofInt {w : Nat} (x y : BitVec w) : x * y = BitVec.ofInt w (x.toInt * y.toInt) := by
  rw [BitVec.ofInt_mul, BitVec.ofInt_toInt, BitVec.ofInt_toInt]

theorem shiftLeft_eq_ofNat {w : Nat} (x : BitVec w) (n : Nat) : x <<< n = BitVec.ofNat w (x.toNat * 2 ^ n) := by
  apply BitVec.eq_of_toNat_eq
  rw [BitVec.toNat_shiftLeft, Nat.shiftLeft_eq, BitVec.toNat_ofNat]

theorem ushiftRight_eq_ofNat {w : Nat} (x : BitVec w) (n : Nat) : x >>> n = BitVec.ofNat w (x.toNat / 2 ^ n) := by
  rw [← Nat.shiftRight_eq_div_pow, ← BitVec.toNat_ushiftRight, BitVec.ofNat_toNat, BitVec.setWidth_eq]

theorem sshiftRight_eq_ofInt {w : Nat} (x : BitVec w) (n : Nat) : x.sshiftRight n = BitVec.ofInt w (x.toInt / 2 ^ n) := by
  rw [BitVec.sshiftRight_eq, Int.shiftRight_eq_div_pow]; norm_cast

theorem rotateLeft_eq_or (x : Word) {n : Nat} (h : n < 64) : x.rotateLeft n = (x <<< n) ||| (x >>> (64 - n)) := by
  rw [BitVec.rotateLeft_def, Nat.mod_eq_of_lt h]

theorem rotateRight_eq_or (x : Word) {n : Nat} (h : n < 64) : x.rotateRight n = (x >>> n) ||| (x <<< (64 - n)) := by
  rw [BitVec.rotateRight_def, Nat.mod_eq_of_lt h]

theorem ite_slt_left (x y : Word) : (if x.slt y then x else y) = BitVec.ofInt 64 (min x.toInt y.toInt) := by
  simp only [BitVec.slt_iff_toInt_lt]
  split
  · rw [min_eq_left (by omega), BitVec.ofInt_toInt]
  · rw [min_eq_right (by omega), BitVec.ofInt_toInt]

theorem ite_slt_right (x y : Word) : (if x.slt y then y else x) = BitVec.ofInt 64 (max x.toInt y.toInt) := by
  simp only [BitVec.slt_iff_toInt_lt]
  split
  · rw [max_eq_right (by omega), BitVec.ofInt_toInt]
  · rw [max_eq_left (by omega), BitVec.ofInt_toInt]

theorem ite_ult_left (x y : Word) : (if x.ult y then x else y) = BitVec.ofNat 64 (min x.toNat y.toNat) := by
  simp only [BitVec.ult_iff_toNat_lt]
  split
  · rw [min_eq_left (by omega), BitVec.ofNat_toNat, BitVec.setWidth_eq]
  · rw [min_eq_right (by omega), BitVec.ofNat_toNat, BitVec.setWidth_eq]

theorem ite_ult_right (x y : Word) : (if x.ult y then y else x) = BitVec.ofNat 64 (max x.toNat y.toNat) := by
  simp only [BitVec.ult_iff_toNat_lt]
  split
  · rw [max_eq_right (by omega), BitVec.ofNat_toNat, BitVec.setWidth_eq]
  · rw [max_eq_left (by omega), BitVec.ofNat_toNat, BitVec.setWidth_eq]

theorem flag_slt (x y : Word) : flag (x.slt y) = if x.toInt < y.toInt then 1 else 0 := by
  simp only [flag, BitVec.slt_iff_toInt_lt]

theorem flag_ult (x y : Word) : flag (x.ult y) = if x.toNat < y.toNat then 1 else 0 := by
  simp only [flag, BitVec.ult_iff_toNat_lt]

theorem flag_beq (x y : Word) : flag (x == y) = if x = y then 1 else 0 := by
  simp only [flag, beq_iff_eq]

theorem flag_bne (x y : Word) : flag (x != y) = if x = y then 0 else 1 := by
  simp only [flag, bne_iff_ne, ne_eq, ite_not]

/-- The low half of an integer's word is the integer's half word. -/
theorem setWidth32_ofInt (k : Int) : (BitVec.ofInt 64 k).setWidth 32 = BitVec.ofInt 32 k := by
  apply BitVec.eq_of_toNat_eq
  rw [BitVec.toNat_setWidth, BitVec.toNat_ofInt, BitVec.toNat_ofInt]
  omega

theorem setWidth32_eq_ofInt (x : Word) : x.setWidth 32 = BitVec.ofInt 32 x.toInt := by
  rw [← setWidth32_ofInt, BitVec.ofInt_toInt]

theorem addw_value (x y : Word) : sextW ((x + y).setWidth 32) = (BitVec.ofNat 32 (x.toNat + y.toNat)).signExtend 64 := by
  rw [sextW, BitVec.add_def, BitVec.setWidth_ofNat_of_le (by decide)]

theorem subw_value (x y : Word) : sextW ((x - y).setWidth 32) = (BitVec.ofInt 32 (x.toInt - y.toInt)).signExtend 64 := by
  rw [sextW, sub_eq_ofInt, setWidth32_ofInt]

theorem mulw_value (x y : Word) :
    sextW (x.setWidth 32 * y.setWidth 32) = (BitVec.ofInt 32 (x.toInt * y.toInt)).signExtend 64 := by
  rw [sextW, setWidth32_eq_ofInt, setWidth32_eq_ofInt, ← BitVec.ofInt_mul]

theorem shlw_value (x y : Word) :
    sextW (x.setWidth 32 <<< sh5 y) = (BitVec.ofNat 32 (x.toNat * 2 ^ (y.toNat % 32))).signExtend 64 := by
  have h : x.setWidth 32 <<< sh5 y = BitVec.ofNat 32 (x.toNat * 2 ^ (y.toNat % 32)) := by
    rw [sh5_eq_mod, shiftLeft_eq_ofNat]
    apply BitVec.eq_of_toNat_eq
    simp [Nat.mod_mul_mod]
  rw [sextW, h]

theorem shrw_value (x y : Word) :
    sextW (x.setWidth 32 >>> sh5 y) = (BitVec.ofNat 32 (x.toNat % 2 ^ 32 / 2 ^ (y.toNat % 32))).signExtend 64 := by
  rw [sextW, sh5_eq_mod, ushiftRight_eq_ofNat, BitVec.toNat_setWidth]

theorem sraw_value (x y : Word) :
    (sextW (x.setWidth 32)).sshiftRight (sh5 y) = BitVec.ofInt 64 ((x.setWidth 32).toInt / 2 ^ (y.toNat % 32)) := by
  rw [sshiftRight_eq_ofInt, sh5_eq_mod, sextW, BitVec.toInt_signExtend_of_le (by decide)]

/-- The quotient by a divisor other than zero; the most negative number by -1 wraps to itself (R127). -/
theorem divS_value (x y : Word) : divS x y = if y = 0 then BitVec.allOnes 64
    else if x = BitVec.intMin 64 ∧ y = BitVec.allOnes 64 then x else BitVec.ofInt 64 (x.toInt.tdiv y.toInt) := by
  unfold divS
  by_cases h0 : y = 0
  · rw [if_pos h0, if_pos h0]; rfl
  rw [if_neg h0, if_neg h0]
  split
  case isTrue h =>
    obtain ⟨rfl, rfl⟩ := h
    decide
  case isFalse => rfl

theorem divU_value (x y : Word) :
    divU x y = if y = 0 then BitVec.allOnes 64 else BitVec.ofNat 64 (x.toNat / y.toNat) := by
  rw [divU, BitVec.udiv_def]; rfl

/-- The remainder by a divisor other than zero; the most negative number by -1 leaves 0 (R127). -/
theorem remS_value (x y : Word) : remS x y = if y = 0 then x
    else if x = BitVec.intMin 64 ∧ y = BitVec.allOnes 64 then 0
    else BitVec.ofInt 64 (x.toInt - y.toInt * x.toInt.tdiv y.toInt) := by
  unfold remS
  by_cases h0 : y = 0
  · rw [if_pos h0, if_pos h0]
  rw [if_neg h0, if_neg h0, Int.tmod_def]
  split
  case isTrue h =>
    obtain ⟨rfl, rfl⟩ := h
    decide
  case isFalse => rfl

theorem remU_value (x y : Word) : remU x y = if y = 0 then x else BitVec.ofNat 64 (x.toNat % y.toNat) := by
  rw [remU, BitVec.umod_def]

theorem zextN_value (n : Nat) (x : Word) : zextN n x = BitVec.ofNat 64 (x.toNat % 2 ^ n) := by
  apply BitVec.eq_of_toNat_eq
  simp [zextN]

/-- The first index with a property, counted from `k`, is the length of the run before it. -/
theorem find?_range'_getD (p : Nat → Bool) (k n : Nat) :
    ((List.range' k n).find? p).getD (k + n) = k + ((List.range' k n).takeWhile (fun i => !p i)).length := by
  induction n generalizing k with
  | zero => rfl
  | succ n ih =>
    rw [List.range'_succ]
    cases h : p k with
    | true => simp [h]
    | false =>
      rw [List.find?_cons_of_neg (by simp [h]), List.takeWhile_cons_of_pos (by simp [h]), List.length_cons,
        show k + (n + 1) = k + 1 + n by omega, ih]
      omega

theorem find?_range_getD (p : Nat → Bool) (n : Nat) :
    ((List.range n).find? p).getD n = ((List.range n).takeWhile (fun i => !p i)).length := by
  simpa [List.range_eq_range'] using find?_range'_getD p 0 n

theorem length_filter_eq_sum (p : Nat → Bool) (l : List Nat) :
    (l.filter p).length = (l.map (fun i => (p i).toNat)).sum := by
  induction l with
  | nil => rfl
  | cons i l ih => cases h : p i <;> simp [h, ih, Nat.add_comm]

theorem ofBits_succ (f : Nat → Bool) (n : Nat) : ofBits f (n + 1) = 2 ^ n * (f n).toNat + ofBits f n := by
  simp [ofBits, List.range_succ, Nat.mul_comm, Nat.add_comm]

theorem ofBits_lt (f : Nat → Bool) (n : Nat) : ofBits f n < 2 ^ n := by
  induction n with
  | zero => exact Nat.one_pos
  | succ n ih =>
    have hb : 2 ^ n * (f n).toNat ≤ 2 ^ n := by simpa using Nat.mul_le_mul_left (2 ^ n) (f n).toNat_le
    rw [ofBits_succ, Nat.pow_succ]
    omega

/-- The bits of the number of a list of bits. -/
theorem testBit_ofBits (f : Nat → Bool) (n j : Nat) : (ofBits f n).testBit j = (decide (j < n) && f j) := by
  induction n with
  | zero => simp [ofBits]
  | succ n ih =>
    rw [ofBits_succ, Nat.testBit_two_pow_mul_add _ (ofBits_lt f n), ih]
    obtain h | rfl | h := Nat.lt_trichotomy j n
    · simp [h, Nat.lt_succ_of_lt h]
    · cases f j <;> simp
    · simp [Nat.testBit_bool_toNat, show ¬ j < n by omega, show ¬ j < n + 1 by omega, show j - n ≠ 0 by omega]

theorem brevW_value (x : Word) : brevW x = BitVec.ofNat 64 (ofBits (fun i => x.getLsbD (63 - i)) 64) := by
  apply BitVec.eq_of_getLsbD_eq
  intro i hi
  rw [brevW, BitVec.getLsbD_reverse, BitVec.getLsbD_ofNat, testBit_ofBits, BitVec.getMsbD]
  simp [hi]

theorem natOfBytes_concat (l : List Byte) (b : Byte) : natOfBytes (l ++ [b]) = natOfBytes l + 256 ^ l.length * b.toNat := by
  induction l with
  | nil => simp [natOfBytes]
  | cons c l ih => simp only [List.cons_append, natOfBytes, ih, List.length_cons, Nat.pow_succ]; ring

/-- The bytes of a number in reverse order: byte i stands at n - 1 - i. -/
theorem natOfBytes_reverse (n v : Nat) : natOfBytes (bytesOfNat n v).reverse =
    ((List.range n).map (fun i => v / 256 ^ i % 256 * 256 ^ (n - 1 - i))).sum := by
  induction n generalizing v with
  | zero => rfl
  | succ n ih =>
    have later : ∀ i, v / 256 / 256 ^ i % 256 * 256 ^ (n - 1 - i) = v / 256 ^ (i + 1) % 256 * 256 ^ (n - (i + 1)) := by
      intro i
      rw [Nat.div_div_eq_div_mul, ← Nat.pow_succ', Nat.sub_sub, Nat.add_comm 1 i]
    rw [bytesOfNat, List.reverse_cons, natOfBytes_concat, ih, List.length_reverse, bytesOfNat_length, List.range_succ_eq_map]
    simp [later, Function.comp_def, Nat.add_comm, Nat.mul_comm]

theorem bswapW_value (x : Word) : bswapW x =
    BitVec.ofNat 64 (((List.range 8).map (fun i => x.toNat / 256 ^ i % 256 * 256 ^ (7 - i))).sum) := by
  rw [bswapW, natOfBytes_reverse]

end Sys2Proof.Machine

/-! O1: the INT instructions (R126 to R128). -/

namespace Sys2Proof.Claims

open Sys2Proof.Machine

/-- A two-source instruction is its function of the model, whatever formula gives the function's values. -/
theorem int2_congr (s : State) (d a b : BitVec 6) {f g : Word → Word → Word} (h : ∀ x y, f x y = g x y) :
    s.int2 d a b f = s.int2 d a b g := by
  rw [funext₂ h]

theorem int1_congr (s : State) (d a : BitVec 6) {f g : Word → Word} (h : ∀ x, f x = g x) : s.int1 d a f = s.int1 d a g := by
  rw [funext h]

theorem int2_scalarOnly (s : State) (d a b : BitVec 6) (f : Word → Word → Word) :
    ∃ t, s.int2 d a b f = .next t ∧ scalarOnly s t d ⟨f (s.rs a) (s.rs b), 0⟩ := ws_retire_scalarOnly s d rfl

theorem int1_scalarOnly (s : State) (d a : BitVec 6) (f : Word → Word) :
    ∃ t, s.int1 d a f = .next t ∧ scalarOnly s t d ⟨f (s.rs a), 0⟩ := ws_retire_scalarOnly s d rfl

/-- Each two-source instruction computes the number the statement gives (R126). -/
theorem exec_twoSource (s : State) (d a b : BitVec 6) : ∀ p ∈ twoSource d a b, exec p.1 s = s.int2 d a b p.2 := by
  simp only [twoSource, List.forall_mem_cons]
  refine ⟨?add, ?sub, ?and, ?or, ?xor, ?andn, ?orn, ?xnor, ?shl, ?shr, ?sra, ?rol, ?ror, ?min, ?max, ?minu, ?maxu, ?slt,
    ?sltu, ?seq, ?sne, ?mul, ?mulh, ?mulhu, ?addw, ?subw, ?mulw, ?shlw, ?shrw, ?sraw, List.forall_mem_nil _⟩
  case add => exact (exec_add ..).trans (int2_congr s d a b BitVec.add_def)
  case sub => exact (exec_sub ..).trans (int2_congr s d a b sub_eq_ofInt)
  case and => exact exec_and ..
  case or => exact exec_or ..
  case xor => exact exec_xor ..
  case andn => exact exec_andn ..
  case orn => exact exec_orn ..
  case xnor => exact exec_xnor ..
  case shl => exact (exec_shl ..).trans (int2_congr s d a b fun x y => sh6_eq_mod y ▸ shiftLeft_eq_ofNat x _)
  case shr => exact (exec_shr ..).trans (int2_congr s d a b fun x y => sh6_eq_mod y ▸ ushiftRight_eq_ofNat x _)
  case sra => exact (exec_sra ..).trans (int2_congr s d a b fun x y => sh6_eq_mod y ▸ sshiftRight_eq_ofInt x _)
  case rol => exact (exec_rol ..).trans (int2_congr s d a b fun x y =>
    sh6_eq_mod y ▸ rotateLeft_eq_or x (Nat.mod_lt _ (by decide)))
  case ror => exact (exec_ror ..).trans (int2_congr s d a b fun x y =>
    sh6_eq_mod y ▸ rotateRight_eq_or x (Nat.mod_lt _ (by decide)))
  case min => exact (exec_min ..).trans (int2_congr s d a b ite_slt_left)
  case max => exact (exec_max ..).trans (int2_congr s d a b ite_slt_right)
  case minu => exact (exec_minu ..).trans (int2_congr s d a b ite_ult_left)
  case maxu => exact (exec_maxu ..).trans (int2_congr s d a b ite_ult_right)
  case slt => exact (exec_slt ..).trans (int2_congr s d a b flag_slt)
  case sltu => exact (exec_sltu ..).trans (int2_congr s d a b flag_ult)
  case seq => exact (exec_seq ..).trans (int2_congr s d a b flag_beq)
  case sne => exact (exec_sne ..).trans (int2_congr s d a b flag_bne)
  case mul => exact (exec_mul ..).trans (int2_congr s d a b mul_eq_ofInt)
  case mulh => exact exec_mulh ..
  case mulhu => exact exec_mulhu ..
  case addw => exact (exec_addw ..).trans (int2_congr s d a b addw_value)
  case subw => exact (exec_subw ..).trans (int2_congr s d a b subw_value)
  case mulw => exact (exec_mulw ..).trans (int2_congr s d a b mulw_value)
  case shlw => exact (exec_shlw ..).trans (int2_congr s d a b shlw_value)
  case shrw => exact (exec_shrw ..).trans (int2_congr s d a b shrw_value)
  case sraw => exact (exec_sraw ..).trans (int2_congr s d a b sraw_value)

/-- Each one-source instruction computes the number the statement gives (R126, R128). -/
theorem exec_oneSource (s : State) (d a : BitVec 6) : ∀ p ∈ oneSource d a, exec p.1 s = s.int1 d a p.2 := by
  simp only [oneSource, List.forall_mem_cons]
  refine ⟨?clz, ?ctz, ?popc, ?brev, ?bswap, ?sext8, ?sext16, ?sext32, ?zext8, ?zext16, ?zext32, List.forall_mem_nil _⟩
  case clz => exact (exec_clz ..).trans (int1_congr s d a fun x =>
    congrArg _ (find?_range_getD (fun i => x.getLsbD (63 - i)) 64))
  case ctz => exact (exec_ctz ..).trans (int1_congr s d a fun x =>
    congrArg _ (find?_range_getD (fun i => x.getLsbD i) 64))
  case popc => exact (exec_popc ..).trans (int1_congr s d a fun x =>
    congrArg _ (length_filter_eq_sum (fun i => x.getLsbD i) _))
  case brev => exact (exec_brev ..).trans (int1_congr s d a brevW_value)
  case bswap => exact (exec_bswap ..).trans (int1_congr s d a bswapW_value)
  case sext8 => exact exec_sext ..
  case sext16 => exact exec_sext ..
  case sext32 => exact exec_sext ..
  case zext8 => exact (exec_zext ..).trans (int1_congr s d a (zextN_value 8))
  case zext16 => exact (exec_zext ..).trans (int1_congr s d a (zextN_value 16))
  case zext32 => exact (exec_zext ..).trans (int1_congr s d a (zextN_value 32))

end Sys2Proof.Claims

/-! The words of one-source operations and of branches. -/

namespace Sys2Proof

/-- A word that decodes to an instruction other than a hint without effect is that instruction's own word (R69). -/
theorem decodeWord_word {w : BitVec 32} {i : Instr} (h : decodeWord w = .ok i) :
    decodeRaw w.toNat = .ok i ∧ (isNopHint i = true ∨ encodeNat i = some w.toNat) := by
  unfold decodeWord at h
  cases hr : decodeRaw w.toNat with
  | error e => simp [hr] at h
  | ok j =>
    simp only [hr] at h
    split at h
    case isFalse => cases h
    case isTrue hw =>
      split at h
      · cases h
        exact ⟨rfl, by simpa using hw⟩
      · cases h

/-- The functions of INT with one source (R126). -/
def oneSourceFns : List Nat := [28, 29, 30, 31, 32, 41]

/-- The encoder leaves the b field of a one-source operation zero (R126). -/
theorem decodeMajor01_oneSource {n : Nat} {i : Instr} (hf : n / 2 ^ 0 % 2 ^ 8 ∈ oneSourceFns) (h : decodeMajor01 n = .ok i) :
    isNopHint i = false ∧ ∃ m, encodeNat i = some m ∧ m / 2 ^ 8 % 2 ^ 6 = 0 := by
  unfold decodeMajor01 at h
  simp only [oneSourceFns, List.mem_cons, List.not_mem_nil, or_false] at hf
  obtain e | e | e | e | e | e := hf <;> rw [e] at h <;> cases h <;>
    exact ⟨rfl, _, rfl, by rw [fld_toNat, fld_toNat]; omega⟩

end Sys2Proof

namespace Sys2Proof.Claims

open Sys2Proof.Machine

/-- A word of a one-source operation whose b field is not zero is no instruction (R126). -/
theorem decodeWord_oneSource_b {w : BitVec 32} {i : Instr} (hm : w.extractLsb' 26 6 = 1) (hb : w.extractLsb' 8 6 ≠ 0)
    (hf : w.extractLsb' 0 8 ∈ ([28, 29, 30, 31, 32, 41] : List (BitVec 8))) : decodeWord w ≠ .ok i := by
  intro h
  have hmajor : w.toNat / 2 ^ 26 = 1 := by
    have e := congrArg BitVec.toNat hm
    have l := w.isLt
    simp only [BitVec.extractLsb'_toNat, Nat.shiftRight_eq_div_pow] at e
    change _ = 1 at e
    omega
  have hfn : w.toNat / 2 ^ 0 % 2 ^ 8 ∈ oneSourceFns := by
    simpa [oneSourceFns] using List.mem_map_of_mem (f := BitVec.toNat) hf
  obtain ⟨hr, hw⟩ := decodeWord_word h
  rw [decodeRaw_01 hmajor] at hr
  obtain ⟨hn, m, he, hz⟩ := decodeMajor01_oneSource hfn hr
  have hm : m = w.toNat := by simpa [hn, he] using hw
  apply hb
  apply BitVec.eq_of_toNat_eq
  rw [BitVec.extractLsb'_toNat, Nat.shiftRight_eq_div_pow, ← hm, hz]
  rfl

/-- Settles O1: every formula of the statement is the model's own function, and every such instruction is a write of s[d]
followed by retirement. -/
theorem integerResults : Obligations.IntegerResults := by
  unfold Obligations.IntegerResults
  intro s d a b
  refine ⟨fun p hp => ?_, fun p hp => ?_, ?mov, ?div, ?divu, ?rem, ?remu, fun w i => decodeWord_oneSource_b⟩
  · rw [exec_twoSource s d a b p hp]; exact int2_scalarOnly ..
  · rw [exec_oneSource s d a p hp]; exact int1_scalarOnly ..
  case mov => exact wsImg_retire_scalarOnly s d _
  case div => exact ws_retire_scalarOnly s d (divS_value ..)
  case divu => exact ws_retire_scalarOnly s d (divU_value ..)
  case rem => exact ws_retire_scalarOnly s d (remS_value ..)
  case remu => exact ws_retire_scalarOnly s d (remU_value ..)

end Sys2Proof.Claims

/-! O2: the immediate forms (R129 to R131). -/

namespace Sys2Proof.Claims

open Sys2Proof.Machine

/-- The immediate of the statement is the model's (R63, R129). -/
theorem imm36_eq_imm (s : State) (i : BitVec 14) : imm36 s i = s.th.imm 14 i := by
  unfold imm36 himmOf Thread.imm
  cases s.th.pfx.bind (·.himm) <;> rfl

/-- The upper value of the statement is the model's (R131). -/
theorem upper42_eq_imm (s : State) (i : BitVec 20) : upper42 s i = s.th.imm 20 i * 8192 := by
  unfold upper42 himmOf Thread.imm
  cases s.th.pfx.bind (·.himm) <;> rfl

theorem hiImm_eq_upper42 (s : State) (i : BitVec 20) : s.th.hiImm i = BitVec.ofInt 64 (upper42 s i) := by
  rw [Thread.hiImm, upper42_eq_imm]

/-- The immediate has 36 bits at most (R63). -/
theorem imm36_bounds (s : State) (i : BitVec 14) : -2 ^ 35 ≤ imm36 s i ∧ imm36 s i < 2 ^ 35 := by
  unfold imm36
  cases himmOf s with
  | none =>
    have hi : i.toInt < 2 ^ 13 := BitVec.toInt_lt
    have lo : -2 ^ 13 ≤ i.toInt := BitVec.le_toInt i
    change -2 ^ 35 ≤ i.toInt ∧ i.toInt < 2 ^ 35
    omega
  | some p => exact ⟨BitVec.le_toInt (p ++ i), BitVec.toInt_lt (x := p ++ i)⟩

/-- An immediate form computes on the immediate as a number (R129). -/
theorem intI_value (s : State) (d a : BitVec 6) (i : BitVec 14) {f : Word → Word → Word} {g : Word → Int → Word}
    (h : ∀ x k, -2 ^ 35 ≤ k → k < 2 ^ 35 → f x (BitVec.ofInt 64 k) = g x k) :
    s.intI d a i f = (s.ws d (g (s.rs a) (imm36 s i))).retire := by
  obtain ⟨lo, hi⟩ := imm36_bounds s i
  rw [State.intI, ← imm36_eq_imm, h _ _ lo hi]

theorem add_ofInt (x : Word) (k : Int) : x + BitVec.ofInt 64 k = BitVec.ofInt 64 (x.toInt + k) := by
  rw [BitVec.ofInt_add, BitVec.ofInt_toInt]

theorem flag_slt_ofInt (x : Word) (k : Int) (lo : -2 ^ 35 ≤ k) (hi : k < 2 ^ 35) :
    flag (x.slt (BitVec.ofInt 64 k)) = if x.toInt < k then 1 else 0 := by
  have e : (BitVec.ofInt 64 k).toInt = k := BitVec.toInt_ofInt_eq_self (by decide) (by omega) (by omega)
  rw [flag_slt, e]

theorem flag_ult_ofInt (x : Word) (k : Int) :
    flag (x.ult (BitVec.ofInt 64 k)) = if (x.toNat : Int) < k % 2 ^ 64 then 1 else 0 := by
  have e : x.toNat < (BitVec.ofInt 64 k).toNat ↔ (x.toNat : Int) < k % 2 ^ 64 := by
    rw [BitVec.toNat_ofInt]; omega
  simp only [flag_ult, e]

/-- Each immediate form computes the number the statement gives (R129, R130). -/
theorem exec_immediates (s : State) (d a : BitVec 6) (i : BitVec 14) (h : BitVec 6) : ∀ p ∈ immediates d a i h,
    exec p.1 s = (s.ws d (p.2 (s.rs a) (imm36 s i))).retire := by
  simp only [immediates, List.forall_mem_cons]
  refine ⟨?addi, ?andi, ?ori, ?xori, ?slti, ?sltiu, ?shli, ?shri, ?srai, ?rori, List.forall_mem_nil _⟩
  case addi => exact (exec_addi ..).trans (intI_value s d a i fun x k _ _ => add_ofInt x k)
  case andi => exact (exec_andi ..).trans (intI_value s d a i fun _ _ _ _ => rfl)
  case ori => exact (exec_ori ..).trans (intI_value s d a i fun _ _ _ _ => rfl)
  case xori => exact (exec_xori ..).trans (intI_value s d a i fun _ _ _ _ => rfl)
  case slti => exact (exec_slti ..).trans (intI_value s d a i (g := fun x k => if x.toInt < k then 1 else 0) flag_slt_ofInt)
  case sltiu => exact (exec_sltiu ..).trans (intI_value s d a i
    (g := fun x k => if (x.toNat : Int) < k % 2 ^ 64 then 1 else 0) fun x k _ _ => flag_ult_ofInt x k)
  case shli => exact (exec_shli ..).trans (int1_congr s d a fun x => shiftLeft_eq_ofNat x _)
  case shri => exact (exec_shri ..).trans (int1_congr s d a fun x => ushiftRight_eq_ofNat x _)
  case srai => exact (exec_srai ..).trans (int1_congr s d a fun x => sshiftRight_eq_ofInt x _)
  case rori => exact (exec_rori ..).trans (int1_congr s d a fun x => rotateRight_eq_or x h.isLt)

/-- Settles O2: the statement's immediate is the model's, and each form writes s[d] and retires. -/
theorem immediateResults : Obligations.ImmediateResults := by
  unfold Obligations.ImmediateResults
  intro s d a i h u
  refine ⟨fun p hp => ?_, ?lhi, ?pchi⟩
  · rw [exec_immediates s d a i h p hp]; exact ws_retire_scalarOnly s d rfl
  case lhi => exact ws_retire_scalarOnly s d (hiImm_eq_upper42 s u)
  case pchi => exact ws_retire_scalarOnly s d (congrArg (s.th.pc + ·) (hiImm_eq_upper42 s u))

end Sys2Proof.Claims

/-! O3 and O4: the branches and the jumps (R132, R133). -/

namespace Sys2Proof.Machine

open Sys2Proof.Claims

/-- The model's check of a target is the statement's range (R132). -/
theorem targetBad_eq_false_iff (x : Int) : targetBad x = false ↔ inRange x := by
  simp [targetBad, inRange]

/-- A transfer to a target within 48 bits is taken (R132). -/
theorem jumpTo_inRange (s : State) {x : Int} (f : Thread → Thread) (h : inRange x) :
    s.jumpTo x f = .next { s with th := (f s.th).jump (BitVec.ofInt 64 x) } := by
  rw [State.jumpTo, (targetBad_eq_false_iff x).2 h]; rfl

/-- A transfer to a target beyond 48 bits raises FETCH with the target (R132). -/
theorem jumpTo_outOfRange (s : State) {x : Int} (f : Thread → Thread) (h : ¬ inRange x) :
    s.jumpTo x f = .next (trapped s 0x10 (BitVec.ofInt 64 x)) := by
  rw [State.jumpTo, if_pos (by simpa [← targetBad_eq_false_iff] using h)]; rfl

end Sys2Proof.Machine

namespace Sys2Proof

/-- A word of major 0x0B with condition code `c` (R60, R132). -/
def branchWord (a b : BitVec 6) (c : Nat) (o : BitVec 11) : Nat :=
  0x0B * 2 ^ 26 + a.toNat * 2 ^ 20 + b.toNat * 2 ^ 14 + c * 2 ^ 11 + o.toNat

/-- The fields of a branch word are those it was made of. -/
theorem branchWord_fields (a b : BitVec 6) (o : BitVec 11) {c : Nat} (hc : c < 6) : let n := branchWord a b c o
    n / 2 ^ 26 = 11 ∧ n / 2 ^ 11 % 2 ^ 3 = c ∧ fld n 20 6 = a ∧ fld n 14 6 = b ∧ fld n 0 11 = o := by
  have ha := a.isLt
  have hb := b.isLt
  have ho := o.isLt
  unfold branchWord
  refine ⟨by omega, by omega, fld_of_toNat a (by omega), fld_of_toNat b (by omega), fld_of_toNat o (by omega)⟩

/-- Condition codes 0 to 5 are the six branches in order (R132). -/
theorem decodeWord_branchWord (a b : BitVec 6) (o : BitVec 11) (c : Nat) (hc : c < 6) :
    decodeWord (BitVec.ofNat 32 (branchWord a b c o)) = .ok ((Claims.branches a b o)[c]'hc).1 := by
  obtain ⟨hm, hcc, ha, hb, ho⟩ := branchWord_fields a b o hc
  have hr : decodeRaw (branchWord a b c o) = .ok ((Claims.branches a b o)[c]'hc).1 := by
    rw [decodeRaw_0B hm, decodeMajor0B, hcc, ha, hb, ho]
    interval_cases c <;> rfl
  refine decodeWord_of_raw (by omega) hr ?_ ?_
  · unfold branchWord
    interval_cases c <;> refine congrArg some ?_ <;> omega
  · interval_cases c <;> rfl

end Sys2Proof

namespace Sys2Proof.Claims

open Sys2Proof.Machine

/-- Each branch is the model's branch on the condition the statement gives (R132). -/
theorem exec_branches (s : State) (a b : BitVec 6) (o : BitVec 11) : ∀ p ∈ branches a b o,
    exec p.1 s = s.branch (p.2 (s.rs a) (s.rs b)) o := by
  simp only [branches, List.forall_mem_cons]
  refine ⟨?beq, ?bne, ?blt, ?bge, ?bltu, ?bgeu, List.forall_mem_nil _⟩
  case beq => rw [exec_beq, execBeq, beq_eq_decide]
  case bne => rw [exec_bne, execBne, bne, beq_eq_decide, decide_not]
  case blt => rw [exec_blt, execBlt, BitVec.slt_eq_decide]
  case bge => simp only [exec_bge, execBge, BitVec.slt_eq_decide, ← decide_not, not_lt]
  case bltu => rw [exec_bltu, execBltu, BitVec.ult_eq_decide]
  case bgeu => simp only [exec_bgeu, execBgeu, BitVec.ult_eq_decide, ← decide_not, not_lt]

/-- Settles O3: a branch either retires, or is a transfer to its pc-relative target. -/
theorem branchesGoToTheirTargets : Obligations.BranchesGoToTheirTargets := by
  unfold Obligations.BranchesGoToTheirTargets
  intro s a b o p hp
  rw [exec_branches s a b o p hp]
  refine ⟨fun h => ?notTaken, fun h hr => ?taken, fun h hr => ?beyond, decodeWord_branchWord a b o⟩
  case notTaken =>
    rw [h]
    refine ⟨_, State.retire_next s, retire_nothing s, fun ⟨hdepth, hpfx⟩ => ?_⟩
    exact congrArg Thread.pc (s.th.retire_flat hpfx hdepth)
  case taken =>
    rw [h]
    exact ⟨_, jumpTo_inRange s id hr, jump_goesTo ..⟩
  case beyond =>
    rw [h]
    exact jumpTo_outOfRange s id hr

/-- The two low bits of a word are zero when 4 divides it. -/
theorem extractLsb'_low2 (x : Word) : x.extractLsb' 0 2 = 0 ↔ x.toNat % 4 = 0 := by
  rw [← BitVec.toNat_inj, BitVec.extractLsb'_toNat]; simp

/-- The sixteen high bits of a word are zero when it is within 48 bits. -/
theorem extractLsb'_high16 (x : Word) : x.extractLsb' 48 16 = 0 ↔ x.toNat < 2 ^ 48 := by
  have l := x.isLt
  rw [← BitVec.toNat_inj, BitVec.extractLsb'_toNat, Nat.shiftRight_eq_div_pow]
  change _ = 0 ↔ _
  omega

/-- What JALR does with its target: ALIGN before FETCH, or the link and the transfer (R133). -/
theorem exec_jalr_target (s : State) (d a : BitVec 6) (i : BitVec 14) :
    let far : Word := s.rs a + BitVec.ofInt 64 (imm36 s i)
    exec (.jalr d a i) s = if far.toNat % 4 ≠ 0 then .next (trapped s 0x03 far)
      else if 2 ^ 48 ≤ far.toNat then .next (trapped s 0x10 far)
      else .next { s with th := (s.th.link d).jump far } := by
  simp only [exec_jalr, execJalr, imm36_eq_imm, ne_eq, extractLsb'_low2, extractLsb'_high16, not_lt]
  rfl

/-- Settles O4: a jump within range links and transfers, and one beyond it only traps. -/
theorem jumpsLinkAndGo : Obligations.JumpsLinkAndGo := by
  unfold Obligations.JumpsLinkAndGo
  intro s d a o i near far link
  have jal : exec (.jal d o) s = s.jumpTo near (·.link d) := exec_jal d o s
  have jalr := exec_jalr_target s d a i
  refine ⟨fun hr => ?jalGoes, fun hr => ?jalBeyond, fun h4 h48 => ?jalrGoes, fun h4 => ?jalrAlign, fun h4 h48 => ?jalrFetch⟩
  case jalGoes => exact ⟨_, jal.trans (jumpTo_inRange s _ hr), link_jump_scalarOnly .., rfl⟩
  case jalBeyond => exact jal.trans (jumpTo_outOfRange s _ hr)
  case jalrGoes =>
    exact ⟨_, jalr.trans ((if_neg (not_not_intro h4)).trans (if_neg (Nat.not_le.2 h48))), link_jump_scalarOnly .., rfl⟩
  case jalrAlign => exact jalr.trans (if_pos h4)
  case jalrFetch => exact jalr.trans ((if_neg (not_not_intro h4)).trans (if_pos h48))

end Sys2Proof.Claims
